-- ==== Sys2Proof/Word.lean ====
section
/-! DEFINITION. The word types of the LH4820: 64-bit register words, bytes and scalar tags (R7, R12, R37). -/

namespace Sys2Proof

/-- A 64-bit register or memory word (R12, R37). -/
abbrev Word := BitVec 64

/-- A byte of memory (R7). -/
abbrev Byte := BitVec 8

/-- A 4-bit scalar tag (R37, R39). -/
abbrev Tag := BitVec 4

end Sys2Proof
end

