-- ==== Sys2Proof/Syntax.lean ====
section
/-! DEFINITION. The commands of the LH4820: one constructor per row of the opcode table, with the operands that say
which unit a step concerns and what the outside world supplies to it (assumption log, row 2). -/

namespace Sys2Proof

/-- What the error code of a storage unit finds at an access: nothing, a corrected error, an uncorrectable one, or the bits of the unit that have
flipped, numbered as the codeword of a reel sector numbers them (R250), for the code itself to judge. -/
inductive ErrKind where
  | good
  | corrected
  | uncorrectable
  | flips (bits : BitVec 288)
  deriving DecidableEq, Repr

/-- An error of a cache or side buffer met by an access (R287): corrected, uncorrectable data, or an uncorrectable tag. -/
inductive CacheErr where
  | corrected
  | data
  | tag
  deriving DecidableEq, Repr

/-- What the return of a load meets: an error of its storage unit, or one of the cache that supplies it. -/
inductive LoadErr where
  | unit (e : ErrKind)
  | cache (e : CacheErr)
  deriving DecidableEq, Repr

/-- Who makes an access to registers: the host through BAR0, a management session, or a core at a physical position, to CSR space; or the host through
BAR2, to the MSI-X table and its pending bits, or by configuration requests, to the configuration space of the function (R361). -/
inductive Src where
  | host
  | mgmt
  | core (pos : Nat)
  | bar2
  | config
  deriving DecidableEq, Repr

/-- A write of the MRAM that a loss of power can cut off (R392, R405): of the last record of the broke log, of a training record, of a row of an
anti-rollback counter, of a user half of which `n` records have been written, or of the layout header or the boot record. -/
inductive MramTear where
  | logRecord
  | channel (i : Nat)
  | port (i : Nat)
  | island (i : Nat)
  | counter (k row : Nat)
  | userHalf (n : Nat)
  | boot
  deriving DecidableEq, Repr

/-- A fabric cell: its 16-byte header and its 256-byte payload as little-endian numbers (R307, R308). -/
structure Cell where
  header : BitVec 128
  payload : BitVec 2048
  deriving DecidableEq, Repr

/-- The FEC codewords of a cell as it came in: how many were corrected, and how many could not be (R310, R317, R356). -/
structure FecCount where
  corrected : Nat
  bad : Nat
  deriving DecidableEq, Repr

/-- An error in the vector (registers 0 to 31) or mask (32 to 39) file, found at one slice of a register (R156), or in a bank that vaccrd reads (40 to 43), at
one slice of 32 elements (R144, R188). `rows` is the number of rows that the tst and ast which it abandons have written, in the order of issue (R182). -/
structure RegErr where
  reg : Nat
  slice : Nat
  corrected : Bool
  rows : Nat
  deriving DecidableEq, Repr

/-- What a vector operation meets: an error of a register file, or one of the cache that supplies an element of a load (R156, R287). -/
inductive VecErr where
  | reg (e : RegErr)
  | cache (elem : Nat) (e : CacheErr)
  deriving DecidableEq, Repr

/-- What a tile or matrix operation meets (R187 to R189): a faulty column of an array (32 names the checksum column), whose window of an
activation row of a slot comes out `off` units of its last place too high; a corrected or an uncorrectable word of a tile register or a bank; or
an uncorrectable LDM word at an address. -/
inductive ArrayErr where
  | compare (array slot row col : Nat) (off : Int)
  | regData (corrected : Bool)
  | ldmData (addr : Nat)
  deriving DecidableEq, Repr

/-- What a host snoop asks of a line that the device caches (R292): the line alone, into which the host then stores `data` from its start, or a copy. -/
inductive SnoopKind where
  | invalidate (data : List Byte)
  | share
  deriving DecidableEq, Repr

/-- The position whose next leaf issues, and what has upset since the last command: words of lines in the caches, each in the copy that supplies that position
with the address (R287), and bits of the leaf in its program store (R47). -/
structure LeafTry where
  pos : Nat
  upsets : List (Nat × CacheErr)
  flips : BitVec 256
  deriving DecidableEq, Repr

/-- An error that a tile or matrix operation meets, and how many rows of a later tst or ast have been written by then (R182, R188). -/
structure ArrayFault where
  err : ArrayErr
  rows : Nat
  deriving DecidableEq, Repr

/-- What the most recent leaf has done when an exception stops it: slices of its vector operations and rows of its tst or ast (R101, R154, R182). -/
structure Progress where
  slices : Nat
  rows : Nat
  deriving DecidableEq, Repr

/-- What a message between the snapshot engines of a parity group is: the page with place `r` in a stripe of a generation, or a manifest (R426, R427); in a
rebuild for member `k`, a page from a member's store, a rebuilt page, or the manifest of the failed member (R433). No rule gives bits for it: it goes beside the
message's last cell (log row 187). -/
inductive PartMsg where
  | page (gen r : Nat)
  | manifest
  | stored (k gen r : Nat)
  | result (gen r : Nat)
  | area (gen : Nat)
  deriving DecidableEq, Repr

/-- A cell as it came in, with its FEC codewords, and what the message is that it ends where it is one of a parity group. -/
structure CellIn where
  cell : Cell
  fec : FecCount
  part : Option PartMsg
  deriving DecidableEq, Repr

/-- A cell that has waited too long: its stream, and the send flow that it belongs to, when it does (R327, R420). -/
structure Stall where
  stream : Nat
  flow : Option Nat
  deriving DecidableEq, Repr

/-- The end of a port's training: whether every lane reached its rate, and the temperature then (R320, R390). -/
structure PortTrained where
  ok : Bool
  temp : Int
  deriving DecidableEq, Repr

/-- An island whose calibration fails, with the value and the limit that its record names, in mV (R506, R507). -/
structure IslandFail where
  island : Nat
  value : Nat
  limit : Nat
  deriving DecidableEq, Repr

/-- What P2 meets: the islands' temperatures, the islands whose stored points the monitors refuse, and the island whose calibration fails. -/
structure IslandRun where
  temps : List Int
  refused : List Nat
  failed : Option IslandFail
  deriving DecidableEq, Repr

/-- What P3 meets: the stacks' temperatures, the channels whose stored values do not verify, and those that fail both trainings (R274). -/
structure ReelRun where
  temps : List Int
  unverified : List Nat
  failed : List Nat
  deriving DecidableEq, Repr

/-- A datagram of the management port, the IPv4 address and UDP port that it was sent to, and the straps as they stand should it reset the device (R382,
R478). -/
structure Datagram where
  bytes : List Byte
  addr : Nat
  udp : Nat
  seat : Nat
  role : Nat
  bootSrc : Nat
  deriving DecidableEq, Repr

/-- A JTAG instruction, and the clusters that a scan reaches (R493, R494). -/
structure JtagScan where
  code : Nat
  clusters : List Nat
  deriving DecidableEq, Repr

/-- A core's read of a mailbox (R462): the position of the core and the logical id of the mailbox. -/
structure MboxRead where
  pos : Nat
  id : Nat
  deriving DecidableEq, Repr

/-- The commands. -/
inductive Instr where
  -- cores
  | leafIssue (leaf : LeafTry)
  | programStoreFill (pos : Nat)
  | stringStep (pos : Nat)
  | loadReturn (pos idx : Nat) (err : LoadErr)
  | headboxTransferComplete (pos idx : Nat)
  | vectorOpComplete (pos : Nat) (err : Option VecErr)
  | tileOpCommit (pos : Nat)
  | arrayCheckFault (pos : Nat) (fault : ArrayFault)
  | exceptionEntry (pos : Nat) (done : Progress)
  | spareTakeover (c : Nat)
  | timerCompare (c slot : Nat)
  -- couch and self-test
  | couch (c : Nat)
  | couchLimitExpiry (c : Nat)
  | cluCouchGo (c : Nat) (v : Word)
  | rotationTurn (c : Nat)
  | suspectDue (k : Nat)
  | testSessionStart (c : Nat)
  | selfTestSliceEnd (c : Nat) (obtained : Word)
  | relPosreqTest (k : Nat)
  | relPosreqMark (k : Nat)
  | relPosreqUnmark (k : Nat)
  -- calender and NUM
  | norm (c : Nat)
  | contrib (c : Nat)
  | update (c : Nat)
  | endEntry (c : Nat)
  | calenderEntryDone (c : Nat)
  | deviceRecord (b : Nat)
  | millTotalReturn (b : Nat)
  | stepEnd (b : Nat)
  | calCtrlQreset (c : Nat)
  | numSlotCtrlClr (j : Nat) (v : Word)
  -- ordered-reduction buffers and caches
  | orbReduction (c j : Nat)
  | l2OrbCtrlEn (c j : Nat) (v : Word)
  | prefetchFillReturn (pos idx : Nat)
  | backInvalidateResponse (line : Nat)
  -- memory tiers
  | memPatvalWrite (v : Word)
  | patUpdateDone
  | memPatctlEn (v : Word)
  | bankGrant (ch bank : Nat)
  | scrubPass (addr : Nat) (err : ErrKind)
  | feltScrub (addr : Nat) (err : ErrKind)
  | retrainingWindowStart (ch : Nat)
  | retrainingWindowEnd (ch : Nat) (ok : Bool)
  | rowRemap (ch rank bank row : Nat)
  | surrenderRequest
  | surrenderDeadline
  | memSurack (v : Word)
  | migrationDone
  -- fabric
  | cellReceive (p : Nat) (cell : CellIn)
  | sheet (p : Nat)
  | replayTimeout (p : Nat)
  | cellStallTimeout (stall : Stall)
  | laneLockLoss (p : Nat)
  | fabPCtrlRetrain (p : Nat)
  | portRetrainWindowEnd (p : Nat) (ok : Bool)
  | portTrainingDone (p : Nat) (trained : PortTrained) (rtt : Nat)
  | epochBoundary
  | collectiveStart (n : Nat)
  | collectiveChunk (n seg chunk : Nat)
  | fabHold (v : Word)
  | fabPatch (v : Word)
  | fabRaise (v : Word)
  | fabSubst (v : Word)
  | fabJobctlLoad
  | fabJobctlStart
  | fabJobctlStop
  | fabStrCtrlReload (s : Nat)
  -- host interface
  | hostCounterRead (off : Nat)
  | rcRead (src : Src) (off size : Nat)
  | hostMemAccess (write : Bool) (hpa len : Nat) (data : List Byte)
  | hifQSqtail (n : Nat) (v : Word)
  | hifQCqhead (n : Nat) (v : Word)
  | hifQCtrlEn (n : Nat) (v : Word)
  | commandCompletion (n : Nat)
  | devFeatctlCommit
  | hifHdmctlEn (v : Word)
  | hifCdb (w : Nat) (v : Word)
  | hifCdbc (w : Nat) (v : Word)
  | msixUnmask (vec : Nat)
  | linkReset
  | cxlReset
  | ideKm (body : List Byte)
  | getVersion (body : List Byte)
  | getCapabilities (body : List Byte)
  | negotiateAlgorithms (body : List Byte)
  | getDigests (body : List Byte)
  | getCertificate (body : List Byte)
  | challenge (body : List Byte)
  | getMeasurements (body : List Byte)
  | keyExchange (body : List Byte)
  | finish (body : List Byte)
  | endSession (body : List Byte)
  -- start-up and settings
  | mainPowerGood (seat role bootSrc : Nat)
  | p1
  | p2 (run : IslandRun)
  | p3 (run : ReelRun)
  | p4
  | p5 (failed channels rows ways : List Nat) (shared : List (Nat × Nat))
  | p6
  | memberImageTimeout
  | cfgStoreStore
  | cfgStoreErase
  | storeComplete (ok : Bool)
  -- power, clocks and temperature
  | mainInputLow (mV : Nat)
  | mainCutoff (mV : Nat)
  | standbyLoss
  | modResetN (seat role bootSrc : Nat)
  | governorSample (mW mV inlet outlet : Nat)
  | thermalCapStep (c temp : Nat)
  | thermalCutoff (island temp : Nat)
  | clockStepChange (c : Nat)
  | timingMonitorRaise (island : Nat)
  -- snapshots
  | protectionInstant
  | snapCtrlNow
  | poolCopyDone (page : Nat)
  | pageDrained
  | shareCopy
  | snapRestoreGo (v : Word)
  | restoreComplete
  -- tender, management and security
  | datagramReceive (dgram : Datagram)
  | bootRomRun
  | confirm
  | trialTimeout
  | pendingActivation
  | sessionTimeout (k : Nat)
  | pendingSessionExpiry (k : Nat)
  | lockoutExpiry (k : Nat)
  | eventResend
  | cePeriodEnd (ukind uidx : Nat)
  | mboxOutWrite (pos i : Nat) (v : Word)
  | mboxInRead (read : MboxRead)
  | smbStatusRead
  | smbRecordRead
  | smbEnroll (key : List Byte)
  | smbRecoveryWrite (off : Nat) (chunk : List Byte)
  | smbRecoveryVerify
  -- registers without a row of their own, and rows added to the table
  | registerWrite (src : Src) (off size : Nat) (v : Word)
  | fabPCtrlEn (p : Nat) (v : Word)
  | relWmwDbaseEn (n : Nat) (v : Word)
  | snapPmemWrite (m : Nat) (v : Word)
  | calQbaseStepWrite (c : Nat) (step : Bool) (v : Word)
  | numContextOrGroupWrite (off : Nat) (v : Word)
  | suspectHoursElapsed (k : Nat)
  | mainInputBackInRange (mV : Nat)
  | reelStackRefreshDoubled (stack temp : Nat)
  | coolantInletAboveTinlet (inlet : Nat)
  | linkReturnToL0
  | cxlCacheHostSnoop (line : Nat) (kind : SnoopKind)
  | jtagInstruction (scan : JtagScan)
  | arpOrIcmpEcho (icmp : Bool) (body : List Byte)
  deriving DecidableEq, Repr

end Sys2Proof
end

