-- ==== Sys2Proof/Machine/Bits.lean ====
section
/-! DEFINITION. Bit fields, sign extension and byte order (R7, R10, R11). -/

namespace Sys2Proof.Machine

/-- `x[hi:lo]` of a number, shifted down to bit 0 (R7). -/
def fld (x hi lo : Nat) : Nat := (x >>> lo) % 2 ^ (hi + 1 - lo)

/-- Bit `i` of a number. -/
def bitAt (x i : Nat) : Bool := x.testBit i

/-- `x` with bits `[hi:lo]` replaced by the low bits of `v`. -/
def setFld (x hi lo v : Nat) : Nat :=
  let n := hi + 1 - lo
  x - ((x >>> lo) % 2 ^ n) <<< lo + (v % 2 ^ n) <<< lo

/-- `w[hi:lo]` of a word as a number. -/
def wfld (w : Word) (hi lo : Nat) : Nat := fld w.toNat hi lo

/-- `w` with field `[hi:lo]` replaced. -/
def wsetFld (w : Word) (hi lo v : Nat) : Word := BitVec.ofNat 64 (setFld w.toNat hi lo v)

/-- The low `n` bits of `x` read as a two's-complement integer. -/
def sext (n x : Nat) : Int :=
  let y := x % 2 ^ n
  if n = 0 then 0 else if y < 2 ^ (n - 1) then (y : Int) else (y : Int) - (2 ^ n : Nat)

/-- An integer reduced to `n` bits. -/
def toBits (n : Nat) (i : Int) : Nat := (i % ((2 ^ n : Nat) : Int)).toNat

/-- An integer as a 64-bit word, modulo 2^64. -/
def wordOfInt (i : Int) : Word := BitVec.ofInt 64 i

/-- Least significant byte first (R7). -/
def leBytes : Nat → Nat → List Byte
  | 0, _ => []
  | n + 1, x => BitVec.ofNat 8 x :: leBytes n (x / 256)

/-- The number that bytes hold, least significant first (R7). -/
def ofLe : List Byte → Nat
  | [] => 0
  | b :: bs => b.toNat + 256 * ofLe bs

/-- A flag as a bit. -/
def b2n (b : Bool) : Nat := if b then 1 else 0

/-- The numbers `0 .. n − 1`, in ascending order. -/
def upto (n : Nat) : List Nat := List.range n

/-- The smallest `k` with `2^k ≥ n` (R142). -/
def clog2 (n : Nat) : Nat := if n ≤ 1 then 0 else Nat.log2 (n - 1) + 1

/-- Quotient rounded up. -/
def cdiv (a b : Nat) : Nat := (a + b - 1) / b

/-- The count of ones in the low `n` bits of `x`. -/
def popCount : Nat → Nat → Nat
  | 0, _ => 0
  | n + 1, x => x % 2 + popCount n (x / 2)

/-- The lowest set bit below `n`, counted from `i`. -/
def lowestSet : Nat → Nat → Nat → Option Nat
  | 0, _, _ => none
  | n + 1, i, x => if x % 2 = 1 then some i else lowestSet n (i + 1) (x / 2)

/-- Element `i` of size `sz` bits of a long bit string. -/
def elemAt (sz x i : Nat) : Nat := (x >>> (i * sz)) % 2 ^ sz

/-- The long bit string with element `i` of size `sz` replaced. -/
def setElem (sz x i v : Nat) : Nat := setFld x (i * sz + sz - 1) (i * sz) v

/-- The first `n` elements of a list, the missing ones filled with `d`. -/
def takePad {α : Type} (d : α) : Nat → List α → List α
  | 0, _ => []
  | n + 1, [] => d :: takePad d n []
  | n + 1, x :: xs => x :: takePad d n xs

/-- The list with place `i` replaced; a place beyond the end changes nothing. -/
def setAt {α : Type} : List α → Nat → α → List α
  | [], _, _ => []
  | _ :: xs, 0, y => y :: xs
  | x :: xs, i + 1, y => x :: setAt xs i y

/-- The list without place `i`. -/
def dropAt {α : Type} : List α → Nat → List α
  | [], _ => []
  | _ :: xs, 0 => xs
  | x :: xs, i + 1 => x :: dropAt xs i

/-- The list with `x` added at the end unless it is there. -/
def addNew {α : Type} [DecidableEq α] (xs : List α) (x : α) : List α := if x ∈ xs then xs else xs ++ [x]

/-- `x` put before the first element that it does not come after. -/
def insertBy {α : Type} (le : α → α → Bool) (x : α) : List α → List α
  | [] => [x]
  | y :: ys => if le x y then x :: y :: ys else y :: insertBy le x ys

/-- The list in ascending order of `le`, equal elements in their former order. -/
def sortBy {α : Type} (le : α → α → Bool) (xs : List α) : List α := xs.foldr (insertBy le) []

end Sys2Proof.Machine
end

