-- ==== Sys2Proof/Machine/Crc.lean ====
section
/-! DEFINITION. The cyclic codes of the manual: CRC-32C of watermarks, records and logs (R272, R439, R455), CRC-32
of fabric cells (R308) and CRC-64 of page digests (R422), bit by bit. -/

namespace Sys2Proof.Machine

/-- One bit of a reflected CRC: the register shifted right, and the reflected polynomial added when a 1 falls out. -/
def crcBit (poly r : Nat) : Nat := if r % 2 = 1 then (r / 2) ^^^ poly else r / 2

/-- `n` bits of a reflected CRC. -/
def crcBits (poly : Nat) : Nat → Nat → Nat
  | 0, r => r
  | n + 1, r => crcBits poly n (crcBit poly r)

/-- A byte entering a reflected CRC. -/
def crcByte (poly r : Nat) (b : Byte) : Nat := crcBits poly 8 (r ^^^ b.toNat)

/-- A register handed on by its value, so that a long CRC evaluates one byte at a time: `crcStep r f` is `f r`. -/
def crcStep {α : Type} (r : Nat) (f : Nat → α) : α :=
  match r with
  | 0 => f 0
  | r + 1 => f (r + 1)

/-- A reflected CRC over bytes in ascending address, from a value of its register. -/
def crcFrom (poly : Nat) : Nat → List Byte → Nat
  | r, [] => r
  | r, b :: bs => crcStep (crcByte poly r b) fun r => crcFrom poly r bs

/-- CRC-32C: polynomial 0x1EDC_6F41 reflected, all ones at the start and at the end (R439). -/
def crc32c (bs : List Byte) : Nat := crcFrom 0x82F63B78 0xFFFFFFFF bs ^^^ 0xFFFFFFFF

/-- CRC-32 of IEEE 802.3: polynomial 0x04C1_1DB7 reflected, all ones at the start and at the end (R308). -/
def crc32 (bs : List Byte) : Nat := crcFrom 0xEDB88320 0xFFFFFFFF bs ^^^ 0xFFFFFFFF

/-- One bit of an unreflected CRC of 64 bits. -/
def crc64Bit (r : Nat) : Nat :=
  if r / 2 ^ 63 % 2 = 1 then (r * 2 % 2 ^ 64) ^^^ 0x42F0E1EBA9EA3693 else r * 2 % 2 ^ 64

def crc64Bits : Nat → Nat → Nat
  | 0, r => r
  | n + 1, r => crc64Bits n (crc64Bit r)

def crc64Byte (r : Nat) (b : Byte) : Nat := crc64Bits 8 (r ^^^ (b.toNat * 2 ^ 56))

/-- A CRC of 64 bits over bytes in ascending address, from a value of its register. -/
def crc64From : Nat → List Byte → Nat
  | r, [] => r
  | r, b :: bs => crcStep (crc64Byte r b) fun r => crc64From r bs

/-- CRC-64/ECMA-182: initial value 0, no reflection, no final XOR (R422). -/
def crc64 (bs : List Byte) : Nat := crc64From 0 bs

end Sys2Proof.Machine
end

