-- ==== Sys2Proof/Machine/SectorCode.lean ====
section
/-! DEFINITION. The Reed-Solomon code of a reel sector: the field GF(2^8), the order of its symbols on the pins, the check symbols, and what its
decoder makes of an error (R248, R250, R251). -/

namespace Sys2Proof.Machine

/-! ### The field (R250) -/

/-- The field polynomial x^8 + x^4 + x^3 + x^2 + 1. -/
def rsPoly : Nat := 0x11D

/-- A field element times α. -/
def rsDouble (x : Nat) : Nat := if 128 ≤ x then (2 * x) ^^^ rsPoly else 2 * x

/-- A product, over the low `n` bits of `y`. -/
def rsMulBits : Nat → Nat → Nat → Nat
  | 0, _, _ => 0
  | n + 1, x, y => (if y % 2 = 1 then x else 0) ^^^ rsMulBits n (rsDouble x) (y / 2)

/-- The product of two field elements. -/
def rsMul (x y : Nat) : Nat := rsMulBits 8 x y

/-- A power of a field element. -/
def rsPow (x : Nat) : Nat → Nat
  | 0 => 1
  | n + 1 => rsMul x (rsPow x n)

/-- The inverse of an element that is not 0: its power 254, by the bits of 254. -/
def rsInv (x : Nat) : Nat :=
  (upto 7).foldl (fun (acc : Nat × Nat) _ => let sq := rsMul acc.1 acc.1; (sq, rsMul acc.2 sq)) (x, 1) |>.2

/-! ### Codewords (R250) -/

/-- The symbols of a codeword of 36: symbol `i` is bits `8i + 7 : 8i`, and symbols 0 to 31 are the bytes of the sector. -/
def symbols (w : Nat) : List Nat := (upto 36).map fun i => elemAt 8 w i

/-- The bit of a codeword that data or check pin `pin` carries in beat `beat` of 16. -/
def beatBit (pin beat : Nat) : Nat := 8 * (2 * pin + beat / 8) + beat % 8

/-- The value of a polynomial, its highest coefficient first. -/
def rsEval (x : Nat) (cs : List Nat) : Nat := cs.foldl (fun acc c => rsMul acc x ^^^ c) 0

/-- The values of a codeword at 1, α, α² and α³: all 0 exactly when (x − 1)(x − α)(x − α²)(x − α³) divides it. -/
def syndromes (w : Nat) : List Nat := (upto 4).map fun j => rsEval (rsPow 2 j) (symbols w)

/-- One step of a division by a monic divisor, whose other coefficients are given highest first: the remainder after one more coefficient. -/
def divStep (gen : List Nat) (rem : List Nat) (c : Nat) : List Nat :=
  let q := rem.headD 0 ^^^ c
  (upto gen.length).map fun i => rem.getD (i + 1) 0 ^^^ rsMul q (gen.getD i 0)

/-- The coefficients of (x − 1)(x − α)(x − α²)(x − α³) below x⁴, highest first. -/
def genTail : List Nat :=
  (upto 4).foldl (fun (g : List Nat) j => (upto (g.length + 1)).map fun i =>
    (if i < g.length then g.getD i 0 else 0) ^^^ rsMul (rsPow 2 j) (if i = 0 then 1 else g.getD (i - 1) 0)) []

/-- The check symbols of 32 bytes. -/
def checkSymbols (data : List Nat) : List Nat := data.foldl (divStep genTail) [0, 0, 0, 0]

/-- The codeword of a sector. -/
def sectorCode (data : List Nat) : List Nat := data ++ checkSymbols data

/-! ### The decoder (R251) -/

/-- What the decoder makes of a word: a codeword, a word that it corrects by the given flips, or one that it cannot correct. -/
inductive RsOut where
  | clean
  | fixed (flips : Nat)
  | failed
  deriving DecidableEq, Repr

/-- The error of one symbol that explains the syndromes, as flips of the codeword. -/
def oneSymbol (s0 s1 s2 s3 : Nat) : Option Nat :=
  (upto 36).findSome? fun i =>
    let x := rsPow 2 (35 - i)
    if s0 ≠ 0 ∧ rsMul s0 x = s1 ∧ rsMul s1 x = s2 ∧ rsMul s2 x = s3 then some (s0 <<< (8 * i)) else none

/-- The error of two symbols that explains the syndromes. With values e and f at powers x and y of α, s0 = e + f and s1 = ex + fy. -/
def twoSymbols (s0 s1 s2 s3 : Nat) : Option Nat :=
  (upto 36).findSome? fun i =>
    (upto i).findSome? fun j =>
      let x := rsPow 2 (35 - i)
      let y := rsPow 2 (35 - j)
      let f := rsMul (s1 ^^^ rsMul s0 x) (rsInv (x ^^^ y))
      let e := s0 ^^^ f
      let at' (n : Nat) : Nat := rsMul e (rsPow x n) ^^^ rsMul f (rsPow y n)
      if at' 2 = s2 ∧ at' 3 = s3 then some (e <<< (8 * i) ^^^ f <<< (8 * j)) else none

/-- The decoder of a controller with DETONLY = 0: it corrects what lies within two symbols of a codeword. -/
def rsDecode (w : Nat) : RsOut :=
  match syndromes w with
  | [0, 0, 0, 0] => .clean
  | [s0, s1, s2, s3] =>
    match oneSymbol s0 s1 s2 s3 with
    | some f => .fixed f
    | none =>
      match twoSymbols s0 s1 s2 s3 with
      | some f => .fixed f
      | none => .failed
  | _ => .failed

end Sys2Proof.Machine
end

