-- ==== Sys2Proof/Machine/Csr.lean ====
section
/-! DEFINITION. The CSR space: where every register lies and which fields it has (R4, R12 to R17, R87 and the register
tables of the owning chapters). A register is named by its byte offset from the CSR space base. -/

namespace Sys2Proof.Machine

/-- The access codes of R14. -/
inductive Acc where
  | ro | rw | w1c | w1s | wo | rc
  deriving DecidableEq, Repr

/-- The values a field's description allows (R16). `dep` marks a field whose allowed values depend on other state. -/
inductive Legal where
  | any
  | rng (lo hi : Nat)
  | srng (lo hi : Int)
  | mult (n : Nat)
  | zeroOr (lo hi : Nat)
  | dep
  deriving DecidableEq, Repr

/-- A field of a register: bits, access, value after device reset, factory value when the Reset column says "cfg" (R17,
R387), and the values it takes. -/
structure Field where
  hi : Nat
  lo : Nat
  acc : Acc
  reset : Nat
  cfg : Option Nat
  legal : Legal
  deriving DecidableEq, Repr

def roF (hi lo reset : Nat) : Field := ⟨hi, lo, .ro, reset, none, .any⟩
def rwF (hi lo reset : Nat) : Field := ⟨hi, lo, .rw, reset, none, .any⟩
def rwL (hi lo reset : Nat) (l : Legal) : Field := ⟨hi, lo, .rw, reset, none, l⟩
def w1cF (hi lo : Nat) : Field := ⟨hi, lo, .w1c, 0, none, .any⟩
def woF (hi lo : Nat) : Field := ⟨hi, lo, .wo, 0, none, .any⟩
def cfgF (hi lo factory : Nat) : Field := ⟨hi, lo, .rw, 0, some factory, .any⟩
def cfgL (hi lo factory : Nat) (l : Legal) : Field := ⟨hi, lo, .rw, 0, some factory, l⟩

/-- Bases of the CSR blocks (R4). -/
def csrBase : Nat := 0x700000000000
def csrSize : Nat := 0x4000000

namespace Reg

-- DEV (R364)
def devId : Nat := 0x000
def devSerial : Nat := 0x008
def devFwver : Nat := 0x010
def devFeatctl : Nat := 0x018
def devFeatOffer (w : Nat) : Nat := 0x040 + 8 * w
def devFeatAccept (w : Nat) : Nat := 0x060 + 8 * w
def devFeatActive (w : Nat) : Nat := 0x080 + 8 * w
-- HIF (R377)
def hifCtrl : Nat := 0x100000
def hifEvt : Nat := 0x100008
def hifEvten : Nat := 0x100010
def hifBadacc : Nat := 0x100018
def hifBadaddr : Nat := 0x100020
def hifHdmctl : Nat := 0x100028
def hifHdmbase : Nat := 0x100030
def hifHdmsize : Nat := 0x100038
def hifSnpfull : Nat := 0x100040
def hifHwinDev (n : Nat) : Nat := 0x100100 + 0x20 * n
def hifHwinHost (n : Nat) : Nat := 0x100108 + 0x20 * n
def hifHwinSize (n : Nat) : Nat := 0x100110 + 0x20 * n
def hifHwinCfg (n : Nat) : Nat := 0x100118 + 0x20 * n
def hifQCtrl (n : Nat) : Nat := 0x101000 + 0x40 * n
def hifQSqbase (n : Nat) : Nat := 0x101008 + 0x40 * n
def hifQCqbase (n : Nat) : Nat := 0x101010 + 0x40 * n
def hifQSqtail (n : Nat) : Nat := 0x101018 + 0x40 * n
def hifQSqhead (n : Nat) : Nat := 0x101020 + 0x40 * n
def hifQCqhead (n : Nat) : Nat := 0x101028 + 0x40 * n
def hifQStat (n : Nat) : Nat := 0x101030 + 0x40 * n
def hifCdb (w : Nat) : Nat := 0x102000 + 8 * w
def hifCdbc (w : Nat) : Nat := 0x102100 + 8 * w
-- CFG (R406)
def cfgStraps : Nat := 0x200000
def cfgStat : Nat := 0x200008
def cfgReadyt : Nat := 0x200010
def cfgImage : Nat := 0x200018
def cfgReject : Nat := 0x200020
def cfgRejidx : Nat := 0x200028
def cfgStore : Nat := 0x200030
def cfgUsergen : Nat := 0x200038
def cfgStores : Nat := 0x200040
-- PWR (R509)
def pwrCtrl : Nat := 0x300000
def pwrLimit : Nat := 0x300008
def pwrStat : Nat := 0x300010
def pwrVin : Nat := 0x300018
def pwrPin : Nat := 0x300020
def pwrTlim : Nat := 0x300028
def pwrCool : Nat := 0x300030
def pwrEnergy : Nat := 0x300100
def pwrCapcyc : Nat := 0x300108
def pwrClu (c : Nat) : Nat := 0x301000 + 8 * c
-- MEM controllers (R276)
def memCtl (s : Nat) : Nat := 0x400000 + 0x10000 * s
def memCtlid (s : Nat) : Nat := memCtl s
def memEcc (s : Nat) : Nat := memCtl s + 0x8
def memScrub (s : Nat) : Nat := memCtl s + 0x10
def memRtcfg (s : Nat) : Nat := memCtl s + 0x18
def memRmidx (s : Nat) : Nat := memCtl s + 0x20
def memRmdata (s : Nat) : Nat := memCtl s + 0x28
def memCh (ch : Nat) : Nat := memCtl (ch / 64) + 0x1000 + 0x40 * (ch % 64)
def memChStat (ch : Nat) : Nat := memCh ch
def memChCe (ch : Nat) : Nat := memCh ch + 0x8
def memChUe (ch : Nat) : Nat := memCh ch + 0x10
def memChHotspot (ch : Nat) : Nat := memCh ch + 0x18
def memChRetrains (ch : Nat) : Nat := memCh ch + 0x20
-- MEM global (R275)
def memCapacity : Nat := 0x540000
def memPatctl : Nat := 0x540008
def memPatidx : Nat := 0x540010
def memPatval : Nat := 0x540018
def memSurreq : Nat := 0x540020
def memSurack : Nat := 0x540028
def memSurcfg : Nat := 0x540030
def memSurstat : Nat := 0x540038
def memDead (w : Nat) : Nat := 0x540040 + 8 * w
def memPatmiss : Nat := 0x540100
def memMigbytes : Nat := 0x540108
def memFeltCe (n : Nat) : Nat := 0x540200 + 0x10 * n
def memFeltUe (n : Nat) : Nat := 0x540208 + 0x10 * n
-- FAB ports (R356)
def fabP (p : Nat) : Nat := 0x600000 + 0x8000 * p
def fabPCtrl (p : Nat) : Nat := fabP p
def fabPStat (p : Nat) : Nat := fabP p + 0x8
def fabPPeer (p : Nat) : Nat := fabP p + 0x10
def fabPRtt (p : Nat) : Nat := fabP p + 0x18
/-- Counter `i` of a port: TXCELLS, RXCELLS, FECCORR, FECUNC, CRCERR, REPLAYS, RETRAINS, IDLETX. -/
def fabPCnt (p i : Nat) : Nat := fabP p + 0x40 + 8 * i
def fabPReam (p k : Nat) : Nat := fabP p + 0x1000 + 8 * k
-- FAB global (R357, R358)
def fabMyid : Nat := 0x720000
def fabLevel : Nat := 0x720008
def fabJobctl : Nat := 0x720010
def fabJobimg : Nat := 0x720018
def fabJobstat : Nat := 0x720020
def fabEpoch : Nat := 0x720028
def fabHold : Nat := 0x720030
def fabPatch : Nat := 0x720038
def fabRaise : Nat := 0x720040
def fabSubst : Nat := 0x720048
def fabStallt : Nat := 0x720050
def fabDiscard : Nat := 0x720100
def fabRelayed : Nat := 0x720108
def fabStr (s : Nat) : Nat := 0x721000 + 0x40 * s
def fabStrCtrl (s : Nat) : Nat := fabStr s
def fabStrEvt (s : Nat) : Nat := fabStr s + 0x8
def fabStrEvten (s : Nat) : Nat := fabStr s + 0x10
def fabStrEvtlcid (s : Nat) : Nat := fabStr s + 0x18
def fabStrFlags (s : Nat) : Nat := fabStr s + 0x20
def fabStrXfers (s : Nat) : Nat := fabStr s + 0x28
def fabRoute (d : Nat) : Nat := 0x730000 + 8 * d
def fabSflow (f w : Nat) : Nat := 0x740000 + 16 * f + 8 * w
def fabRflow (f w : Nat) : Nat := 0x760000 + 32 * f + 8 * w
-- REL (R459)
def relCtrl : Nat := 0x800000
def relRot : Nat := 0x800008
def relSus : Nat := 0x800010
def relPosreq : Nat := 0x800018
def relEvcfg : Nat := 0x800020
def relTests : Nat := 0x800100
def relFails : Nat := 0x800108
def relMissed : Nat := 0x800110
def relWmerr : Nat := 0x800118
def relEvhead : Nat := 0x800120
def relWmwDbase (n : Nat) : Nat := 0x801000 + 0x20 * n
def relWmwDlimit (n : Nat) : Nat := 0x801008 + 0x20 * n
def relWmwSbase (n : Nat) : Nat := 0x801010 + 0x20 * n
def relPosStat (k : Nat) : Nat := 0x810000 + 0x10 * k
def relPosLastpass (k : Nat) : Nat := 0x810008 + 0x10 * k
def relRing (n w : Nat) : Nat := 0x820000 + 64 * n + 8 * w
-- SNAP (R438)
def snapCtrl : Nat := 0x900000
def snapCfg : Nat := 0x900008
def snapPool : Nat := 0x900010
def snapPart : Nat := 0x900018
def snapPgrp : Nat := 0x900020
def snapPmem (m : Nat) : Nat := 0x900040 + 8 * m
def snapShwin : Nat := 0x9000C0
def snapRestore : Nat := 0x9000C8
def snapStat : Nat := 0x9000D0
def snapPgen : Nat := 0x9000D8
def snapShgen : Nat := 0x9000E0
def snapNext : Nat := 0x9000E8
def snapCopies : Nat := 0x900100
def snapPoolwait : Nat := 0x900108
def snapSkipped : Nat := 0x900110
def snapDrained : Nat := 0x900118
-- SEC (R496)
def secBoot : Nat := 0xA00000
def secPolicy : Nat := 0xA00008
def secNet : Nat := 0xA00010
def secNetgw : Nat := 0xA00018
def secSess : Nat := 0xA00020
def secDbg : Nat := 0xA00028
def secTclk : Nat := 0xA00030
def secArb (k : Nat) : Nat := 0xA00040 + 8 * k
def secBadtag : Nat := 0xA00100
def secAuthfail : Nat := 0xA00108
def secDbgnonce (w : Nat) : Nat := 0xA00200 + 8 * w
def secMeas (n w : Nat) : Nat := 0xA01000 + 0x40 * n + 8 * w
def secMboxIn (i : Nat) : Nat := 0xA10000 + 0x10 * i
def secMboxOut (i : Nat) : Nat := 0xA10008 + 0x10 * i
-- NUM (R235)
def numSeed : Nat := 0xB00000
def numCtx (b : Nat) : Nat := 0xB01000 + 0x80 * b
def numCtxCtrl (b : Nat) : Nat := numCtx b
def numCtxClipmax (b : Nat) : Nat := numCtx b + 0x8
def numCtxClip (b : Nat) : Nat := numCtx b + 0x10
def numCtxNorm (b : Nat) : Nat := numCtx b + 0x18
def numCtxSkips (b : Nat) : Nat := numCtx b + 0x20
def numCtxG (b w : Nat) : Nat := numCtx b + 0x28 + 8 * w
def numGctrl (g : Nat) : Nat := 0xB02000 + 0x10 * g
def numGlim (g : Nat) : Nat := 0xB02008 + 0x10 * g
def numSlotCtrl (j : Nat) : Nat := 0xB10000 + 0x40 * j
def numSlotLimit (j : Nat) : Nat := 0xB10008 + 0x40 * j
/-- Count `i` of a slot: ELEMS, ZERO, SUBN, SAT, NONFIN. -/
def numSlotCnt (j i : Nat) : Nat := 0xB10010 + 0x40 * j + 8 * i
def numSlotExpmax (j : Nat) : Nat := 0xB10038 + 0x40 * j
-- clusters (R87)
def clu (c : Nat) : Nat := 0x1000000 + 0x40000 * c
def cluLmap (c : Nat) : Nat := clu c
def cluPos (c : Nat) : Nat := clu c + 0x8
def cluCouch (c : Nat) : Nat := clu c + 0x10
def cluCouchlim (c : Nat) : Nat := clu c + 0x18
def cluRstevba (c : Nat) : Nat := clu c + 0x20
def cluRstpc (c : Nat) : Nat := clu c + 0x28
def cluTcmp (c i : Nat) : Nat := clu c + 0x40 + 8 * i
def cluCouches (c : Nat) : Nat := clu c + 0x100
def cluLate (c : Nat) : Nat := clu c + 0x108
/-- CORE sub-block of the position with physical index `k` (R5, R88). -/
def core (k : Nat) : Nat := clu (k / 13) + 0x1000 + 0x1000 * (k % 13)
def coreState (k : Nat) : Nat := core k
def coreLeaves (k : Nat) : Nat := core k + 0x8
def coreStalls (k : Nat) : Nat := core k + 0x10
def coreTagflt (k : Nat) : Nat := core k + 0x18
def coreIllegal (k : Nat) : Nat := core k + 0x20
def corePsmiss (k : Nat) : Nat := core k + 0x28
def calCtrl (c : Nat) : Nat := clu c + 0x10000
def calQbase (c : Nat) : Nat := clu c + 0x10008
def calStep (c : Nat) : Nat := clu c + 0x10010
def calStatus (c : Nat) : Nat := clu c + 0x10018
def calFlags (c : Nat) : Nat := clu c + 0x10020
def calParams (c : Nat) : Nat := clu c + 0x10028
def l2Ctrl (c : Nat) : Nat := clu c + 0x20000
/-- Counter `i` of an L2: HITS, MISSES, OFFACC, OFFDEC, PFUSE, PFDROP. -/
def l2Cnt (c i : Nat) : Nat := clu c + 0x20008 + 8 * i
def l2Wayoff (c : Nat) : Nat := clu c + 0x20038
def orb (c j : Nat) : Nat := clu c + 0x21000 + 0x40 * j
def orbCtrl (c j : Nat) : Nat := orb c j
def orbCb (c j : Nat) : Nat := orb c j + 0x8
def orbStage (c j : Nat) : Nat := orb c j + 0x10
def orbDst (c j : Nat) : Nat := orb c j + 0x18
def orbStat (c j : Nat) : Nat := orb c j + 0x20

end Reg

/-- A counter of 64 bits (R18). -/
def cntF : List Field := [roF 63 0 0]

/-- Fields of a DEV register (R364). -/
def devFields (o : Nat) : List Field :=
  if o = 0x000 then [roF 39 24 0x4820, roF 23 16 0x41, roF 15 8 0x4C, roF 7 0 0x00]
  else if o = 0x008 ∨ o = 0x010 then [roF 63 0 0]
  else if o = 0x018 then [w1cF 1 1, woF 0 0]
  else if 0x040 ≤ o ∧ o < 0x060 then [roF 63 0 0]
  else if 0x060 ≤ o ∧ o < 0x080 then [rwF 63 0 0]
  else if 0x080 ≤ o ∧ o < 0x0A0 then [roF 63 0 (if o = 0x080 then 3 else 0)]
  else []

/-- Fields of a HIF register (R377). -/
def hifFields (o : Nat) : List Field :=
  if o = 0x000 then [rwF 0 0 0]
  else if o = 0x008 then [w1cF 5 0]
  else if o = 0x010 then [rwF 5 0 0]
  else if o = 0x018 ∨ o = 0x020 ∨ o = 0x040 then [roF 63 0 0]
  else if o = 0x028 then [w1cF 1 1, rwF 0 0 0]
  else if o = 0x030 ∨ o = 0x038 then [rwF 40 28 0]
  else if 0x100 ≤ o ∧ o < 0x200 then
    match (o % 0x20) / 8 with
    | 0 => [rwL 47 21 0 (.rng 0x4000000 0x7FFFFFF)]
    | 1 => [rwF 63 21 0]
    | 2 => [rwF 47 21 0]
    | _ => [rwF 3 3 0, rwF 2 0 0]
  else if 0x1000 ≤ o ∧ o < 0x1400 then
    match (o % 0x40) / 8 with
    | 0 => [rwF 63 63 0, rwL 12 8 0 (.rng 1 31), rwL 7 4 4 (.rng 4 15), rwL 3 0 4 (.rng 4 15)]
    | 1 | 2 => [rwF 63 12 0]
    | 3 => [rwL 15 0 0 .dep]
    | 4 => [roF 15 0 0]
    | 5 => [rwL 15 0 0 .dep]
    | 6 => [roF 15 8 0, roF 0 0 0]
    | _ => []
  else if 0x2000 ≤ o ∧ o < 0x2098 then [⟨if o = 0x2090 then 47 else 63, 0, .w1s, 0, none, .any⟩]
  else []

/-- Fields of a CFG register (R406). -/
def cfgFields (o : Nat) : List Field :=
  if o = 0x000 then [roF 6 6 0, roF 5 4 0, roF 3 0 0]
  else if o = 0x008 then [roF 31 20 0, roF 16 16 0, roF 15 8 0, roF 7 7 0, roF 3 0 0]
  else if o = 0x010 then [roF 31 0 0]
  else if o = 0x018 then [roF 63 32 0, roF 2 0 0]
  else if o = 0x020 ∨ o = 0x040 then cntF
  else if o = 0x028 then [roF 63 62 0, roF 31 0 0]
  else if o = 0x030 then [roF 15 8 0, roF 2 2 0, woF 1 1, woF 0 0]
  else if o = 0x038 then [roF 63 32 0, roF 0 0 0]
  else []

/-- Fields of a PWR register (R509). -/
def pwrFields (o : Nat) : List Field :=
  if o = 0x000 then [cfgF 0 0 1]
  else if o = 0x008 then [cfgF 47 40 30, cfgL 39 32 10 (.rng 1 255), cfgL 11 0 3000 (.rng 1200 3000)]
  else if o = 0x010 then [roF 8 8 0, roF 3 0 0]
  else if o = 0x018 then [roF 15 0 0]
  else if o = 0x020 then [roF 31 0 0]
  else if o = 0x028 then [cfgL 23 16 45 (.rng 20 45), roF 15 8 105, cfgL 7 0 95 (.rng 70 95)]
  else if o = 0x030 then [roF 31 16 0, roF 15 0 0]
  else if o = 0x100 ∨ o = 0x108 then cntF
  else if 0x1000 ≤ o ∧ o < 0x1320 then [roF 47 32 0, roF 15 12 10, roF 11 8 0, cfgL 3 0 10 (.rng 0 10)]
  else []

/-- Fields of a register of reel controller `s` (R276). -/
def memCtlFields (s o : Nat) : List Field :=
  if o = 0x00 then [roF 15 8 64, roF 7 0 s]
  else if o = 0x08 then [cfgF 0 0 0]
  else if o = 0x10 then [cfgL 15 0 24 (.rng 1 65535)]
  else if o = 0x18 then [cfgL 23 16 5 (.rng 1 50), cfgL 15 0 500 (.rng 10 60000)]
  else if o = 0x20 then [rwF 13 8 0, rwF 7 0 0]
  else if o = 0x28 then [roF 63 0 0]
  else if 0x1000 ≤ o ∧ o < 0x2000 then
    match (o % 0x40) / 8 with
    | 0 => [roF 47 39 0, roF 11 8 0, roF 4 4 0, roF 2 0 0]
    | 1 | 2 | 3 | 4 => cntF
    | _ => []
  else []

/-- Fields of a global MEM register (R275). -/
def memFields (o : Nat) : List Field :=
  if o = 0x000 then [roF 40 40 0, roF 39 32 0, roF 31 0 0]
  else if o = 0x008 then [cfgL 47 21 0 .dep, w1cF 1 1, cfgF 0 0 0]
  else if o = 0x010 then [roF 63 63 0, rwL 19 0 0 (.rng 0 739640)]
  else if o = 0x018 then [rwF 63 0 0]
  else if o = 0x020 then [roF 63 63 0, roF 58 48 0, roF 47 32 0, roF 31 0 0]
  else if o = 0x028 then [woF 63 0]
  else if o = 0x030 then [cfgL 15 0 60 (.rng 1 65535)]
  else if o = 0x038 then [roF 2 2 0, w1cF 1 1, w1cF 0 0]
  else if 0x040 ≤ o ∧ o < 0x0E0 then [roF 63 0 0]
  else if o = 0x100 ∨ o = 0x108 then cntF
  else if 0x200 ≤ o ∧ o < 0x240 then cntF
  else []

/-- Fields of a register of a fabric port (R356, R328). -/
def fabPFields (o : Nat) : List Field :=
  if o = 0x00 then [woF 1 1, cfgF 0 0 1]
  else if o = 0x08 then [roF 39 30 0, roF 11 8 0, w1cF 7 7, roF 4 3 0, roF 2 0 0]
  else if o = 0x10 then [roF 27 24 0, roF 21 16 0, roF 11 0 0]
  else if o = 0x18 then [roF 15 0 0]
  else if 0x40 ≤ o ∧ o < 0x80 then cntF
  else if 0x1000 ≤ o ∧ o < 0x2000 then [roF 15 8 0, roF 3 0 0]
  else []

/-- Fields of a global FAB register, a stream register or a fabric table entry (R325, R334, R357, R358); `o` counts from 0x072_0000. -/
def fabFields (o : Nat) : List Field :=
  if o = 0x000 then [⟨11, 0, .ro, 0, some 0, .any⟩]
  else if o = 0x008 then [roF 11 8 0, roF 3 0 0]
  else if o = 0x010 then [woF 2 2, woF 1 1, woF 0 0]
  else if o = 0x018 then [rwL 47 0 0 (.mult 4096)]
  else if o = 0x020 then [roF 15 8 0, roF 2 0 0]
  else if o = 0x028 then [roF 31 0 0]
  else if o = 0x030 then [rwF 63 63 0, roF 62 62 0, rwF 31 0 0]
  else if o = 0x038 then [roF 63 63 0, w1cF 62 62, rwF 47 32 0, rwF 31 0 0]
  else if o = 0x040 then [rwF 35 32 0, rwF 31 0 0]
  else if o = 0x048 then [woF 63 63, woF 11 0]
  else if o = 0x050 then [cfgL 15 0 1000 (.rng 1 65535)]
  else if o = 0x100 ∨ o = 0x108 then cntF
  else if 0x1000 ≤ o ∧ o < 0x1400 then
    match (o % 0x40) / 8 with
    | 0 => [woF 1 1, roF 0 0 0]
    | 1 => [w1cF 9 0]
    | 2 => [rwF 9 0 0x3FF]
    | 3 => [cfgL 10 0 0 (.rng 0 1199)]
    | 4 => [w1cF 4 0]
    | 5 => cntF
    | _ => []
  else if 0x10000 ≤ o ∧ o < 0x18000 then [roF 63 0 0]
  else if 0x20000 ≤ o ∧ o < 0x30000 then [roF 63 0 0]
  else if 0x40000 ≤ o ∧ o < 0x60000 then [roF 63 0 0]
  else []

/-- Fields of a REL register (R459). -/
def relFields (o : Nat) : List Field :=
  if o = 0x00 then [cfgF 0 0 1]
  else if o = 0x08 then [cfgL 31 16 130 (.rng 20 1000), cfgL 15 0 40 (.rng 20 1000)]
  else if o = 0x10 then [cfgL 47 32 24 (.rng 1 65535), cfgL 31 0 10000 (.rng 1 4294967295)]
  else if o = 0x18 then [woF 63 63, woF 62 62, woF 61 61, woF 10 0]
  else if o = 0x20 then [cfgL 15 0 1000 (.rng 1 65535)]
  else if 0x100 ≤ o ∧ o < 0x128 then cntF
  else if 0x1000 ≤ o ∧ o < 0x1200 then
    match (o % 0x20) / 8 with
    | 0 => [rwF 63 63 0, w1cF 62 62, rwF 47 12 0]
    | 1 | 2 => [rwF 47 12 0]
    | _ => []
  else if 0x10000 ≤ o ∧ o < 0x15140 then
    if o % 0x10 = 0 then [roF 63 63 0, roF 62 62 0, roF 55 48 0xFF, roF 31 0 0] else [roF 63 0 0]
  else if 0x20000 ≤ o ∧ o < 0x30000 then [roF 63 0 0]
  else []

/-- Fields of a SNAP register (R438). -/
def snapFields (o : Nat) : List Field :=
  if o = 0x00 then [woF 0 0]
  else if o = 0x08 then [cfgF 47 32 0, cfgL 27 24 4 (.rng 2 15), cfgF 19 16 0, cfgF 15 0 0]
  else if o = 0x10 then [cfgF 47 21 0, cfgF 15 0 4096]
  else if o = 0x18 then [cfgF 47 21 0, cfgF 15 0 0]
  else if o = 0x20 then [cfgF 31 16 0, cfgL 12 8 0 .dep, cfgL 4 0 8 (.zeroOr 4 16)]
  else if 0x40 ≤ o ∧ o < 0xC0 then [cfgF 43 32 0, cfgF 27 16 0, cfgF 11 0 0]
  else if o = 0xC0 then [cfgF 47 21 0]
  else if o = 0xC8 then [woF 63 63, rwL 49 48 0 (.rng 0 2), rwF 31 0 0]
  else if o = 0xD0 then [roF 63 32 0, roF 31 24 0, roF 23 16 0, roF 3 3 0, roF 2 0 0]
  else if o = 0xD8 ∨ o = 0xE0 then [roF 31 0 0]
  else if o = 0xE8 then [rwL 31 0 1 .dep]
  else if 0x100 ≤ o ∧ o < 0x120 then cntF
  else []

/-- Fields of a SEC register (R496). -/
def secFields (o : Nat) : List Field :=
  if o = 0x00 then [roF 63 32 0, roF 23 16 0, roF 4 4 0, roF 3 3 0, roF 2 2 0, roF 1 1 0, roF 0 0 0]
  else if o = 0x08 then [cfgF 2 2 0, cfgF 1 1 0, cfgF 0 0 1]
  else if o = 0x10 then [cfgF 63 32 0, cfgL 31 24 16 (.rng 8 30), cfgL 15 0 4820 (.rng 1 65535)]
  else if o = 0x18 then [cfgF 31 0 0]
  else if o = 0x20 then [cfgL 47 32 300 (.rng 10 65535), roF 7 4 0, roF 3 0 0]
  else if o = 0x28 then [roF 2 0 0]
  else if o = 0x30 then [roF 63 0 0]
  else if 0x40 ≤ o ∧ o < 0x80 then [roF 31 0 0]
  else if o = 0x100 ∨ o = 0x108 then cntF
  else if 0x200 ≤ o ∧ o < 0x230 then [roF 63 0 0]
  else if 0x1040 ≤ o ∧ o < 0x1200 then (if o % 0x40 < 0x30 then [roF 63 0 0] else [])
  else if 0x10000 ≤ o ∧ o < 0x14B00 then
    if o % 0x10 = 0 then [⟨63, 63, .rc, 0, none, .any⟩, ⟨62, 0, .rc, 0, none, .any⟩]
    else [roF 63 63 0, rwF 62 0 0]
  else []

/-- Fields of a NUM register (R235). -/
def numFields (o : Nat) : List Field :=
  if o = 0 then [cfgF 63 0 0]
  else if 0x1000 ≤ o ∧ o < 0x1800 then
    let q := (o % 0x80) / 8
    if q = 0 then [roF 2 2 0, cfgF 1 1 0, cfgF 0 0 (if o = 0x1000 then 1 else 0)]
    else if q = 1 then [cfgF 63 0 0]
    else if q = 2 then [roF 63 0 0x3FF0000000000000]
    else if q < 10 then [roF 63 0 0]
    else []
  else if 0x2000 ≤ o ∧ o < 0x2400 then
    if o % 0x10 = 0 then
      [rwF 63 48 0, cfgF 47 40 0, cfgF 39 32 0, cfgF 15 8 ((o - 0x2000) / 0x10), cfgF 4 1 0, cfgF 0 0 0]
    else
      [cfgL 63 56 0 (.srng (-32) 31), cfgL 55 48 0xF0 (.srng (-32) 31), cfgL 47 32 1000 (.rng 1 65535), cfgF 31 16 65535, cfgF 15 0 16]
  else if 0x10000 ≤ o ∧ o < 0x14000 then
    match (o % 0x40) / 8 with
    | 0 => [woF 63 63, rwF 62 62 0, rwF 61 61 0, rwF 51 48 0, rwF 47 12 0]
    | 1 => [rwF 47 12 0]
    | 7 => [roF 15 0 0x8000]
    | _ => cntF
  else []

/-- Fields of a register of a cluster block (R87, R88, R234, R304, R415). -/
def cluFields (o : Nat) : List Field :=
  if o < 0x1000 then
    if o = 0x00 then [roF 47 0 0xFFFFFFFFFFFF]
    else if o = 0x08 then [roF 28 16 0, roF 12 0 0]
    else if o = 0x10 then [woF 63 63, roF 62 62 0, roF 23 16 0, rwL 11 8 0 (.rng 0 11), rwL 3 0 0 (.rng 0 12)]
    else if o = 0x18 then [cfgL 31 0 2000000 (.rng 1 4294967295)]
    else if o = 0x20 then [cfgL 47 0 0x600000000000 (.mult 512)]
    else if o = 0x28 then [cfgF 42 0 0]
    else if 0x40 ≤ o ∧ o < 0xA0 then [rwF 63 0 0xFFFFFFFFFFFFFFFF]
    else if o = 0x100 ∨ o = 0x108 then cntF
    else []
  else if o < 0xE000 then
    if o % 0x1000 = 0 then [roF 26 16 0x7FF, roF 2 0 0]
    else if o % 0x1000 < 0x30 then cntF else []
  else if 0x10000 ≤ o ∧ o < 0x10030 then
    match (o % 0x1000) / 8 with
    | 0 => [woF 0 0]
    | 1 => [rwL 47 0 0 (.mult 4096)]
    | 2 => [rwF 63 0 0]
    | 3 => [w1cF 16 16, roF 15 8 0, roF 2 0 0]
    | 4 => [w1cF 4 0]
    | _ => cntF
  else if 0x20000 ≤ o ∧ o < 0x20040 then
    if o = 0x20000 then [cfgF 2 2 1, cfgF 1 1 1, cfgF 0 0 1] else [roF 63 0 0]
  else if 0x21000 ≤ o ∧ o < 0x21200 then
    match (o % 0x40) / 8 with
    | 0 => [rwF 43 24 0, rwF 17 12 0, rwF 4 4 0, rwF 3 3 0, rwL 2 1 0 (.rng 0 2), rwF 0 0 0]
    | 1 | 2 | 3 => [rwF 47 6 0]
    | 4 => [roF 15 8 0, w1cF 4 4, w1cF 3 3, w1cF 2 2, w1cF 1 1, roF 0 0 0]
    | _ => []
  else []

/-- The fields of the register word at an 8-byte-aligned CSR offset; a reserved register has none (R16). -/
def fieldsAt (off : Nat) : List Field :=
  if off % 8 ≠ 0 then []
  else if off < 0x100000 then devFields off
  else if off < 0x200000 then hifFields (off - 0x100000)
  else if off < 0x300000 then cfgFields (off - 0x200000)
  else if off < 0x400000 then pwrFields (off - 0x300000)
  else if off < 0x540000 then memCtlFields ((off - 0x400000) / 0x10000) (off % 0x10000)
  else if off < 0x600000 then memFields (off - 0x540000)
  else if off < 0x720000 then fabPFields (off % 0x8000)
  else if off < 0x800000 then fabFields (off - 0x720000)
  else if off < 0x900000 then relFields (off - 0x800000)
  else if off < 0xA00000 then snapFields (off - 0x900000)
  else if off < 0xB00000 then secFields (off - 0xA00000)
  else if off < 0x1000000 then numFields (off - 0xB00000)
  else if off < 0x2900000 then cluFields ((off - 0x1000000) % 0x40000)
  else []

/-- The mask of the bits of a field. -/
def Field.mask (f : Field) : Nat := (2 ^ (f.hi + 1 - f.lo) - 1) <<< f.lo

/-- A word in which each field holds the value `v` gives for it. -/
def assemble (v : Field → Nat) : List Field → Nat
  | [] => 0
  | f :: fs => (v f % 2 ^ (f.hi + 1 - f.lo)) <<< f.lo + assemble v fs

/-- The content of a register word that nothing has written: factory values in cfg fields, reset values elsewhere (R17, R387). -/
def csrDefault (off : Nat) : Word :=
  BitVec.ofNat 64 (assemble (fun f => f.cfg.getD f.reset) (fieldsAt off))

/-- The bits of a register word that belong to cfg fields (R17). -/
def cfgMask (off : Nat) : Nat := ((fieldsAt off).filter (fun f => f.cfg.isSome)).foldl (fun a f => a + f.mask) 0

/-- Is `v` a value the field's description allows? (R16; a `dep` field is judged with the state.) -/
def Field.allows (f : Field) (v : Nat) : Bool :=
  match f.legal with
  | .any => true
  | .rng lo hi => decide (lo ≤ v) && decide (v ≤ hi)
  | .srng lo hi => decide (lo ≤ sext (f.hi + 1 - f.lo) v) && decide (sext (f.hi + 1 - f.lo) v ≤ hi)
  | .mult n => decide (v % n = 0)
  | .zeroOr lo hi => decide (v = 0) || (decide (lo ≤ v) && decide (v ≤ hi))
  | .dep => true

/-- One field of an old word under a write of `v` that addresses the bits of `sel` (R13, R14, R16). -/
def Field.write (ok : Field → Nat → Bool) (sel v old : Nat) (f : Field) : Nat :=
  let n := f.hi + 1 - f.lo
  let o := (old >>> f.lo) % 2 ^ n
  let w := (v >>> f.lo) % 2 ^ n
  let m := (sel >>> f.lo) % 2 ^ n
  match f.acc with
  | .ro | .rc | .wo => o
  | .rw =>
    let x := (o &&& (2 ^ n - 1 - m)) ||| (w &&& m)
    if f.allows x && ok f x then x else o
  | .w1c => o &&& (2 ^ n - 1 - (w &&& m))
  | .w1s => o ||| (w &&& m)

/-- A whole register word under a write, field by field. -/
def writeWord (ok : Field → Nat → Bool) (fs : List Field) (sel v old : Nat) : Nat :=
  assemble (fun f => f.write ok sel v old) fs

/-- The registers that R18 calls counters: a host 4-byte read of them goes through the latch (R363). -/
def isCounter (off : Nat) : Bool :=
  if off < 0x100000 then false
  else if off < 0x200000 then off = Reg.hifBadacc || off = Reg.hifSnpfull
  else if off < 0x300000 then off = Reg.cfgReject || off = Reg.cfgStores
  else if off < 0x400000 then off = Reg.pwrEnergy || off = Reg.pwrCapcyc
  else if off < 0x540000 then decide (0x1000 ≤ off % 0x10000) && decide (off % 0x10000 < 0x2000) && decide (off % 0x40 ≠ 0) && decide (off % 0x40 < 0x28)
  else if off < 0x600000 then off = Reg.memPatmiss || off = Reg.memMigbytes || (decide (Reg.memFeltCe 0 ≤ off) && decide (off < 0x540240))
  else if off < 0x720000 then decide (0x40 ≤ off % 0x8000) && decide (off % 0x8000 < 0x80)
  else if off < 0x800000 then off = Reg.fabDiscard || off = Reg.fabRelayed || (decide (0x721000 ≤ off) && decide (off < 0x721400) && decide (off % 0x40 = 0x28))
  else if off < 0x900000 then decide (Reg.relTests ≤ off) && decide (off ≤ Reg.relEvhead)
  else if off < 0xA00000 then decide (Reg.snapCopies ≤ off) && decide (off ≤ Reg.snapDrained)
  else if off < 0xB00000 then off = Reg.secBadtag || off = Reg.secAuthfail
  else if off < 0x1000000 then
    (decide (0xB01000 ≤ off) && decide (off < 0xB01800) && decide (off % 0x80 = 0x20))
      || (decide (0xB10000 ≤ off) && decide (off < 0xB14000) && decide (0x10 ≤ off % 0x40) && decide (off % 0x40 ≤ 0x38))
  else
    let o := (off - 0x1000000) % 0x40000
    o = 0x100 || o = 0x108 || (decide (0x1000 ≤ o) && decide (o < 0xE000) && decide (0x8 ≤ o % 0x1000) && decide (o % 0x1000 < 0x30))
      || o = 0x10028 || (decide (0x20008 ≤ o) && decide (o < 0x20038))

end Sys2Proof.Machine
end

