-- ==== Sys2Proof/Machine/Sparse.lean ====
section
/-! DEFINITION. Sparse maps in one canonical form: keys strictly rising, and no entry equal to what an unlisted
key reads as. They hold memories, register files, caches and the CSR store, so that equal contents are equal data. -/

namespace Sys2Proof.Machine

/-- A sparse map from numbers to values; what an unlisted key reads as is a function of the key that each use names. -/
abbrev Sparse (β : Type) := List (Nat × β)

/-- What key `k` reads as. -/
def Sparse.get {β : Type} (d : Nat → β) : Sparse β → Nat → β
  | [], k => d k
  | (k', v) :: m, k => if k' = k then v else Sparse.get d m k

/-- The map without an entry for `k`. -/
def Sparse.erase {β : Type} : Sparse β → Nat → Sparse β
  | [], _ => []
  | (k', v) :: m, k => if k' = k then Sparse.erase m k else (k', v) :: Sparse.erase m k

/-- The map with an entry `v` for `k` placed before the first greater key. -/
def Sparse.insert {β : Type} : Sparse β → Nat → β → Sparse β
  | [], k, v => [(k, v)]
  | (k', v') :: m, k, v => if k < k' then (k, v) :: (k', v') :: m else (k', v') :: Sparse.insert m k v

/-- The map in which `k` reads as `v`. Writing the value an unlisted key reads as removes the entry. -/
def Sparse.set {β : Type} [DecidableEq β] (d : Nat → β) (m : Sparse β) (k : Nat) (v : β) : Sparse β :=
  if v = d k then Sparse.erase m k else Sparse.insert (Sparse.erase m k) k v

/-- Every key of `m` lies above `lo`, keys rise strictly, and no entry equals the unlisted value. -/
def Sparse.wfFrom {β : Type} [DecidableEq β] (d : Nat → β) : Option Nat → Sparse β → Bool
  | _, [] => true
  | none, (k, v) :: m => decide (v ≠ d k) && Sparse.wfFrom d (some k) m
  | some lo, (k, v) :: m => decide (lo < k) && decide (v ≠ d k) && Sparse.wfFrom d (some k) m

/-- The canonical form holds. -/
def Sparse.wf {β : Type} [DecidableEq β] (d : Nat → β) (m : Sparse β) : Bool := Sparse.wfFrom d none m

/-- Read-modify-write of one key. -/
def Sparse.modify {β : Type} [DecidableEq β] (d : Nat → β) (m : Sparse β) (k : Nat) (f : β → β) : Sparse β :=
  Sparse.set d m k (f (Sparse.get d m k))

end Sys2Proof.Machine
end

