-- ==== Sys2Proof/Machine/State.lean ====
section
/-! DEFINITION. The state of the LH4820 as plain data: the CSR space, the memories, the cores by physical position,
the clusters, the fabric, the host interface, the snapshot engine, the tender and the queue of waiting commands. -/

namespace Sys2Proof.Machine

/-- Byte memory: the host's cells in canonical form, unlisted bytes reading as zero. -/
abbrev Memory := Sparse Byte

/-- What an unlisted byte of any memory reads as: the tiers are cleared at start (R274 step 6); the same value stands
for host memory and the flash (log row 3). -/
def zeroByte (_ : Nat) : Byte := 0

/-- The canonical form of a memory. -/
abbrev Memory.wf (m : Memory) : Bool := Sparse.wf zeroByte m

/-- A scalar register or an LDM word: 64-bit payload and 4-bit tag (R37, R43). -/
structure Tagged where
  pay : Word
  tag : Tag
  deriving DecidableEq, Repr

/-- Payload 0 with tag 0xF (R37, R43). -/
def emptyTagged : Tagged := ⟨0, 0xF⟩

def emptyReg (_ : Nat) : Tagged := emptyTagged
def zeroWord (_ : Nat) : Word := 0
def zeroVec (_ : Nat) : BitVec 4096 := 0
def zeroTile (_ : Nat) : BitVec 32768 := 0
def zeroNat (_ : Nat) : Nat := 0
def noPayloads (_ : Nat) : List (BitVec 2048) := []

/-! ### Cores -/

/-- A mode shadow in force (R69, R106): the register written (1 MODE, 2 PSR), the leaves still to complete, the value
under which they run and the value written. -/
structure Shadow where
  reg : Nat
  cnt : Nat
  hold : Word
  new : Word
  deriving DecidableEq, Repr

/-- An exception met at issue, or deferred, with its syndrome (R96, R112). `hbk` names the completion counters that rise at
its entry, and `xid` the transfer that it reports, 0 for none (R78, R443). -/
structure Exc where
  code : Nat
  kind : Nat
  syl : Nat
  reg : Nat
  info : Nat
  addr : Word
  next : Bool
  deferred : Bool
  fleaf : Nat
  hbk : List Nat
  xid : Nat
  deriving DecidableEq, Repr

/-- The branch leaf whose delay leaf stands next: its address, the target when the branch is taken, and the rc operand it
read (R65, R104). -/
structure BrCtx where
  leaf : Nat
  target : Option Nat
  src : Tagged
  deriving DecidableEq, Repr

/-- An atomic: opcode, operand and expected value (R72). -/
structure Amo where
  op : Nat
  opnd : Word
  want : Word
  deriving DecidableEq, Repr

/-- An outstanding scalar load or atomic (R57, R99): the key of its destination, the value read (the old word of an atomic, which has replaced it), leaf and
syllable, address and size, whether the data is uncorrectable, whether a cache takes its line, whether it is an atomic, whether it occupies a miss register
(R254, R278), whether its line comes from memory and fills the L2, and its request in a bank queue, as bank and number (R256). -/
structure OutLoad where
  reg : Nat
  val : Tagged
  leaf : Nat
  syl : Nat
  addr : Nat
  size : Nat
  bad : Bool
  fill : Bool
  amo : Bool
  miss : Bool
  mem : Bool
  req : Option (Nat × Nat)
  deriving DecidableEq, Repr

/-- A fill of the program store in flight: a whole line or one leaf of it, and the leaf that the fetch asked for, none for a prefetch
(R47, R283), with its request in a bank queue. -/
structure PsFill where
  line : Nat
  single : Bool
  want : Option Nat
  req : Option (Nat × Nat)
  deriving DecidableEq, Repr

/-- A line of the program store: its line number, age, a valid bit per leaf and the four leaves (R47, R278, R279). -/
structure PsLine where
  line : Nat
  age : Nat
  valid : List Bool
  leaves : List (BitVec 256)
  deriving DecidableEq, Repr

/-- A line of an L1 or an L2: line number, age, dirty, and whether it came from a page with STRM = 1 (R278 to R281). -/
structure CLine where
  valid : Bool
  line : Nat
  age : Nat
  dirty : Bool
  strm : Bool
  deriving DecidableEq, Repr

/-- An empty way: invalid with age 3 (R280). -/
def emptyLine (_ : Nat) : CLine := ⟨false, 0, 3, false, false⟩

/-- A stream of the data prefetcher (R284): last miss, stride, misses seen, and the 64-byte lines asked for ahead. -/
structure PfStream where
  last : Nat
  stride : Int
  count : Nat
  ahead : Nat
  deriving DecidableEq, Repr

/-- A prefetch fill in flight: its 64-byte line, whether a write has invalidated it (R286), and its request in a bank queue. -/
structure PfFill where
  line : Nat
  dead : Bool
  req : Option (Nat × Nat)
  deriving DecidableEq, Repr

/-- A vector operation in flight: its leaf and syllable, the issue number of its leaf, class, opcode and operand fields,
the scalar operands (a memory operation keeps its stride in `sb` and its base in `sc`), MODE, run seed and step read at issue, the
element it starts at (VSTART), the element at which a failed slice stops it (R153, R156), and the vector and mask registers that it
reads as they stood before its leaf, where its leaf's other operation writes them (R55). A scalar destination stands in `vd` by its key. -/
structure VJob where
  leaf : Nat
  syl : Nat
  seq : Nat
  mem : Bool
  op : Nat
  et : Nat
  n : Nat
  vd : Nat
  va : Nat
  vb : Nat
  vc : Nat
  s : Bool
  me : Bool
  m : Nat
  sb : Tagged
  sc : Tagged
  mode : Word
  seed : Nat
  step : Nat
  start : Nat
  cut : Nat
  alt : Option (Sparse (BitVec 4096) × Sparse (BitVec 4096))
  deriving DecidableEq, Repr

/-- A tile, bank or matrix operation in flight: opcode class (8 or 9), opcode, operand fields and scalar operands read at issue. -/
structure TJob where
  leaf : Nat
  syl : Nat
  seq : Nat
  cls : Nat
  op : Nat
  t : Nat
  tw : Nat
  t1 : Nat
  mf : Nat
  acc : Bool
  a : Nat
  a1 : Nat
  rb : Nat
  rs : Int
  rows : Nat
  rowb : Nat
  deriving DecidableEq, Repr

/-- A string operation under way: opcode, and the registers that hold rt, rs and rc (R73, R74). -/
structure StrOp where
  op : Nat
  rt : Nat
  rs : Nat
  rc : Nat
  syl : Nat
  deriving DecidableEq, Repr

/-- A watermark window as it stood at an issue (R440, R441). -/
structure WmWin where
  base : Nat
  limit : Nat
  shadow : Nat
  deriving DecidableEq, Repr

/-- A queued headbox transfer: its number, the logical id that queued it (0x7FF when nobody counts it), kind (0 copy, 1 send,
2 contribution, 3 slot release), leaf, counter, hints, resolved addresses (R412), geometry, flow or collective number,
occurrence, the windows at issue, whether it has begun, and whether it has raised its exception (R78). -/
structure Xfer where
  xid : Nat
  lcid : Nat
  kind : Nat
  leaf : Nat
  k : Nat
  wm : Bool
  strm : Bool
  src : Nat
  dst : Nat
  rowlen : Nat
  rows : Nat
  srcStride : Int
  dstStride : Int
  num : Nat
  len : Nat
  occ : Nat
  wins : List WmWin
  begun : Bool
  bad : Bool
  deriving DecidableEq, Repr

/-- The special registers of R81, but for the loop registers, counters and TCFG. -/
structure Spr where
  psr : Word
  epc : Tagged
  epsr : Word
  evba : Tagged
  ksp : Tagged
  dfsa : Tagged
  mode : Word
  sflags : Word
  vstart : Word
  vflags : Word
  deriving DecidableEq, Repr

/-- The block-repeat registers of one level (R66, R85). -/
structure Loop where
  ls : Tagged
  le : Tagged
  p : Bool
  count : Nat
  deriving DecidableEq, Repr

/-- What a leaf changed of the flow of control before its operations ended, kept so that an entry in the middle of the leaf
can give it back (R103, R107). -/
structure Prev where
  pc : Nat
  lc0 : Nat
  lc1 : Nat
  br : Option BrCtx
  shadow : Option Shadow
  deriving DecidableEq, Repr

/-- Where the program stands. `resume` holds EPSR.PEND of a leaf that only finishes operations (R103), `ctlOnly` the BRSRC
under which only a control operation is repeated and the PEND of its delay leaf (R104), `seq` counts the leaves issued since reset entry,
and `df` holds code and EPC of the exception whose entry ended in a double fault (R118, R456). -/
structure Flow where
  pc : Nat
  br : Option BrCtx
  shadow : Option Shadow
  resume : Option Nat
  ctlOnly : Option (Tagged × Nat)
  exc : Option Exc
  deferred : List Exc
  str : Option StrOp
  atCouch : Bool
  seq : Nat
  prev : Option Prev
  df : Option (Nat × Nat)
  deriving DecidableEq, Repr

/-- The state of a logical core that a couch hands over (R410), but for the LDM. -/
structure Arch where
  sregs : Sparse Tagged
  spr : Spr
  loop0 : Loop
  loop1 : Loop
  hbc : Sparse Word
  vregs : Sparse (BitVec 4096)
  mregs : Sparse (BitVec 4096)
  tcfg : Sparse Word
  tiles : Sparse (BitVec 32768)
  banks : Sparse (BitVec 32768)
  astat : Sparse Word
  flow : Flow
  deriving DecidableEq, Repr

/-- The work of a core that has issued and not ended. -/
structure Work where
  loads : List OutLoad
  vq : List VJob
  tq : List TJob
  hbq : List Xfer
  deriving DecidableEq, Repr

/-- What belongs to a physical position: caches, program store and prefetcher (R278, R410). `l1Off` lists the L1 ways that are disabled (R287), `psRetry` names the leaf fetched again after a
parity failure, `psBad` the leaves whose own fill returned uncorrectable data, until an entry (R47). -/
structure Caches where
  l1 : Sparse CLine
  l1Off : List Nat
  ps : Sparse PsLine
  psFills : List PsFill
  psRetry : Option Nat
  psBad : List Nat
  side : List Nat
  streams : List PfStream
  pfFills : List PfFill
  deriving DecidableEq, Repr

/-- One physical core position. -/
structure Core where
  arch : Arch
  work : Work
  caches : Caches
  ldm : Sparse Tagged
  deriving DecidableEq, Repr

/-- MODE, PSR and the other special registers after reset (R83, R84, R91 to R93). -/
def Spr.reset : Spr :=
  { psr := 1, epc := ⟨0, 0⟩, epsr := 0, evba := ⟨0, 0⟩, ksp := emptyTagged, dfsa := emptyTagged
    mode := 0, sflags := 0, vstart := 0, vflags := 0 }

def Loop.reset : Loop := ⟨⟨0, 0⟩, ⟨0, 0⟩, false, 0⟩

def Flow.reset : Flow :=
  { pc := 0, br := none, shadow := none, resume := none, ctlOnly := none, exc := none, deferred := [], str := none
    atCouch := false, seq := 0, prev := none, df := none }

def Arch.reset : Arch :=
  { sregs := [], spr := Spr.reset, loop0 := Loop.reset, loop1 := Loop.reset, hbc := [], vregs := [], mregs := []
    tcfg := [], tiles := [], banks := [], astat := [], flow := Flow.reset }

def Work.reset : Work := ⟨[], [], [], []⟩

def Caches.reset : Caches :=
  { l1 := [], l1Off := [], ps := [], psFills := [], psRetry := none, psBad := [], side := [], streams := [], pfFills := [] }

/-- A position after device reset (R37, R43, R123, R157, R163, R280). -/
def Core.reset : Core := ⟨Arch.reset, Work.reset, Caches.reset, []⟩

def coreReset (_ : Nat) : Core := Core.reset

/-! ### Clusters -/

/-- The clock of a cluster island, brought up to date when its STEP changes: thousandths of a cycle counted up to the device
time `at`, and the STEP since then (R86, R501). -/
structure Clock where
  milli : Nat
  since : Nat
  step : Nat
  deriving DecidableEq, Repr

/-- A couch request or couch: slot, target position, why it was asked for (0 CLU.COUCH, 1 self-test, 2 hand-back), the cluster cycle of the
request, and whether it has passed its limit (R409, R413). -/
structure CouchReq where
  slot : Nat
  target : Nat
  why : Nat
  since : Nat
  late : Bool
  deriving DecidableEq, Repr

/-- A self-test session: position, the slot moved off it, its phase (0 couch wanted, 1 slices, 2 hand-back), the next slice, and
whether a turn asked for it, whether the position was held after a third fault, and when its last slice ended (R447 to R449, R451). -/
structure Session where
  pos : Nat
  slot : Option Nat
  phase : Nat
  slice : Nat
  byTurn : Bool
  held : Bool
  ended : Option Nat
  deriving DecidableEq, Repr

/-- Self-test of a cluster: the pointer of the rotation, the time of a turn that waits, the positions due with their due times, the
session, whether the first turn without a spare has been reported, and the suspect positions whose REL.SUS.HOURS have passed (R449, R450,
R453). -/
structure Rotation where
  ptr : Nat
  turn : Option Nat
  due : List (Nat × Nat)
  session : Option Session
  noSpare : Bool
  aged : List Nat
  deriving DecidableEq, Repr

/-- The calender unit of a cluster beyond its registers: norm accumulator with its flags (R224), the clip factor held and
whether the step is skipped (R227), whether it has run CONTRIB and END of the step, whether the entry at DONE has run and
waits to complete, its error, and DONE and ERR as written (R219, R223). -/
structure Cal where
  norm : Nat
  nf : Bool
  ovf : Bool
  clip : Option (Nat × Bool)
  contributed : Bool
  ended : Bool
  ran : Bool
  err : Nat
  done : Nat
  hold : Bool
  deriving DecidableEq, Repr

/-- One cluster beyond its registers: clock, L2 and its disabled ways (R287), the lines in the L2's victim buffer with their requests (R281), cached page table entries with the most recently used
first (R244), the calender, couch, self-test, and the slots that wait for a takeover, each with the position that held it and the cluster cycle of its third fault (R121). -/
structure Cluster where
  clock : Clock
  l2 : Sparse CLine
  l2Off : List Nat
  victims : List (Nat × Nat)
  pat : List Nat
  cal : Cal
  couch : Option CouchReq
  rot : Rotation
  takeover : List (Nat × Nat × Nat)
  deriving DecidableEq, Repr

def Cal.reset : Cal :=
  { norm := 0, nf := false, ovf := false, clip := none, contributed := false, ended := false, ran := false, err := 0, done := 0, hold := false }

def Cluster.reset : Cluster :=
  { clock := ⟨0, 0, 0⟩, l2 := [], l2Off := [], victims := [], pat := [], cal := Cal.reset, couch := none, rot := ⟨0, none, [], none, false, []⟩, takeover := [] }

def clusterReset (_ : Nat) : Cluster := Cluster.reset

/-! ### Memory tiers -/

/-- A half of the broke log as it stands in the MRAM: its header and its records of 16 bytes (R271, R272). Records past the header's COUNT are what the
half held before. -/
structure LogHalf where
  head : BitVec 512
  recs : List (BitVec 128)
  deriving DecidableEq, Repr

/-- A migration under way: the channel, and the set of dead channels and the capacity before it (R268). -/
structure Migration where
  ch : Nat
  oldDead : List Nat
  oldPages : Nat
  deriving DecidableEq, Repr

/-- A reel sector with a corrected error: its address, whether a write or the scrubber has rewritten it since, and when (R259). -/
structure CeSector where
  u : Nat
  again : Bool
  time : Nat
  deriving DecidableEq, Repr

/-- A bank queue (R256): the numbers of the requests that it holds, oldest first, the requests that wait in replay queues as cluster and number,
oldest first, and the cluster granted last. -/
structure BankQ where
  queue : List Nat
  waiting : List (Nat × Nat)
  last : Nat
  deriving DecidableEq, Repr

def bankReset (_ : Nat) : BankQ := ⟨[], [], 99⟩

/-- Who waits for a bank on behalf of a command at work (R256): the agent, its logical id and cluster, and the 128-byte line that it asks for. -/
structure BankAsk where
  agent : Nat
  lcid : Nat
  clu : Nat
  line : Nat
  deriving DecidableEq, Repr

def zeroFlips (_ : Nat) : BitVec 288 := 0

/-- An update of a page table entry under way: the entry, its former value, and the clusters whose cached copy still holds that value (R243, R244). -/
structure PatUpdate where
  entry : Nat
  old : Word
  users : List Nat
  deriving DecidableEq, Repr

/-- The memories and what guards them. `errs` lists the units of protection that hold an error (1 correctable, 2 uncorrectable, 3 an uncorrectable tag of the
cache line of a word), keyed by the address of the sector or word, `flips` the flipped bits of a reel sector's codeword where they are known (R250); `open` tells whether the tiers
are open (R274); `late` that the deadline of the pending surrender request has passed (R264); `nextReq` numbers the requests to the banks, and `parked` holds
those of commands that wait for a bank, as bank and number. -/
structure Mem where
  tiers : Memory
  host : Memory
  flash : Memory
  errs : Sparse Nat
  flips : Sparse (BitVec 288)
  isOpen : Bool
  dead : List Nat
  suspects : List Nat
  mig : Option Migration
  remap : Sparse Word
  retired : List Nat
  rowFails : List Nat
  ceSectors : List CeSector
  logA : LogHalf
  logB : LogHalf
  late : Bool
  bankq : Sparse BankQ
  nextReq : Nat
  parked : List (BankAsk × Nat × Nat)
  patBusy : Option PatUpdate
  rtTry : List Nat
  refresh2 : List Nat
  deriving DecidableEq, Repr

/-! ### Fabric -/

/-- A port beyond its registers: next SEQ to send and next expected (R312), unacknowledged cells oldest first (R313), cells
to resend, NAK wanted, credits to return (R314), control and configuration cells waiting, relayed cells held, sheet, replays in
a row, the seat and role the peer announced and its MILLID (R321, R398), the cells kept after a gap (R322), whether training is over (R320), and the
times of codewords that the FEC could not correct, with their numbers (R317). -/
structure Port where
  txSeq : Nat
  rxSeq : Nat
  replay : List Cell
  resend : List Cell
  nak : Bool
  credRet : Nat
  ctl : List Cell
  rx : List Cell
  sheet : Nat
  replays : Nat
  peerSeen : Bool
  peerRaw : Nat
  peerMill : Nat
  peerLevel : Nat
  gap : List Cell
  trained : Bool
  fecBad : List (Nat × Nat)
  asked : Bool
  deriving DecidableEq, Repr

def Port.reset : Port :=
  { txSeq := 0, rxSeq := 0, replay := [], resend := [], nak := false, credRet := 0, ctl := [], rx := [], sheet := 0, replays := 0
    peerSeen := false, peerRaw := 0, peerMill := 0, peerLevel := 0, gap := [], trained := false, fecBad := [], asked := false }

def portReset (_ : Nat) : Port := Port.reset

/-- A transfer in a stream's queue for one port, or for no port (36) when this device itself is the destination (R324, R330): cell type, destination, FLOW, the next cell and how many there are,
where the bytes come from (an address, or captured payloads), watermark marking, AUX of its first cell, the headbox transfer
that it carries out, whether its last cell ends a message or a segment, what it is for the snapshot engine of a member (R426), and the block that a
watermarked send has read, with the watermark that travels (R311, R445). -/
structure OutItem where
  stream : Nat
  port : Nat
  typ : Nat
  dst : Nat
  flow : Nat
  idx : Nat
  cells : Nat
  src : Nat
  data : List (BitVec 2048)
  wm : Bool
  wins : List WmWin
  aux : Nat
  xid : Option Nat
  last : Bool
  part : Option PartMsg := none
  block : List (BitVec 2048) := []
  mark : Nat := 0
  deriving DecidableEq, Repr

/-- A segment of a collective (R339). -/
structure Seg where
  off : Nat
  slen : Nat
  root : Bool
  parent : Nat
  rank : Nat
  child : List Nat
  deriving DecidableEq, Repr

/-- A collective entry of the mill image (R339). -/
structure Coll where
  id : Nat
  typ : Nat
  fmt : Nat
  accf : Nat
  stream : Nat
  seqr : Nat
  wm : Bool
  ctx : Nat
  ep : Nat
  len : Nat
  loc : List Nat
  scratch : Nat
  segs : List Seg
  deriving DecidableEq, Repr

/-- A local contribution to a collective (R339), and whether its contributor has counted (R341). -/
structure CollIn where
  coll : Nat
  occ : Nat
  lcid : Nat
  src : Nat
  dst : Nat
  strm : Bool
  wins : List WmWin
  xid : Nat
  counted : Bool
  deriving DecidableEq, Repr

/-- An occurrence of a collective in progress: chunks combined upward, chunks whose result stands, and whether it has
stopped on a watermark (R444). -/
structure CollRun where
  coll : Nat
  occ : Nat
  up : List (Nat × Nat)
  down : List (Nat × Nat)
  stopped : Bool
  record : List (BitVec 2048)
  deriving DecidableEq, Repr

/-- A collective cell received and not yet used: collective, child slot (0xFF for a result), index and payload (R311, R338). The payload of the first
waiting cell of a child's slot and index stands in the scratch region. -/
structure PartCell where
  coll : Nat
  slot : Nat
  idx : Nat
  data : BitVec 2048
  deriving DecidableEq, Repr

/-- A record of a patch set (R347). -/
structure PatchRec where
  table : Nat
  port : Nat
  index : Nat
  value : Word
  deriving DecidableEq, Repr

/-- A patch set (R347): its number, the device id and, for a link, the port of its key, and its records. -/
structure PatchSet where
  num : Nat
  dev : Nat
  port : Option Nat
  recs : List PatchRec
  deriving DecidableEq, Repr

/-- A record of a set in force, with the word that it replaced, which comes back when the job ends (R348). -/
structure PatchUndo where
  set : PatchRec
  old : Word
  deriving DecidableEq, Repr

/-- A device section of a mill image: branch-group cluster masks, enabled ports, expected peers (peer port [21:16], peer id [11:0]), routes, the ream
entries of port 0, 1 and so on, the words of the send and of the receive flows, collectives and patch sets (R351). -/
structure Section where
  groups : List Nat
  portEn : List Nat
  ports : List Word
  routes : List Word
  reams : List Word
  sflows : List Word
  rflows : List Word
  colls : List Coll
  patches : List PatchSet
  deriving DecidableEq, Repr

/-- The fabric beyond its registers. -/
structure Fab where
  ports : Sparse Port
  queues : List OutItem
  colls : List Coll
  occNext : Sparse Nat
  ins : List CollIn
  runs : List CollRun
  parts : List PartCell
  doneOcc : Sparse Nat
  recvIdx : Sparse Nat
  held : Sparse (List (BitVec 2048))
  recvWait : Sparse Nat
  peers : Sparse Word
  enabled : List Nat
  patches : List PatchSet
  inForce : List PatchUndo
  patchReq : Bool
  raiseReq : Bool
  groups : List Nat
  millId : Nat
  myIdSet : Bool
  imgPort : Option Nat
  imgCells : Nat
  marked : List Nat
  nextXid : Nat
  jobLevel : Nat
  hostId : Nat
  deriving DecidableEq, Repr

/-! ### Host interface -/

/-- A command queue at work: the command read and not yet completed, with the status and result it ends with, the completion
index, the phase, and whether the queue has stopped (R372 to R374). -/
structure HostQ where
  cmd : Option (List Word)
  status : Nat
  result : Nat
  ready : Bool
  head : Nat
  phase : Bool
  stopped : Bool
  deriving DecidableEq, Repr

def hostQReset (_ : Nat) : HostQ := ⟨none, 0, 0, false, 0, true, false⟩

/-- What the device sends to the outside world. -/
inductive OutMsg where
  | msix (vec : Nat)
  | csrData (v : Word)
  | memData (bytes : List Byte) (poison : Bool)
  | memDone
  | snoop (line : Nat)
  | snoopReply (line : Nat) (hadData : Bool)
  | cell (port : Nat) (c : Cell)
  | part (port : Nat) (m : PartMsg)
  | datagram (bytes : List Byte)
  | smbus (addr : Nat) (bytes : List Byte) (pec : Byte)
  | spdm (bytes : List Byte)
  | jtag (v : Word)
  | net (bytes : List Byte)
  deriving DecidableEq, Repr

/-- A secured SPDM session (R380): what its keys derive from, the finish, request and response keys, and the records sealed in each direction. -/
structure SpdmSess where
  trans : List Byte
  finKey : List Byte
  reqKey : List Byte
  rspKey : List Byte
  reqSeq : Nat
  rspSeq : Nat
  deriving DecidableEq, Repr

/-- The host interface beyond its registers: queues, the host read latch (R363), the MSI-X table with its address and data words, masks and pending bits
(R361, R378), the bits that the host has written in configuration space (R361), lines the host holds (R369), the link, IDE keys, and the SPDM connection
with its session. -/
structure HostIf where
  queues : Sparse HostQ
  latch : Option (Nat × Word)
  table : Sparse Word
  mask : BitVec 32
  pend : BitVec 32
  conf : Sparse Word
  snoop : List Nat
  biWait : List Nat
  linkUp : Bool
  ideKeys : Option (List Byte)
  spdm : Nat
  sess : Option SpdmSess
  decoder : Nat
  out : List OutMsg
  deriving DecidableEq, Repr

/-! ### Start-up, settings, power -/

/-- A setting record (R384). -/
structure SetRec where
  w0 : Word
  mask : Word
  value : Word
  deriving DecidableEq, Repr

/-- A user half of the MRAM: its header and its setting records (R391). Records past the header's COUNT are what the half held before. -/
structure UserHalf where
  head : BitVec 512
  recs : List SetRec
  deriving DecidableEq, Repr

/-- The training store: the records of reel channels, ports and islands (R390). -/
structure Training where
  chans : Sparse (BitVec (8 * 128))
  ports : Sparse (BitVec (8 * 512))
  islands : Sparse (BitVec (8 * 64))
  deriving DecidableEq, Repr

/-- Start-up and power beyond their registers: device time in ns, the tender clock at time 0 and whether it runs, power, the low spell and the
cut-off of the main input, the reset held by SEAT 9 to 15, whether the layers have been applied and the firmware runs, members to which a master has
sent its image with the ports, what the MRAM keeps (user halves, training, the rows of the anti-rollback counters, voltage that the monitors have added per island), the last write to the MRAM with its
time, the voltage added that is in force, a STORE under way, and the governor: clusters in a thermal episode, the samples of the main
input (power of the last 100 ms in mW, voltage of the last 10 ms in mV), samples taken in all and in phase 7, the samples of the last peak response, lowering and raise, a hold at STEP 0, the
number of the first 1 µs period that PWR.CAPCYC has yet to look at, the fraction of a mJ not yet counted, and the clusters that a scan has stopped (R494). -/
structure Sys where
  time : Nat
  tclk0 : Nat
  clockRuns : Bool
  mainGood : Bool
  standby : Bool
  cutoff : Bool
  thermtrip : Bool
  lowSpell : Bool
  held : Bool
  cfgApplied : Bool
  fwRuns : Bool
  imgSent : List (Nat × Nat)
  userA : UserHalf
  userB : UserHalf
  train : Training
  arb : Sparse (BitVec 512)
  storeReq : Option (List SetRec)
  vAdd : Sparse Nat
  vNow : Sparse Nat
  lastWrite : Option (MramTear × Nat)
  thEpisode : List Nat
  power : List Nat
  volts : List Nat
  govTicks : Nat
  govServe : Nat
  govPeak : Nat
  govLower : Nat
  govRaise : Nat
  govHeld : Bool
  capMark : Nat
  energyRem : Nat
  scanned : List Nat
  freeCnt : Nat
  deriving DecidableEq, Repr

/-! ### Snapshots -/

/-- A generation in the checkpoint store: its number, whether complete, step, time, MILLID, the numbers of the pages of its set, the pages written with
their bytes, the state record, and the manifest once it is complete (R423 to R425). -/
structure Gen where
  gen : Nat
  complete : Bool
  step : Nat
  time : Nat
  millId : Nat
  set : List Nat
  pages : List (Nat × Memory)
  record : List Word
  manifest : List Byte := []
  deriving DecidableEq, Repr

/-- What the snapshot engine still owes a member: a page of zeros, the manifest of a generation, a page of a generation in its store, a rebuilt page of its
stripe, or the manifest of a failed member from its area (R426, R427, R433). -/
inductive Owed where
  | zeros (t : PartMsg)
  | manifest (gen : Nat)
  | page (gen p : Nat) (t : PartMsg)
  | result (r : Nat)
  | area (m : Nat)
  deriving DecidableEq, Repr

/-- A page that has come for a rebuild (R433): the member that is rebuilt, the member that sent the page, generation, place in the stripe, and bytes. -/
structure StripePage where
  gone : Nat
  mem : Nat
  gen : Nat
  r : Nat
  bytes : Memory
  deriving DecidableEq, Repr

/-- The snapshot engine beyond its registers: NOW wanted, pages protected, pages in the staging pool with their places in it, in copy order, copies
running, the generation being drained, members given up until software names them anew and those abandoned for the generation, members of whose flow a cell
has waited too long, the member for whom the engine waits for a slot credit, the page whose cells to its partner are queued, what it still owes members,
generations in the checkpoint store, clusters that have ended the step, what the message is that a receive flow brings, how often each parity
page (generation, place) has been written, manifests held (generation, member), the generations to share, a restore under
way, the pages and the manifests (generation, bytes) that have come for a rebuild of this device, the rebuild that it serves
(failed member, generation), the pages that have come for rebuilds of others, and whether a core has been started. -/
structure Snap where
  now : Bool
  prot : List Nat
  pool : List (Nat × Nat)
  copying : List Nat
  cur : Option Gen
  gaveUp : List Nat
  abandoned : List Nat
  stalled : List Nat
  wants : Option Nat
  sending : Option Nat
  todo : List (Nat × Owed)
  gens : List Gen
  ended : List Nat
  told : List (Nat × PartMsg)
  parity : List (Nat × Nat × Nat)
  manifests : List (Nat × Nat)
  share : List Nat
  restore : Option (Nat × Nat)
  rebuilt : List StripePage
  areas : List (Nat × List Byte)
  serve : Option (Nat × Nat)
  served : List StripePage
  started : Bool
  deriving DecidableEq, Repr

/-! ### Tender -/

/-- A management session: its place (a bit of SEC.SESS.OPEN), id, credential and role, key, the last request and its response, event
subscription with the records acknowledged, and the series number of what it is sent (R480 to R487). -/
structure Sess where
  slot : Nat
  sid : Nat
  cred : Nat
  role : Nat
  kmac : List Byte
  seq : Nat
  resp : List Byte
  sub : Option (Nat × Nat)
  census : Bool
  acked : Nat
  evSeq : Nat
  deriving DecidableEq, Repr

/-- A pending session (R481): its place, its id, the random draw of its nonce and ephemeral key, and its last request with the response (R480). -/
structure PendSess where
  slot : Nat
  sid : Nat
  draw : Nat
  last : Option (Nat × List Byte) := none
  deriving DecidableEq, Repr

/-- An operator credential (R484): role (1 observer, 2 operator, 3 administrator), kind, key or verifier, salt, iterations, failures
in a row, and whether it is refused. -/
structure Cred where
  role : Nat
  isKey : Bool
  key : List Byte
  salt : List Byte
  iters : Nat
  fails : Nat
  locked : Bool
  deriving DecidableEq, Repr

/-- The boot record: whether it and the layout header pass their check, the ACTIVE slot, READY, TRIAL, and a counter advance asked for (R463 to R473). -/
structure Boot where
  ok : Bool
  active : Nat
  ready : Bool
  trial : Bool
  advance : Option (Nat × Nat)
  deriving DecidableEq, Repr

/-- An open period of class 0x01 records (R457). -/
structure CeRec where
  count : Nat
  isOpen : Bool
  place : Nat
  addr : Word
  d2 : Word
  deriving DecidableEq, Repr

def ceReset (_ : Nat) : CeRec := ⟨0, false, 0, 0, 0⟩

/-- The tender and the security block beyond their registers: firmware slots, boot record, sessions, credentials, owner keys, the measurement log
(clock, index, value), authorised MILLIDs, times of recent drops, records not read over SMBus, the SHA-384 of the last accepted token, broke log records that
wait for the firmware, session ids given, random draws made, the draw of SEC.DBGNONCE, the slots that failed their check since the tender last ran (R465), and
the STORE requests (SID, SEQ) that came while it restarted (R495). -/
structure Tender where
  slotA : Memory
  slotB : Memory
  boot : Boot
  sessions : List Sess
  pending : List PendSess
  creds : List (Nat × Cred)
  owners : List (Nat × List Byte)
  log : List (Nat × Nat × List Byte)
  millAuth : List Nat
  drops : List Nat
  unread : List Nat
  token : List Byte
  qlog : List Word
  sids : Nat
  draws : Nat
  nonce : Nat
  badSlots : Nat
  storeAsks : List (Nat × Nat)
  deriving DecidableEq, Repr

/-- What NUM holds for a norm context between the device record and the clip factor (R225 to R227): the context, whether the nine cells
are the total already, and the cells. -/
structure NumRec where
  ctx : Nat
  total : Bool
  cells : List (BitVec 2048)
  deriving DecidableEq, Repr

/-- A write of a NUM register that waits for the next record of its context (R233): context, register, the bits addressed, value. -/
structure HeldWrite where
  ctx : Nat
  off : Nat
  sel : Nat
  v : Word
  deriving DecidableEq, Repr

/-- What a command found that makes it wait: a page protected for a snapshot (R419), a line the host holds (R292), a bank whose queue is full (R256), or a
unit that is busy with a couch, a self-test slice or a full queue. -/
inductive WaitOn where
  | page (p : Nat)
  | line (l : Nat)
  | bank (a : BankAsk)
  | busy
  deriving DecidableEq, Repr

/-- The whole machine, and the commands that wait, first in, first out. `waits` is the model's own: what the command at work has
found to wait for; it is empty between commands (log row 7). -/
structure State where
  pending : List Instr
  csr : Sparse Word
  cores : Sparse Core
  clusters : Sparse Cluster
  numRecs : List NumRec
  numHeld : List HeldWrite
  mem : Mem
  fab : Fab
  hif : HostIf
  sys : Sys
  snap : Snap
  tender : Tender
  ce : Sparse CeRec
  groupStop : List Nat
  waits : List WaitOn
  deriving DecidableEq, Repr

/-- Why the machine stops. -/
inductive Fault where
  /-- Raised by every command that names a unit the device does not have (a position, cluster, port, channel, queue, window
  or register offset outside its range). The hardware has no such unit to be commanded, so the stop is safe. -/
  | noSuchUnit
  deriving DecidableEq, Repr

/-- Why a command has no meaning in the model. -/
inductive Refusal where
  /-- Raised by Machine/Dispatch.lean alone, for a command that is not modelled; safe, since it claims nothing. -/
  | notModelled (mnemonic : String)
  deriving DecidableEq, Repr

/-- The memories after device reset: nothing listed, tiers closed, no channel dead. -/
def Mem.reset : Mem :=
  { tiers := [], host := [], flash := [], errs := [], flips := [], isOpen := false, dead := [], suspects := [], mig := none, remap := [], retired := []
    rowFails := [], ceSectors := [], logA := ⟨0, []⟩, logB := ⟨0, []⟩, late := false, bankq := [], nextReq := 1, parked := [], patBusy := none, rtTry := [], refresh2 := [] }

def Fab.reset : Fab :=
  { ports := [], queues := [], colls := [], occNext := [], ins := [], runs := [], parts := [], doneOcc := [], recvIdx := [], held := [], recvWait := []
    peers := [], enabled := [], patches := [], inForce := [], patchReq := false, raiseReq := false, groups := [2 ^ 100 - 1], millId := 0
    myIdSet := false, imgPort := none, imgCells := 0, marked := [], nextXid := 1, jobLevel := 0, hostId := 0 }

/-- Every MSI-X vector starts masked (log row 8). -/
def HostIf.reset : HostIf :=
  { queues := [], latch := none, table := [], mask := 0xFFFFFFFF, pend := 0, conf := [], snoop := [], biWait := [], linkUp := false, ideKeys := none
    spdm := 0, sess := none, decoder := 0, out := [] }

def Sys.reset : Sys :=
  { time := 0, tclk0 := 0, clockRuns := false, mainGood := false, standby := true, cutoff := false, thermtrip := false, lowSpell := false, held := false
    cfgApplied := false, fwRuns := false, imgSent := [], userA := ⟨0, []⟩, userB := ⟨0, []⟩, train := ⟨[], [], []⟩, arb := [], storeReq := none
    vAdd := [], vNow := [], lastWrite := none, thEpisode := [], power := [], volts := [], govTicks := 0, govServe := 0, govPeak := 0, govLower := 0, govRaise := 0, govHeld := false, capMark := 0, energyRem := 0, scanned := [], freeCnt := 0 }

def Snap.reset : Snap :=
  { now := false, prot := [], pool := [], copying := [], cur := none, gaveUp := [], abandoned := [], stalled := [], wants := none, sending := none, todo := [], gens := [], ended := [], told := []
    parity := [], manifests := [], share := [], restore := none, rebuilt := [], areas := [], serve := none, served := [], started := false }

def Tender.reset : Tender :=
  { slotA := [], slotB := [], boot := ⟨true, 0, false, false, none⟩, sessions := [], pending := [], creds := [], owners := [], log := [], millAuth := []
    drops := [], unread := [], token := [], qlog := [], sids := 0, draws := 1, nonce := 0, badSlots := 0, storeAsks := [] }

/-- The machine right after device reset, before main power is good: every register at its reset value, nothing started,
no command waiting. What the MRAM and the flash hold comes from earlier starts or the factory; here they are empty (log row 4). -/
def State.reset : State :=
  { pending := [], csr := [], cores := [], clusters := [], numRecs := [], numHeld := [], mem := Mem.reset, fab := Fab.reset, hif := HostIf.reset, sys := Sys.reset
    snap := Snap.reset, tender := Tender.reset, ce := [], groupStop := [], waits := [] }

end Sys2Proof.Machine
end

