-- ==== Sys2Proof/Machine/Ops.lean ====
section
/-! DEFINITION. Named operations over the state that every family uses: registers, cores, clusters, the clock, the device
address map, the deckle table, memory bytes with their errors, and LDM words. -/

namespace Sys2Proof.Machine

/-! ### The CSR store -/

/-- The content of a register word, whether or not its cfg fields are loaded. -/
def State.raw (s : State) (off : Nat) : Word := Sparse.get csrDefault s.csr off

/-- A register word replaced. -/
def State.put (s : State) (off : Nat) (w : Word) : State := { s with csr := Sparse.set csrDefault s.csr off w }

/-- What a register word holds for its readers: fields marked "cfg" are zero until the start-up sequence has loaded them (R17). -/
def State.cur (s : State) (off : Nat) : Word :=
  if s.sys.cfgApplied then s.raw off else s.raw off &&& ~~~(BitVec.ofNat 64 (cfgMask off))

/-- Field `[hi:lo]` of a register word. -/
def State.fld (s : State) (off hi lo : Nat) : Nat := wfld (s.cur off) hi lo

/-- Bit `i` of a register word. -/
def State.bit (s : State) (off i : Nat) : Bool := s.fld off i i = 1

/-- A field of a register word replaced by hardware. -/
def State.putFld (s : State) (off hi lo v : Nat) : State := s.put off (wsetFld (s.raw off) hi lo v)

/-- A bit of a register word set or cleared by hardware. -/
def State.putBit (s : State) (off i : Nat) (b : Bool) : State := s.putFld off i i (b2n b)

/-- A counter advanced, modulo 2^64 (R88). -/
def State.bump (s : State) (off n : Nat) : State := s.put off (s.raw off + BitVec.ofNat 64 n)

/-- CFG.STAT.PHASE (R406). -/
def State.phase (s : State) : Nat := s.fld Reg.cfgStat 3 0

/-! ### Units -/

/-- The state of a core position. -/
def State.coreAt (s : State) (pos : Nat) : Core := Sparse.get coreReset s.cores pos

def State.setCore (s : State) (pos : Nat) (c : Core) : State := { s with cores := Sparse.set coreReset s.cores pos c }

def State.modCore (s : State) (pos : Nat) (f : Core → Core) : State := s.setCore pos (f (s.coreAt pos))

def State.setArch (s : State) (pos : Nat) (a : Arch) : State := s.modCore pos fun c => { c with arch := a }
def State.setFlow (s : State) (pos : Nat) (f : Flow) : State := s.modCore pos fun c => { c with arch := { c.arch with flow := f } }
def State.setSpr (s : State) (pos : Nat) (p : Spr) : State := s.modCore pos fun c => { c with arch := { c.arch with spr := p } }
def State.setWork (s : State) (pos : Nat) (w : Work) : State := s.modCore pos fun c => { c with work := w }
def State.setCaches (s : State) (pos : Nat) (x : Caches) : State := s.modCore pos fun c => { c with caches := x }

/-- The state of a cluster. -/
def State.cluAt (s : State) (c : Nat) : Cluster := Sparse.get clusterReset s.clusters c

def State.setClu (s : State) (c : Nat) (x : Cluster) : State := { s with clusters := Sparse.set clusterReset s.clusters c x }

def State.modClu (s : State) (c : Nat) (f : Cluster → Cluster) : State := s.setClu c (f (s.cluAt c))

/-- The state of a fabric port. -/
def State.portAt (s : State) (p : Nat) : Port := Sparse.get portReset s.fab.ports p

def State.setPort (s : State) (p : Nat) (x : Port) : State := { s with fab := { s.fab with ports := Sparse.set portReset s.fab.ports p x } }

def State.modPort (s : State) (p : Nat) (f : Port → Port) : State := s.setPort p (f (s.portAt p))

/-- The state of a host queue. -/
def State.queueAt (s : State) (n : Nat) : HostQ := Sparse.get hostQReset s.hif.queues n

def State.setQueue (s : State) (n : Nat) (x : HostQ) : State := { s with hif := { s.hif with queues := Sparse.set hostQReset s.hif.queues n x } }

/-- Every listed value of a sparse map replaced. -/
def Sparse.mapAll {β : Type} [DecidableEq β] (d : Nat → β) (f : Nat → β → β) (m : Sparse β) : Sparse β :=
  m.foldl (fun acc p => Sparse.set d acc p.1 (f p.1 p.2)) []

/-- Bytes of a memory. -/
def memBytes (m : Memory) (a n : Nat) : List Byte := (upto n).map fun i => Sparse.get zeroByte m (a + i)

/-- Something sent to the outside world. -/
def State.emit (s : State) (m : OutMsg) : State := { s with hif := { s.hif with out := s.hif.out ++ [m] } }

/-- A fresh free word (log row 5). -/
def State.freeDraw (s : State) : Nat × State := (s.sys.freeCnt, { s with sys := { s.sys with freeCnt := s.sys.freeCnt + 1 } })

/-! ### Positions, logical cores and the clock (R5, R6, R86, R460) -/

/-- The state of a position: 0 not started, 1 running, 2 halted, 3 spare idle, 4 in self-test, 5 held, 6 stopped (R88). -/
def State.stateOf (s : State) (pos : Nat) : Nat := s.fld (Reg.coreState pos) 2 0

def State.setStateOf (s : State) (pos v : Nat) : State := s.putFld (Reg.coreState pos) 2 0 v

/-- The logical id that a position backs, 0x7FF when none (R88). -/
def State.lcidOf (s : State) (pos : Nat) : Nat := s.fld (Reg.coreState pos) 26 16

/-- The position that backs logical id `i`, by the map of CLU.LMAP (R415). -/
def State.posOf (s : State) (i : Nat) : Option Nat :=
  let n := s.fld (Reg.cluLmap (i / 12)) (4 * (i % 12) + 3) (4 * (i % 12))
  if n ≤ 12 then some (13 * (i / 12) + n) else none

/-- Logical id `i` placed at a position, or at none. -/
def State.mapSlot (s : State) (i : Nat) (pos : Option Nat) : State :=
  let s := s.putFld (Reg.cluLmap (i / 12)) (4 * (i % 12) + 3) (4 * (i % 12)) (match pos with | some p => p % 13 | none => 15)
  match pos with
  | some p => s.putFld (Reg.coreState p) 26 16 i
  | none => s

/-- The tender clock in µs (R460). -/
def State.tclk (s : State) : Nat := if s.sys.clockRuns then s.sys.tclk0 + s.sys.time / 1000 else 0

/-- Thousandths of a cycle per ns at clock step `k`: the clock is (500 + 50 × k) MHz (R501). -/
def stepRate (k : Nat) : Nat := 500 + 50 * k

/-- Cycles of the cluster's clock island since device reset (R86). -/
def State.cycles (s : State) (c : Nat) : Nat :=
  let k := (s.cluAt c).clock
  (k.milli + (s.sys.time - k.since) * stepRate k.step) / 1000

/-! ### The device address map (R236) -/

def feltBase : Nat := 0x400000000000
def physBase : Nat := 0x500000000000
def logBase : Nat := 0x580000000000
def ownBase : Nat := 0x600000000000
def hostBase : Nat := 0x800000000000

/-- Current capacity of the reel tier in bytes. -/
def State.capBytes (s : State) : Nat := s.fld Reg.memCapacity 31 0 * 2 ^ 21

/-- Where a device physical address leads. -/
inductive Loc where
  | tier (a : Nat)
  | ldm (pos off : Nat)
  | csr (off : Nat)
  | host (n hpa : Nat)
  | hole
  deriving DecidableEq, Repr

/-- The lowest-numbered enabled host window that covers an address (R371). -/
def State.hostWin (s : State) (a : Nat) : Option Nat :=
  (upto 8).find? fun n =>
    s.bit (Reg.hifHwinCfg n) 3 &&
      (let b := s.fld (Reg.hifHwinDev n) 47 21 * 2 ^ 21
       decide (b ≤ a) && decide (a < b + s.fld (Reg.hifHwinSize n) 47 21 * 2 ^ 21))

/-- The place that a device physical address names, seen from core position `own` or from another agent (R236 to R238, R371). -/
def State.locate (s : State) (own : Option Nat) (a : Nat) : Loc :=
  if a < s.capBytes then .tier a
  else if feltBase ≤ a ∧ a < feltBase + 2 ^ 32 then .tier a
  else if physBase ≤ a ∧ a < physBase + 1300 * 2 ^ 18 then .ldm ((a - physBase) / 2 ^ 18) ((a - physBase) % 2 ^ 18)
  else if logBase ≤ a ∧ a < logBase + 1200 * 2 ^ 18 then
    match s.posOf ((a - logBase) / 2 ^ 18) with
    | some p => .ldm p ((a - logBase) % 2 ^ 18)
    | none => .hole
  else if ownBase ≤ a ∧ a < ownBase + 2 ^ 18 then
    match own with
    | some p => .ldm p (a - ownBase)
    | none => .hole
  else if csrBase ≤ a ∧ a < csrBase + csrSize then .csr (a - csrBase)
  else if hostBase ≤ a ∧ a < 2 ^ 48 then
    match s.hostWin a with
    | some n => .host n (s.fld (Reg.hifHwinHost n) 63 21 * 2 ^ 21 + (a - s.fld (Reg.hifHwinDev n) 47 21 * 2 ^ 21))
    | none => .hole
  else .hole

def isFelt (a : Nat) : Bool := decide (feltBase ≤ a) && decide (a < feltBase + 2 ^ 32)

/-! ### Placement of reel addresses (R249, R266, R267) -/

/-- A place in the reel tier. -/
structure RowAddr where
  ch : Nat
  rank : Nat
  bank : Nat
  row : Nat
  col : Nat
  deriving DecidableEq, Repr

/-- Natural channel of interleave position `q` (R249). -/
def imap (q : Nat) : Nat := 64 * (q % 20) + q / 20

/-- Bank, row and column of line `l` at interleave position `q` (R249). -/
def naturalAt (q l : Nat) : RowAddr :=
  { ch := imap q, rank := l % 48 / 16, bank := l % 48 % 16, row := l / 48 / 4, col := l / 48 % 4 }

/-- The placement of reel address `a` with a set of mapped-out channels and a capacity in pages (R266). -/
def placeWith (dead : List Nat) (pages a : Nat) : RowAddr :=
  let u := a / 512
  let q := u % 1280
  let l := u / 1280
  let live := (upto 1280).filter fun q' => !(decide (imap q' ∈ dead))
  if imap q ∉ dead then naturalAt q l
  else
    let k := 1280 - live.length
    let j := l * k + ((upto q).filter fun q' => decide (imap q' ∈ dead)).length
    let capu := pages * 4096
    let q0 := capu % 1280
    let l0 := capu / 1280
    let high := live.filter fun q' => decide (q0 ≤ q')
    if j < high.length then naturalAt (high.getD j 0) l0
    else
      let j := j - high.length
      naturalAt (live.getD (j % (1280 - k)) 0) (l0 + 1 + j / (1280 - k))

/-- The placement in force: during a migration units stand where they stood before it (R268; log row 21). -/
def State.place (s : State) (a : Nat) : RowAddr :=
  match s.mem.mig with
  | some m => placeWith m.oldDead m.oldPages a
  | none => placeWith s.mem.dead (s.fld Reg.memCapacity 31 0) a

def zeroRemap (_ : Nat) : Word := 0

/-- Entry `e` of a channel's remap table (R261). -/
def State.remapAt (s : State) (ch e : Nat) : Word := Sparse.get zeroRemap s.mem.remap (ch * 256 + e)

/-- The remap entry of a row, by its index (R261). -/
def State.remapFind (s : State) (ch rank bank row : Nat) : Option Nat :=
  (upto 256).find? fun e =>
    let w := s.remapAt ch e
    wfld w 63 63 = 1 ∧ wfld w 23 22 = rank ∧ wfld w 21 18 = bank ∧ wfld w 17 4 = row

/-- Word D2 of a class 0x01 or 0x02 record for a reel address (R456). -/
def State.reelD2 (s : State) (a : Nat) : Nat :=
  let r := s.place a
  let base := r.ch + r.rank * 2 ^ 11 + r.bank * 2 ^ 13 + r.row * 2 ^ 17
  match s.remapFind r.ch r.rank r.bank r.row with
  | some e => base + 2 ^ 31 + wfld (s.remapAt r.ch e) 3 0 * 2 ^ 32
  | none => base

/-! ### LDM words (R43, R44) -/

def Core.word (c : Core) (i : Nat) : Tagged := Sparse.get emptyReg c.ldm i

def Core.setWord (c : Core) (i : Nat) (w : Tagged) : Core := { c with ldm := Sparse.set emptyReg c.ldm i w }

/-- Byte `off` of an LDM. -/
def Core.ldmByte (c : Core) (off : Nat) : Byte := BitVec.ofNat 8 (fld (c.word (off / 8)).pay.toNat (8 * (off % 8) + 7) (8 * (off % 8)))

/-- Byte `off` of an LDM written; the word takes the tag of the kind of write (R44). -/
def Core.setLdmByte (c : Core) (tag : Tag) (off : Nat) (b : Byte) : Core :=
  c.setWord (off / 8) ⟨wsetFld (c.word (off / 8)).pay (8 * (off % 8) + 7) (8 * (off % 8)) b.toNat, tag⟩

/-- An LDM word as the core at a position sees it. -/
def State.ldmWord (s : State) (pos i : Nat) : Tagged := (s.coreAt pos).word i

def State.setLdmWord (s : State) (pos i : Nat) (w : Tagged) : State := s.modCore pos fun c => c.setWord i w

/-! ### Bytes -/

/-- A byte of the tiers. -/
def State.tierByte (s : State) (a : Nat) : Byte := Sparse.get zeroByte s.mem.tiers a

/-- The byte at a place; a hole and a register read as zero here, and every agent checks for them first. -/
def State.byteAt (s : State) : Loc → Byte
  | .tier a => s.tierByte a
  | .ldm pos off => (s.coreAt pos).ldmByte off
  | .host _ hpa => Sparse.get zeroByte s.mem.host hpa
  | .csr _ => 0
  | .hole => 0

/-- A byte stored at a place. -/
def State.setByteAt (s : State) (tag : Tag) (b : Byte) : Loc → State
  | .tier a => { s with mem := { s.mem with tiers := Sparse.set zeroByte s.mem.tiers a b } }
  | .ldm pos off => s.modCore pos fun c => c.setLdmByte tag off b
  | .host _ hpa => { s with mem := { s.mem with host := Sparse.set zeroByte s.mem.host hpa b } }
  | .csr _ => s
  | .hole => s

/-- The byte at a device physical address, seen from core position `own` or from another agent. -/
def State.byte (s : State) (own : Option Nat) (a : Nat) : Byte := s.byteAt (s.locate own a)

/-- `n` bytes from address `a` upwards. -/
def State.bytes (s : State) (own : Option Nat) : Nat → Nat → List Byte
  | _, 0 => []
  | a, n + 1 => s.byte own a :: s.bytes own (a + 1) n

/-- Bytes stored from address `a` upwards, with the tag that LDM words take. -/
def State.setBytes (s : State) (own : Option Nat) (tag : Tag) : Nat → List Byte → State
  | _, [] => s
  | a, b :: bs => (s.setByteAt tag b (s.locate own a)).setBytes own tag (a + 1) bs

/-- The number that `n` bytes from `a` hold. -/
def State.num (s : State) (own : Option Nat) (a n : Nat) : Nat := ofLe (s.bytes own a n)

/-! ### Errors (R45, R247, R250 to R252, R287, R520) -/

/-- The unit of protection at a place in a memory: a 32-byte reel sector, a felt word or an LDM word, named by the address of its first
byte, an LDM word by its physical window (R520). -/
def Loc.unit : Loc → Option Nat
  | .tier a => some (if isFelt a then a / 8 * 8 else a / 32 * 32)
  | .ldm pos off => some (physBase + pos * 2 ^ 18 + off / 8 * 8)
  | _ => none

/-- The caches by their numbers: the L1 of a position, its side buffer, and the L2 of a cluster with its victim buffer. -/
def l1Id (pos : Nat) : Nat := pos
def sideId (pos : Nat) : Nat := 1300 + pos
def l2Id (c : Nat) : Nat := 2600 + c

/-- The unit that stands for a 64-bit word of a line in cache `k` (R278): its address, set apart from the addresses of the memories. -/
def cacheUnit (k a : Nat) : Nat := 2 ^ 56 + k * 2 ^ 49 + a / 8 * 8

/-- The cache of such a unit, and the address of a unit of any kind. -/
def unitCache (u : Nat) : Nat := (u - 2 ^ 56) / 2 ^ 49
def unitAddr (u : Nat) : Nat := u % 2 ^ 49

/-- Bytes of a unit of protection. -/
def unitLen (u : Nat) : Nat := if u < feltBase then 32 else 8

/-- The error a unit holds: 0 none, 1 correctable, 2 uncorrectable, 3 an uncorrectable tag. -/
def State.errAt (s : State) (u : Nat) : Nat := Sparse.get zeroNat s.mem.errs u

/-- The flipped bits of a reel sector's codeword. -/
def State.flipsAt (s : State) (u : Nat) : BitVec 288 := Sparse.get zeroFlips s.mem.flips u

/-- The error of a unit set; the flipped bits of a sector are known to the code alone. -/
def State.setErr (s : State) (u e : Nat) : State :=
  { s with mem := { s.mem with errs := Sparse.set zeroNat s.mem.errs u e, flips := Sparse.set zeroFlips s.mem.flips u 0 } }

/-- The bytes of a reel sector turned over by the data bits of `e`. -/
def State.turnOver (s : State) (u e : Nat) : State :=
  if e % 2 ^ 256 = 0 then s else s.setBytes none 0xE u (leBytes 32 (s.num none u 32 ^^^ e % 2 ^ 256))

/-- Bits of a reel sector's codeword flipped (R250, R251). A word that the decoder takes for another codeword than the one written is that codeword from
here on: the sector then reads as that codeword does, unreported or as corrected, until it is written. -/
def State.flipSector (s : State) (u : Nat) (e : BitVec 288) : State :=
  let w := (s.flipsAt u ^^^ e).toNat
  match rsDecode w with
  | .clean => (s.turnOver u w).setErr u 0
  | .fixed c =>
    let s := (s.turnOver u (w ^^^ c)).setErr u 1
    { s with mem := { s.mem with flips := Sparse.set zeroFlips s.mem.flips u (BitVec.ofNat 288 c) } }
  | .failed =>
    let s := s.setErr u 2
    { s with mem := { s.mem with flips := Sparse.set zeroFlips s.mem.flips u (BitVec.ofNat 288 w) } }

/-- The error that the outside world reports put into the unit at a place. A word of 64 bits corrects one flipped bit (R45, R247). -/
def State.plant (s : State) (l : Loc) (e : ErrKind) : State :=
  match l.unit, e with
  | some u, .corrected => if s.errAt u = 2 then s else s.setErr u 1
  | some u, .uncorrectable => s.setErr u 2
  | some u, .flips b =>
    if u < feltBase then (if s.errAt u = 2 ∧ s.flipsAt u = 0 then s else s.flipSector u b)
    else
      let n := s.errAt u + popCount 288 b.toNat
      s.setErr u (min n 2)
  | _, _ => s

/-- Does the code of the unit fail to correct it? With DETONLY = 1 the sector code corrects nothing (R251). -/
def State.isBad (s : State) (u : Nat) : Bool :=
  decide (2 ≤ s.errAt u) || (s.errAt u = 1 && decide (u < feltBase) && s.bit (Reg.memEcc ((s.place u).ch / 64)) 0)

end Sys2Proof.Machine
end

