-- ==== Sys2Proof/Machine/LeafDecode.lean ====
section
/-! DEFINITION. Decoding a leaf: header, syllables, operations and their extensions, issue limits, and the encoding checks of R54,
R135 and R175 with the syndrome of R527 (R48 to R54, R59 to R64, R70, R75, R79, R124 to R135, R145, R146, R158 to R175). -/

namespace Sys2Proof.Machine

/-- An operation of a leaf: its syllable, class, the payload `[9:0]` of the operation syllable and of its extensions. -/
structure Op where
  syl : Nat
  cls : Nat
  f : Nat
  e1 : Nat
  e2 : Nat
  e3 : Nat
  e4 : Nat
  deriving DecidableEq, Repr

/-- A violation found in a leaf: syllable and SYND.KIND (R54, R527). -/
structure Viol where
  syl : Nat
  kind : Nat
  deriving DecidableEq, Repr

/-- A decoded leaf: its operations in syllable order, the violations that the encoding alone shows, and its literal. -/
structure Leaf where
  pad : Bool
  halt : Bool
  ops : List Op
  viols : List Viol
  lit : Word
  deriving DecidableEq, Repr

/-- Syllable `k` of a leaf (R48). -/
def sylAt (w k : Nat) : Nat := fld w (14 * k + 17) (14 * k + 4)

/-- Both parity bits hold (R49). -/
def parityOk (w : Nat) : Bool :=
  (fld w 1 1 + popCount 126 (fld w 129 4)) % 2 = 0 && (fld w 0 0 + popCount 126 (fld w 255 130)) % 2 = 0

def hi5 (x : Nat) : Nat := x / 32 % 32
def lo5 (x : Nat) : Nat := x % 32

/-- Opcode of an operation: `[4:0]` in classes 0x1 to 0x3 and 0x5, `[9:5]` in the others. -/
def Op.opc (o : Op) : Nat := if o.cls ≤ 3 ∨ o.cls = 5 then lo5 o.f else hi5 o.f

/-- The other register field of the operation syllable. -/
def Op.r (o : Op) : Nat := if o.cls ≤ 3 ∨ o.cls = 5 then hi5 o.f else lo5 o.f

/-- Number of extension syllables of an opcode; none when the opcode or class is reserved (R50). -/
def extCount (cls op : Nat) : Option Nat :=
  match cls with
  | 1 => if op < 0x18 then some 1 else none
  | 2 => if op < 0x0A then some 2 else none
  | 3 => if op = 0x09 ∨ op = 0x15 then some 2 else if op = 0x0F ∨ 0x1E ≤ op then none else some 1
  | 4 => if op ≤ 3 then some 2 else if op ≤ 5 then some 0 else if op ≤ 7 then some 1 else if op ≤ 9 then some 2
         else if op ≤ 0x0B then some 1 else if op = 0x0C then some 0 else none
  | 5 => if op ≤ 9 then some 2 else if 0x0C ≤ op ∧ op ≤ 0x0E then some 1 else if 0x10 ≤ op ∧ op ≤ 0x14 then some 2
         else if op = 0x1D then some 2 else if 0x18 ≤ op then some 1 else none
  | 6 => if op = 0x03 ∨ op = 0x0F ∨ op = 0x17 then some 4 else some 3
  | 7 => if op ≤ 7 then some 3 else none
  | 8 => if op = 2 ∨ op = 3 ∨ op = 6 then some 0 else if op ≤ 8 then some 1 else none
  | 9 => if op = 0 then some 1 else if op = 1 then some 2 else none
  | 0xA => if op ≤ 3 then some 1 else none
  | 0xB => if op ≤ 2 ∨ op = 4 then some 1 else if op = 3 ∨ op = 5 then some 0 else none
  | _ => none

/-- Opcode of a raw operation syllable. -/
def rawOpc (sy : Nat) : Nat := if sy / 1024 ≤ 3 ∨ sy / 1024 = 5 then lo5 sy else hi5 sy

/-- What the syllables of a leaf hold: whole operations, the last operation when the leaf has no room for all its extensions, with the number
of those present, and the violations that the scan finds. -/
structure Scan where
  ops : List Op
  short : Option (Op × Nat)
  viols : List Viol
  deriving DecidableEq, Repr

/-- The operations and violations of syllables `k` and up, below `limit` (R50, R54). -/
def scan (w limit : Nat) : Nat → Nat → Scan
  | 0, _ => ⟨[], none, []⟩
  | n + 1, k =>
    if limit ≤ k then ⟨[], none, []⟩
    else
      let sy := sylAt w k
      let cls := sy / 1024
      if cls = 0 then
        let r := scan w limit n (k + 1)
        { r with viols := if sy = 0 then r.viols else ⟨k, 3⟩ :: r.viols }
      else
        match extCount cls (rawOpc sy) with
        | none =>
          let r := scan w limit n (k + 1)
          { r with viols := ⟨k, 2⟩ :: r.viols }
        | some x =>
          let here := min x (limit - k - 1)
          let e (i : Nat) : Nat := if i < here then sylAt w (k + 1 + i) % 1024 else 0
          let o : Op := ⟨k, cls, sy % 1024, e 0, e 1, e 2, e 3⟩
          let bad := (upto here).filterMap fun i => if sylAt w (k + 1 + i) / 1024 = 0 then none else some (⟨k + 1 + i, 3⟩ : Viol)
          if here < x then ⟨[], some (o, here), ⟨k, 3⟩ :: bad⟩
          else
            let r := scan w limit n (k + 1 + x)
            { r with ops := o :: r.ops, viols := bad ++ r.viols }

/-! ### Fields of vector, tile and matrix operations -/

/-- Element count N (R127). -/
def Op.vn (o : Op) : Nat := o.f % 4 * 1024 + o.e1 + 1
/-- ET (R126). -/
def Op.et (o : Op) : Nat := o.f / 4 % 8
def Op.vd (o : Op) : Nat := hi5 o.e2
def Op.va (o : Op) : Nat := lo5 o.e2
def Op.vb (o : Op) : Nat := hi5 o.e3
def Op.vs (o : Op) : Bool := bitAt o.e3 4
def Op.vme (o : Op) : Bool := bitAt o.e3 3
def Op.vm (o : Op) : Nat := o.e3 % 8
def Op.vc (o : Op) : Nat := hi5 o.e4

/-- Element size in bits of an ET or destination format code (R126). -/
def etSize (et : Nat) : Nat :=
  match et with
  | 0 | 4 => 64
  | 1 | 5 => 32
  | 2 | 3 | 6 => 16
  | _ => 8

/-- Longest count for an element size (R126). -/
def etLongest (size : Nat) : Nat := if size = 64 then 1024 else if size = 32 then 2048 else 4096

def etFloat (et : Nat) : Bool := et < 4

/-- The ET of twice the width, for vwmul and vwfma (R140). -/
def wideEt (et : Nat) : Nat :=
  match et with
  | 1 => 0
  | 2 | 3 => 1
  | 5 => 4
  | 6 => 5
  | _ => 6

/-- Destination ET of vdot (R140). -/
def dotEt (et : Nat) : Nat := if et ≤ 3 then 1 else if et = 6 then 4 else 5

/-- A register group: its base register and how many registers it spans (R124). -/
structure Group where
  base : Nat
  len : Nat
  deriving DecidableEq, Repr

def group (base size n : Nat) : Group := ⟨base, cdiv (n * size) 4096⟩

def Group.overlaps (a b : Group) : Bool := decide (a.base < b.base + b.len) && decide (b.base < a.base + a.len)

/-- Element size of the index group of a gather or scatter (R146). -/
def Op.ixSize (o : Op) : Nat := if o.vs then 64 else 32

/-- The vector register groups that an operation writes. -/
def Op.vdst (o : Op) : List Group :=
  let n := o.vn
  let sz := etSize o.et
  if o.cls = 6 then
    match o.opc with
    | 0x0F => []
    | 0x12 | 0x13 => [group o.vd (etSize o.vb) n]
    | 0x14 | 0x15 => [group o.vd (etSize (wideEt o.et)) n]
    | 0x16 => [group o.vd (etSize (dotEt o.et)) (if etFloat o.et then cdiv n 2 else cdiv n 4)]
    | 0x18 | 0x19 => [⟨o.vd, 1⟩]
    | 0x1E => if o.vb = 7 then [group o.vd (etSize o.vm) n] else []
    | 0x1F => []
    | _ => [group o.vd sz n]
  else if o.cls = 7 ∧ o.opc ≤ 2 then [group o.vd sz n]
  else []

/-- The vector register groups that an operation reads. -/
def Op.vsrc (o : Op) : List Group :=
  let n := o.vn
  let sz := etSize o.et
  let a := group o.va sz n
  let b := if o.vs then [] else [group o.vb sz n]
  if o.cls = 6 then
    match o.opc with
    | 0x03 => [a] ++ b ++ [group o.vc sz n]
    | 0x07 | 0x0E | 0x12 | 0x18 | 0x19 | 0x1A | 0x1B | 0x1C | 0x1F => [a]
    | 0x11 => if o.vs then [] else [a]
    | 0x13 => [group o.va 8 n]
    | 0x15 => [a] ++ b ++ o.vdst
    | 0x16 => [a] ++ b ++ o.vdst
    | 0x17 => [group o.va 32 n, group o.vd sz n]
    | 0x1D | 0x1E => []
    | _ => [a] ++ b
  else if o.cls = 7 then
    (if 4 ≤ o.opc ∧ o.opc ≤ 6 then [group o.vd sz n] else []) ++
      (if o.opc = 2 ∨ o.opc = 6 then [group o.vb o.ixSize n] else [])
  else []

/-- The mask registers that an operation reads (R125, R129, R133). -/
def Op.msrc (o : Op) : List Nat :=
  if o.cls = 6 then
    if o.opc = 0x1E then
      (if o.vb < 7 then [o.va % 8] else []) ++ (if o.vb < 4 then [o.vm] else [])
    else if o.vme then [o.vm] else []
  else if o.cls = 7 then (if o.vme then [o.vm] else []) ++ (if o.opc = 7 then [o.vd % 8] else [])
  else []

/-- The mask registers that an operation writes. -/
def Op.mdst (o : Op) : List Nat :=
  if o.cls = 6 then
    if o.opc = 0x0F then [o.vd % 8] else if o.opc = 0x1E ∧ o.vb ≤ 4 then [o.vd % 8] else []
  else if o.cls = 7 ∧ o.opc = 3 then [o.vd % 8]
  else []

/-- Does ET suit the operation (R132)? -/
def etAllowed (op et : Nat) : Bool :=
  match op with
  | 0x06 | 0x07 => et < 4
  | 0x0B | 0x0C | 0x0D => 4 ≤ et
  | 0x13 => et ≤ 1
  | 0x14 | 0x15 => et ≠ 0 && et ≠ 4
  | 0x16 => et = 2 || et = 3 || et = 6 || et = 7
  | 0x17 => et = 2 || et = 3
  | 0x1D => et = 1
  | _ => true

/-- Has the vector operation a reserved sub-op, compare kind or destination format code (R135, KIND 2)? An integer destination of vcvtf8 counts as
reserved (log row 135). -/
def Op.vReserved (o : Op) : Bool :=
  if o.cls ≠ 6 then false
  else
    match o.opc with
    | 0x0E => 1 < o.vb
    | 0x0F => o.e4 / 128 = 7
    | 0x12 => 9 < o.vb
    | 0x13 => !(o.vb < 4 || o.vb = 8 || o.vb = 9)
    | 0x19 => 3 < o.vb
    | 0x1E => 7 < o.vb
    | _ => false

/-- Is a field that a table marks 0, S, ME or m outside what the tables allow (R129, R130, R132, R133, R135)? The tables mark neither S nor vb of vcompress and
vexpand, which are accepted and ignored (log row 135). -/
def Op.vFields (o : Op) : Bool :=
  if o.cls = 6 then
    let s0 := o.vs
    let op := o.opc
    -- the fixed zero bits of extension 4
    (op = 0x0F && o.e4 % 128 ≠ 0) || ((op = 0x03 || op = 0x17) && lo5 o.e4 ≠ 0) ||
    -- m without a mask
    (!o.vme && o.vm ≠ 0 && op ≠ 0x1E) ||
    (match op with
    | 0x07 => o.vb ≠ 0 || s0
    | 0x0E => s0
    | 0x0F => let k := o.e4 / 128; 7 < o.vd || ((k = 4 || k = 5) && etFloat o.et) || (k = 6 && !etFloat o.et)
    | 0x10 => !o.vme
    | 0x11 => if s0 then o.va ≠ 0 else o.vb ≠ 0
    | 0x12 | 0x13 => s0
    | 0x19 => s0 || ((o.vb = 2 || o.vb = 3) && etFloat o.et)
    | 0x17 => !s0
    | 0x18 => o.vb ≠ 0 || s0
    | 0x1A | 0x1B => !o.vme
    | 0x1C => !s0
    | 0x1D => 3 < o.va || o.vb ≠ 0 || s0
    | 0x1E => s0 || o.vme || o.et ≠ 0 ||
      (if o.vb ≤ 3 then 7 < o.vd || 7 < o.va
       else if o.vb = 4 then 7 < o.vd || 7 < o.va || o.vm ≠ 0
       else if o.vb ≤ 6 then 7 < o.va || o.vm ≠ 0
       else o.va ≠ 0 || o.vm < 4)
    | 0x1F => !s0 || o.vme
    | _ => false)
  else
    (!o.vme && o.vm ≠ 0) ||
    (match o.opc with
    | 0 | 4 => o.vb ≠ 0 || o.vs
    | 1 | 5 => o.vs
    | 2 | 6 => false
    | _ => o.vb ≠ 0 || o.vs || o.vme || o.et ≠ 0 || 7 < o.vd)

/-- Is the group shape of the operation outside R135: a count too long, a group past v31, overlaps, a forbidden identity, N? -/
def Op.vShape (o : Op) : Bool :=
  let dst := o.vdst
  let src := o.vsrc
  let n := o.vn
  let sizes : List (Nat × Nat) :=
    if o.cls = 6 then
      match o.opc with
      | 0x12 => [(etSize o.et, n), (etSize o.vb, n)]
      | 0x13 => [(8, n), (etSize o.vb, n)]
      | 0x14 | 0x15 => [(etSize o.et, n), (etSize (wideEt o.et), n)]
      | 0x16 => [(etSize o.et, n), (etSize (dotEt o.et), if etFloat o.et then n / 2 else n / 4)]
      | 0x17 => [(etSize o.et, n), (32, n)]
      | 0x1E => if o.vb = 7 then [(etSize o.vm, n)] else []
      | _ => [(etSize o.et, n)]
    else
      (if o.opc = 3 ∨ o.opc = 7 then [] else [(etSize o.et, n)]) ++ (if o.opc = 2 ∨ o.opc = 6 then [(o.ixSize, n)] else [])
  let all := dst ++ src
  sizes.any (fun p => etLongest p.1 < p.2) ||
  all.any (fun g => 32 < g.base + g.len) ||
  (dst.any fun d => src.any fun x => d.overlaps x && d ≠ x) ||
  (src.any fun d => src.any fun x => d.overlaps x && d ≠ x) ||
  (o.cls = 6 &&
    (match o.opc with
    | 0x14 | 0x1A | 0x1B | 0x1C => dst.any (· ∈ src)
    | 0x15 | 0x16 => dst.any fun d => (src.take (src.length - dst.length)).contains d
    | 0x17 => dst.any fun d => decide (group o.va 32 n = d)
    | _ => false)) ||
  (o.cls = 7 && (o.opc = 2) && dst.any (· ∈ src)) ||
  (o.cls = 6 && o.opc = 0x16 && (if etFloat o.et then n % 2 ≠ 0 else n % 4 ≠ 0)) ||
  (o.cls = 6 && o.opc = 0x1D && 1024 < n)

/-- Tiles that a tile or matrix operation names (R165, R170). -/
def Op.tiles (o : Op) : List Nat :=
  if o.cls = 8 then (if o.opc ≤ 3 then [o.f / 4 % 8] else [])
  else if o.cls = 9 then [o.e1 / 128, o.e1 / 16 % 8] ++ (if o.opc = 1 then [o.e2 / 128] else [])
  else []

/-- Banks that a tile or matrix operation names. -/
def Op.banks (o : Op) : List Nat :=
  if o.cls = 8 then (if 4 ≤ o.opc then [o.f / 4 % 4] else [])
  else if o.cls = 9 then
    (if o.opc = 1 then [b2n (bitAt o.e1 3), 2 + b2n (bitAt o.e1 2)] else [o.e1 / 4 % 4])
  else []

/-- Is a field that R165 or R170 marks 0 not zero? -/
def Op.tFields (o : Op) : Bool :=
  if o.cls = 8 then
    o.f % 4 ≠ 0 || (4 ≤ o.opc && bitAt o.f 4) || (o.opc = 7 && o.e1 / 2 % 16 ≠ 0) || (o.opc = 8 && lo5 o.e1 ≠ 0)
  else o.f % 2 ≠ 0 || o.e1 % 4 ≠ 0 || (o.opc = 1 && o.e2 % 128 ≠ 0)

/-- Scalar registers that a tile operation reads as rb or rs. -/
def Op.tRegs (o : Op) : List Nat :=
  if o.cls = 8 then
    if o.opc ≤ 1 ∨ o.opc = 4 ∨ o.opc = 5 then [hi5 o.e1, lo5 o.e1] else if o.opc = 8 then [hi5 o.e1] else []
  else []

/-! ### Registers that operations read and write -/

def isString (o : Op) : Bool := o.cls = 5 && 0x0C ≤ o.opc && o.opc ≤ 0x0E
def isLoad (o : Op) : Bool := o.cls = 5 && o.opc ≤ 9
def isStore (o : Op) : Bool := o.cls = 5 && 0x10 ≤ o.opc && o.opc ≤ 0x14
def isAmo (o : Op) : Bool := o.cls = 5 && 0x18 ≤ o.opc

/-- Scalar registers that an operation reads. -/
def Op.reads (o : Op) : List Nat :=
  match o.cls with
  | 1 => if o.opc ≤ 0x14 then [hi5 o.e1, lo5 o.e1] else [hi5 o.e1]
  | 2 => if o.opc = 8 then [] else [hi5 o.e1]
  | 3 =>
    match o.opc with
    | 0x08 | 0x0A | 0x0B | 0x0C | 0x0E | 0x14 | 0x1B | 0x1C | 0x1D => [hi5 o.e1]
    | 0x09 | 0x15 => [hi5 o.e1, lo5 o.e1, hi5 o.e2]
    | 0x0D => []
    | _ => [hi5 o.e1, lo5 o.e1]
  | 4 => if o.opc = 1 ∨ o.opc = 2 ∨ (4 ≤ o.opc ∧ o.opc ≤ 7) then [o.r] else []
  | 5 =>
    if isLoad o then [hi5 o.e1]
    else if isString o then [o.r, hi5 o.e1, lo5 o.e1]
    else if isStore o then [hi5 o.e1, o.r]
    else [hi5 o.e1, lo5 o.e1] ++ (if o.opc = 0x1D then [hi5 o.e2] else [])
  | 6 => (if o.vs ∧ o.opc ≠ 0x1A ∧ o.opc ≠ 0x1B then [o.vb] else []) ++ (if o.opc = 0x17 then [o.vc] else [])
  | 7 => [o.va] ++ (if o.opc = 1 ∨ o.opc = 5 then [o.vb] else [])
  | 8 => o.tRegs
  | 0xA => if o.opc ≤ 2 then [o.r] else []
  | 0xB => if o.opc = 1 ∨ o.opc = 4 then [o.r] else []
  | _ => []

/-- Scalar registers that an operation writes. -/
def Op.writes (o : Op) : List Nat :=
  match o.cls with
  | 1 | 2 | 3 => [o.r]
  | 4 => if o.opc = 3 ∨ o.opc = 5 then [30] else []
  | 5 =>
    if isLoad o || isAmo o then [o.r]
    else if isString o then [o.r, lo5 o.e1] ++ (if o.opc = 0x0C then [hi5 o.e1] else [])
    else []
  | 6 => if o.opc = 0x1F ∨ (o.opc = 0x1E ∧ (o.vb = 5 ∨ o.vb = 6)) then [o.vd] else []
  | 8 => if o.opc = 7 then [hi5 o.e1] else []
  | 0xA => if o.opc = 3 then [o.r] else []
  | 0xB => if o.opc = 0 then [o.r] else []
  | _ => []

/-- Special registers that an operation writes (R66, R75, R81). -/
def Op.swrites (o : Op) : List Nat :=
  match o.cls with
  | 4 => if o.opc = 6 ∨ o.opc = 8 then [0x30, 0x31, 0x32] else if o.opc = 7 ∨ o.opc = 9 then [0x34, 0x35, 0x36] else []
  | 0xA => if o.opc = 2 then [0x40 + o.e1 / 128] else []
  | 0xB => if o.opc = 1 then [o.e1] else []
  | _ => []

/-- A scalar register number as `Op.allWrites` lists it. -/
def writeName (priv : Bool) (r : Nat) : Nat := if r = 31 then 0x1000 + (if priv then 4 else 6) else r

/-- Registers written by an operation, scalar and special, with s31 as the register it names at the privilege (R38): numbers from
0x1000 are special registers. -/
def Op.allWrites (priv : Bool) (o : Op) : List Nat :=
  o.writes.map (writeName priv) ++ o.swrites.map (0x1000 + ·)

/-! ### Checks of the encoding -/

/-- Tag codes that settag and ldl may name (R62). -/
def tagCode (t : Nat) : Bool := t ≤ 6 || t = 0xE || t = 0xF

/-- The KIND of an operand code or a field that the opcode tables refuse (R54, R59 to R64, R70 to R79, R135, R175). -/
def Op.fieldViol (long : Bool) (o : Op) : List Nat :=
  let six (b : Bool) : List Nat := if b then [6] else []
  let two (b : Bool) : List Nat := if b then [2] else []
  match o.cls with
  | 1 => six (0x15 ≤ o.opc && lo5 o.e1 ≠ 0)
  | 2 => six ((4 ≤ o.opc && o.opc ≤ 6) && (lo5 o.e1 * 1024 + o.e2) / 64 ≠ 0) ++ six (o.opc = 8 && hi5 o.e1 ≠ 0)
  | 3 =>
    six ([0x08, 0x0A, 0x0B, 0x0E, 0x14, 0x1C, 0x1D].contains o.opc && lo5 o.e1 ≠ 0) ++
    six ((o.opc = 0x09 || o.opc = 0x15) && lo5 o.e2 ≠ 0) ++
    two ((o.opc = 0x0C || o.opc = 0x0D) && !tagCode (lo5 o.e1)) ++
    six (o.opc = 0x0D && (hi5 o.e1 ≠ 0 || !long)) ++
    two (o.opc = 0x1B && 3 < lo5 o.e1)
  | 4 => six (([0, 3, 8, 9, 0xA, 0xB, 0xC].contains o.opc) && o.r ≠ 0)
  | 6 => two o.vReserved ++ six (!etAllowed o.opc o.et || o.vFields || o.vShape)
  | 7 => six (o.vFields || o.vShape)
  | 8 => six o.tFields
  | 9 => two (o.f / 4 % 8 = 7) ++ six o.tFields
  | 0xA => six (o.e1 % 128 ≠ 0)
  | 0xB =>
    six (o.opc = 2 && o.e1 / 4 ≠ 0) ++ six ((o.opc = 3 || o.opc = 5) && o.r ≠ 0) ++ six (o.opc = 4 && o.e1 / 16 ≠ 0) ++
    two (o.opc = 4 && (let c := o.e1 % 16; (5 ≤ c && c ≤ 7) || 0xD ≤ c))
  | _ => []

/-- The unit that R53 admits once per leaf among scalar ALU operations: multiplier, divider or floating unit. -/
def usesMulFp (o : Op) : Bool :=
  (o.cls = 1 && 8 ≤ o.opc && o.opc ≤ 0xE) || (o.cls = 2 && o.opc = 7) || (o.cls = 3 && 0x10 ≤ o.opc)

/-- The operation syllables beyond a limit of R53: `cost` counts towards it, and at most `max` are allowed. -/
def beyond (cost : Op → Nat) (max : Nat) : Nat → List Op → List Nat
  | _, [] => []
  | used, o :: os =>
    let u := used + cost o
    (if max < u ∧ 0 < cost o then [o.syl] else []) ++ beyond cost max u os

/-- The operations beyond the issue limits (R53). -/
def limitViols (ops : List Op) : List Viol :=
  let one (p : Op → Bool) : Op → Nat := fun o => if p o then 1 else 0
  (beyond (one fun o => o.cls ≤ 3) 2 0 ops ++ beyond (one usesMulFp) 1 0 ops ++
    beyond (fun o => if isString o then 2 else if o.cls = 5 then 1 else 0) 2 0 ops ++
    ([4, 6, 7, 8, 9, 0xA, 0xB].flatMap fun c => beyond (one fun o => o.cls = c) 1 0 ops) ++
    beyond (fun _ => 1) 11 0 ops).map fun k => ⟨k, 4⟩

/-- Operations that write a register which an operation of a lower syllable writes (R54, KIND 5). -/
def twiceViols (priv : Bool) : List Op → List Nat → List Viol
  | [], _ => []
  | o :: os, seen =>
    (if o.allWrites priv |>.any (seen.contains ·) then [⟨o.syl, 5⟩] else []) ++ twiceViols priv os (seen ++ o.allWrites priv)

/-- The rules of R175 that join a leaf's operations. -/
def tileViols (priv : Bool) (ops : List Op) : List Viol :=
  ops.flatMap fun o =>
    if o.cls = 8 then
      let clash := ops.any fun q => q.cls = 9 && ((q.tiles.any (o.tiles.contains ·)) || (q.banks.any (o.banks.contains ·)))
      let regs := o.tRegs.map (writeName priv)
      let moved := ops.any fun q => q.syl ≠ o.syl && (q.allWrites priv).any (regs.contains ·)
      (if clash || moved then [⟨o.syl, 6⟩] else [])
    else if o.cls = 0xB ∧ o.opc = 1 ∧ 0x20 ≤ o.e1 ∧ o.e1 ≤ 0x27 then
      if ops.any fun q => q.tiles.contains (o.e1 - 0x20) then [⟨o.syl, 6⟩] else []
    else []

/-- What an operation that lacks extensions shows of the tiles, banks and registers it names, with `n` extensions present: none where a
missing extension would name them. An mmul2 with one extension names its tiles but ta1 (R170). -/
def Op.seen (o : Op) (n : Nat) : List Op :=
  if o.cls = 9 ∧ o.opc = 1 ∧ n = 1 then [{ o with e2 := o.e1 / 128 * 128 }]
  else if (o.cls = 9 && n = 0) || o.cls = 6 || (o.cls = 8 && o.opc = 7) || (o.cls = 0xB && o.opc = 1) then []
  else if isString o then [{ o with f := o.r * 32 + 6 }]
  else [o]

/-- The violations of R54, R175 and R527 that an operation without all its extensions shows or takes part in, its missing extensions apart. -/
def shortViols (priv : Bool) (ops : List Op) (o : Op) (n : Nat) : List Viol :=
  (if o.cls = 9 ∧ o.f / 4 % 8 = 7 then [⟨o.syl, 2⟩] else []) ++ ((ops.filter isString).map fun x => ⟨x.syl, 6⟩) ++
    tileViols priv (ops ++ o.seen n)

/-- A leaf decoded at a privilege (R49 to R54). Parity is judged at fetch (R47). A syllable with a reserved class or opcode is no other operation beside a string
operation (log row 173). -/
def decodeLeaf (priv : Bool) (bits : BitVec 256) : Leaf :=
  let w := bits.toNat
  let fmt := fld w 3 2
  let none' : Leaf := ⟨false, false, [], [⟨0, 2⟩], 0⟩
  if fmt = 2 then none'
  else if fmt = 3 then
    if w / 16 = 0 then ⟨true, false, [], [], 0⟩
    else if sylAt w 0 = 0x3FFF ∧ w / 2 ^ 18 = 0 then ⟨false, true, [], [], 0⟩
    else none'
  else
    let long := fmt = 1
    let r := scan w (if long then 13 else 18) 18 0
    let ops := r.ops
    let short := match r.short with
      | some (o, n) => shortViols priv ops o n
      | none => []
    let field := ops.flatMap fun o => (o.fieldViol long).map fun k => (⟨o.syl, k⟩ : Viol)
    let str := if ops.any isString ∧ 1 < ops.length then (ops.filter isString).map fun o => (⟨o.syl, 6⟩ : Viol) else []
    let top := if long ∧ fld w 255 250 ≠ 0 then [(⟨17, 3⟩ : Viol)] else []
    { pad := false, halt := false, ops := ops
      viols := r.viols ++ field ++ limitViols ops ++ twiceViols priv ops [] ++ tileViols priv ops ++ short ++ str ++ top
      lit := BitVec.ofNat 64 (fld w 249 186) }

/-- The violation that the device reports: lowest SYL, then lowest KIND (R527). -/
def firstViol : List Viol → Option Viol
  | [] => none
  | v :: vs =>
    match firstViol vs with
    | none => some v
    | some u => if u.syl < v.syl ∨ (u.syl = v.syl ∧ u.kind < v.kind) then some u else some v

end Sys2Proof.Machine
end

