-- ==== Sys2Proof/Config.lean ====
section
/-! DEFINITION. What the manual leaves open: free values, fixed data of the boot ROM and of the factory, and random draws. None
has a body, so that nothing in Lean can learn a value of one (assumption log, row 5). -/

namespace Sys2Proof.Config

/-- A word that the manual leaves open, by the number of the draw. -/
opaque freeWord : Nat → Word

/-- The signature that the boot ROM expects of self-test slice `k` (R448). -/
opaque bistSig : Nat → Word

/-- The contents the factory gave the module: serial number (R474). -/
opaque serial : Word

/-- The version of the boot ROM, and its SHA-384 (R364, R476). -/
opaque romVersion : BitVec 32
opaque romDigest : List Byte

/-- The public keys in the boot ROM: firmware keys 0 and 1, and the debug key (R465, R493), as 97-byte points. -/
opaque fwKey : Nat → List Byte
opaque debugKey : List Byte

/-- The device's identity: secret key and certificates (R474, R475). -/
opaque devIdSecret : Nat
opaque rootCert : List Byte
opaque deviceCaCert : List Byte
opaque devIdCert : List Byte

/-- The bytes of an Alias certificate for a serial number, a public key and MEAS7 (R475): the manual gives no encoding. -/
opaque aliasCert : (debug : Bool) → Word → List Byte → List Byte → List Byte

/-- Random bytes of the security block: draw `n`, byte `i` (R481, R493). -/
opaque random : (n i : Nat) → Byte

/-- The body of an SPDM response whose layout the SPDM and IDE standards own (R379, R380): message (0 a refusal), what the manual has the response
carry, request body, draw. -/
opaque spdmBody : (msg : Nat) → (data body : List Byte) → (draw : Nat) → List Byte

/-- What the SPDM standard lays out of a session (R380): the requester's ECDHE share in KEY_EXCHANGE, its proof in FINISH, and the keys and nonce bases that
the key schedule gives, from the shared secret and the transcript: 0 the finish key, 1 and 2 the request and response keys, 3 and 4 their nonce bases. -/
opaque spdmShare : List Byte → List Byte
opaque spdmProof : List Byte → List Byte
opaque spdmKey : (secret trans : List Byte) → (which : Nat) → List Byte

/-- Configuration space by 4-byte word: what it holds that the host cannot write, and the bits that it can (R361). -/
opaque confWord : Nat → BitVec 32
opaque confMask : Nat → BitVec 32

/-- The base of the HDM decoder from the written words of its capability (R359, R361). -/
opaque hdmDecoder : List (Nat × Word) → Nat

/-- The arguments and the bytes that a management request carries, by its CMD, where R487 names them and gives no layout. -/
opaque mgmtArgs : (cmd : Nat) → List Byte → List Nat
opaque mgmtBytes : (cmd : Nat) → List Byte → List Byte

/-- The payload of a management response, by its CMD, where R487 names what it returns and gives no layout. -/
opaque mgmtReply : (cmd : Nat) → List Nat → List Byte → List Byte

/-- The answer of the management port to an ARP request or an ICMP echo, from the request, the MAC address and the IPv4 address (R478). -/
opaque netReply : (icmp : Bool) → (body mac : List Byte) → (addr : Nat) → List Byte

/-- What the JTAG port shifts out for an instruction code when it is not locked, and the IDCODE word (R493). -/
opaque jtagData : (code draw : Nat) → Word
opaque jtagIdcode : BitVec 32

/-- The instruction codes of IDCODE and BYPASS: the manual names the two instructions and gives no code (R493). -/
opaque jtagIdcodeCode : Nat
opaque jtagBypassCode : Nat

/-- The features the tender firmware enables, of bits 0 to 5 (R366). -/
opaque fwFeatures : BitVec 6

end Sys2Proof.Config
end

