-- ==== Sys2Proof/Machine/Crypto.lean ====
section
/-! DEFINITION. The algorithms that the manual names and other standards define: SHA-384 and HMAC-SHA-384, ECDSA and ECDH over
P-384, and AES-256-GCM (R380, R464, R475, R479, R482, R483; assumption log, row 6). -/

namespace Sys2Proof.Machine

/-- The number that bytes hold, most significant first, as the crypto standards order them. -/
def ofBe (bs : List Byte) : Nat := bs.foldl (fun a b => a * 256 + b.toNat) 0

/-- `n` bytes of a number, most significant first. -/
def beBytes (n x : Nat) : List Byte := (leBytes n x).reverse

/-! ### SHA-384

The constants come from their definition, the leading 64 bits of the fraction of roots of primes; a block is worked through with a window of sixteen
schedule words, in which each round uses the oldest and puts a new one behind the newest. -/

/-- The largest number below 2^n, added to `r`, whose power does not exceed `t`. -/
def rootBits (pow : Nat → Nat) (t : Nat) : Nat → Nat → Nat
  | 0, r => r
  | n + 1, r => rootBits pow t n (if pow (r + 2 ^ n) ≤ t then r + 2 ^ n else r)

/-- The first 80 primes. -/
def shaPrimes : List Nat := (upto 410).filter fun n => 2 ≤ n && [2, 3, 5, 7, 11, 13, 17, 19].all fun d => n == d || n % d != 0

/-- The round constant of a prime: its cube root. -/
def shaRoundWord (p : Nat) : Word := BitVec.ofNat 64 (rootBits (fun x => x * x * x) (p * 2 ^ 192) 67 0)

/-- The chaining values before the first block: the square roots of the ninth to the sixteenth prime. -/
def sha384Init : List Word := ((shaPrimes.drop 8).take 8).map fun p => BitVec.ofNat 64 (rootBits (fun x => x * x) (p * 2 ^ 128) 67 0)

/-- The exclusive or of a word rotated by each amount and shifted by one. -/
def stirred (x : Word) (turns : List Nat) (shift : Nat) : Word := turns.foldl (fun y r => y ^^^ x.rotateRight r) (x >>> shift)

/-- A block at work: the window of schedule words, oldest first, and the eight chaining values. -/
structure ShaWork where
  win : List Word
  chain : List Word
  deriving DecidableEq, Repr

/-- One round with the constant of a prime. -/
def ShaWork.turn (q : ShaWork) (p : Nat) : ShaWork :=
  let w (i : Nat) : Word := q.win.getD i 0
  let c (i : Nat) : Word := q.chain.getD i 0
  let pick := c 6 ^^^ (c 4 &&& (c 5 ^^^ c 6))
  let most := (c 2 &&& (c 0 ||| c 1)) ||| (c 0 &&& c 1)
  let mid := shaRoundWord p + w 0 + c 7 + pick + stirred (c 4) [41, 14, 18] 64
  { win := q.win.drop 1 ++ [stirred (w 14) [61, 19] 6 + w 9 + stirred (w 1) [8, 1] 7 + w 0]
    chain := (mid + most + stirred (c 0) [39, 28, 34] 64) :: q.chain.take 3 ++ (c 3 + mid) :: (q.chain.drop 4).take 3 }

/-- The chaining values after a block of 128 bytes. -/
def shaAbsorb (h : List Word) (blk : List Byte) : List Word :=
  let q : ShaWork := ⟨(upto 16).map fun i => BitVec.ofNat 64 (ofBe ((blk.drop (8 * i)).take 8)), h⟩
  List.zipWith (· + ·) (shaPrimes.foldl ShaWork.turn q).chain h

/-- A message with its end: a one bit, zeros, and the length in bits in the last 16 bytes of the last block. -/
def shaPadded (m : List Byte) : List Byte :=
  let blocks := (m.length + 17 + 127) / 128
  m ++ 0x80 :: List.replicate (128 * blocks - m.length - 17) 0 ++ beBytes 16 (8 * m.length)

/-- SHA-384: six of the eight chaining values after the last block. -/
def sha384 (m : List Byte) : List Byte :=
  let p := shaPadded m
  let last := (upto (p.length / 128)).foldl (fun h k => shaAbsorb h ((p.drop (128 * k)).take 128)) sha384Init
  (last.take 6).flatMap fun w => beBytes 8 w.toNat

/-- HMAC-SHA-384. -/
def hmac384 (key msg : List Byte) : List Byte :=
  let k0 := if key.length > 128 then sha384 key else key
  let k := takePad 0 128 k0
  sha384 (k.map (· ^^^ 0x5C) ++ sha384 (k.map (· ^^^ 0x36) ++ msg))

/-! ### P-384 -/

def pP : Nat := 2 ^ 384 - 2 ^ 128 - 2 ^ 96 + 2 ^ 32 - 1
def pN : Nat := 0xffffffffffffffffffffffffffffffffffffffffffffffffc7634d81f4372ddf581a0db248b0a77aecec196accc52973
def pB : Nat := 0xb3312fa7e23ee7e4988e056be3f82d19181d9c6efe8141120314088f5013875ac656398d8a2ed19d2a85c8edd3ec2aef
def pGx : Nat := 0xaa87ca22be8b05378eb1c71ef320ad746e1d3b628ba79b9859f741e082542a385502f25dbf55296c3a545e3872760ab7
def pGy : Nat := 0x3617de4a96262c6f5d9e98bf9292dc29f8f41dbd289a147ce9da3113b5f0b8c00a60b1ce1d7e819d7a431d7c90ea0e5f

/-- `b ^ e mod m`, by the low `n` bits of `e`. -/
def powMod (m : Nat) : Nat → Nat → Nat → Nat → Nat
  | 0, _, _, acc => acc
  | n + 1, b, e, acc => powMod m n (b * b % m) (e / 2) (if e % 2 = 1 then acc * b % m else acc)

/-- The inverse modulo a prime of at most 384 bits. -/
def invMod (m x : Nat) : Nat := powMod m 384 (x % m) (m - 2) 1

/-- A point of the curve; none is the point at infinity. -/
abbrev Point := Option (Nat × Nat)

/-- The sum of two points. -/
def ptAdd (p q : Point) : Point :=
  match p, q with
  | none, q => q
  | p, none => p
  | some (x1, y1), some (x2, y2) =>
    if x1 = x2 ∧ (y1 + y2) % pP = 0 then none
    else
      let l := if x1 = x2 then (3 * x1 * x1 + (pP - 3)) * invMod pP (2 * y1) % pP
               else (y2 + pP - y1) * invMod pP (x2 + pP - x1) % pP
      let x3 := (l * l + 2 * pP - x1 - x2) % pP
      some (x3, (l * (x1 + pP - x3) + pP - y1) % pP)

/-- The multiple of a point by the low `n` bits of `k`. -/
def ptMul : Nat → Nat → Point → Point → Point
  | 0, _, _, acc => acc
  | n + 1, k, p, acc => ptMul n (k / 2) (ptAdd p p) (if k % 2 = 1 then ptAdd acc p else acc)

def onCurve (x y : Nat) : Bool := x < pP && y < pP && y * y % pP == (x * x * x + (pP - 3) * x + pB) % pP

/-- An uncompressed point: 0x04, x, y (R481). -/
def readPoint (bs : List Byte) : Point :=
  let x := ofBe ((bs.drop 1).take 48)
  let y := ofBe ((bs.drop 49).take 48)
  if bs.length = 97 ∧ bs.head? = some 4 ∧ onCurve x y then some (x, y) else none

def writePoint : Point → List Byte
  | some (x, y) => 4 :: (beBytes 48 x ++ beBytes 48 y)
  | none => List.replicate 97 0

/-- The public key that belongs to a secret key. -/
def ecPublic (d : Nat) : List Byte := writePoint (ptMul 384 (d % pN) (some (pGx, pGy)) none)

/-- ECDSA P-384 with SHA-384: does the 96-byte signature r, s hold for a message under a public key? -/
def ecdsaVerify (pub msg sig : List Byte) : Bool :=
  let r := ofBe (sig.take 48)
  let s := ofBe ((sig.drop 48).take 48)
  match readPoint pub with
  | none => false
  | some q =>
    if sig.length = 96 ∧ 1 ≤ r ∧ r < pN ∧ 1 ≤ s ∧ s < pN then
      let e := ofBe (sha384 msg)
      let w := invMod pN s
      match ptAdd (ptMul 384 (e * w % pN) (some (pGx, pGy)) none) (ptMul 384 (r * w % pN) (some q) none) with
      | some (x, _) => x % pN == r
      | none => false
    else false

/-- An ECDSA signature with the secret number `k`. -/
def ecdsaSign (d k : Nat) (msg : List Byte) : List Byte :=
  let r := match ptMul 384 (k % pN) (some (pGx, pGy)) none with
    | some (x, _) => x % pN
    | none => 0
  let s := invMod pN k * (ofBe (sha384 msg) + r * d) % pN
  beBytes 48 r ++ beBytes 48 s

/-- The x coordinate of the ECDH product (R482). -/
def ecdh (d : Nat) (pub : List Byte) : Option (List Byte) :=
  match readPoint pub with
  | none => none
  | some q =>
    match ptMul 384 (d % pN) (some q) none with
    | some (x, _) => some (beBytes 48 x)
    | none => none

/-! ### AES-256-GCM -/

/-- Doubling in GF(2^8) modulo x^8 + x^4 + x^3 + x + 1. -/
def xtime (x : Nat) : Nat := if x ≥ 128 then (x * 2 - 256) ^^^ 0x1B else x * 2

def gfMul : Nat → Nat → Nat → Nat
  | 0, _, _ => 0
  | n + 1, a, b => (if b % 2 = 1 then a else 0) ^^^ gfMul n (xtime a) (b / 2)

/-- `x^254`, the inverse of `x` in GF(2^8). -/
def gfInv (x : Nat) : Nat :=
  let x2 := gfMul 8 x x
  let x4 := gfMul 8 x2 x2
  let x8 := gfMul 8 x4 x4
  let x16 := gfMul 8 x8 x8
  let x32 := gfMul 8 x16 x16
  let x64 := gfMul 8 x32 x32
  let x128 := gfMul 8 x64 x64
  gfMul 8 x2 (gfMul 8 x4 (gfMul 8 x8 (gfMul 8 x16 (gfMul 8 x32 (gfMul 8 x64 x128)))))

def rol8 (x k : Nat) : Nat := (x * 2 ^ k % 256) + x / 2 ^ (8 - k)

/-- The AES S-box. -/
def sbox (x : Nat) : Nat :=
  let b := gfInv x
  b ^^^ rol8 b 1 ^^^ rol8 b 2 ^^^ rol8 b 3 ^^^ rol8 b 4 ^^^ 0x63

/-- Words of the key schedule, newest first, each a list of four bytes. -/
def aesExpand : Nat → Nat → Nat → List (List Nat) → List (List Nat)
  | 0, _, _, w => w
  | n + 1, i, rc, w =>
    let t := w.getD 0 []
    let t := if i % 8 = 0 then
        match t.map sbox with
        | [a, b, c, d] => [b ^^^ rc, c, d, a]
        | x => x
      else if i % 8 = 4 then t.map sbox else t
    aesExpand n (i + 1) (if i % 8 = 0 then xtime rc else rc) (List.zipWith (· ^^^ ·) (w.getD 7 []) t :: w)

def aesMix (c : List Nat) : List Nat :=
  match c with
  | [a, b, c, d] =>
    [xtime a ^^^ xtime b ^^^ b ^^^ c ^^^ d, a ^^^ xtime b ^^^ xtime c ^^^ c ^^^ d,
     a ^^^ b ^^^ xtime c ^^^ xtime d ^^^ d, xtime a ^^^ a ^^^ b ^^^ c ^^^ xtime d]
  | x => x

/-- Substitution and row shift of the 16 state bytes, column by column. -/
def aesSubShift (st : List Nat) : List Nat :=
  (upto 16).map fun i => sbox (st.getD ((i + 4 * (i % 4)) % 16) 0)

def aesRounds : Nat → List Nat → List (List Nat) → List Nat
  | 0, st, _ => st
  | n + 1, st, ks =>
    let t := aesSubShift st
    let m := if n = 0 then t else (upto 4).flatMap fun c => aesMix ((t.drop (4 * c)).take 4)
    aesRounds n (List.zipWith (· ^^^ ·) m (ks.take 4).flatten) (ks.drop 4)

/-- AES-256 of one 16-byte block. -/
def aes256 (key blk : List Byte) : List Byte :=
  let k := key.map (·.toNat)
  let w0 := (upto 8).map fun i => (k.drop (4 * i)).take 4
  let ks := (aesExpand 52 8 1 w0.reverse).reverse
  let st := List.zipWith (· ^^^ ·) (blk.map (·.toNat)) (ks.take 4).flatten
  (aesRounds 14 st (ks.drop 4)).map (BitVec.ofNat 8 ·)

/-- Product in GF(2^128) with the bit order of GCM. -/
def ghashMul : Nat → Nat → Nat → Nat → Nat
  | 0, _, _, z => z
  | n + 1, x, v, z =>
    let z := if x / 2 ^ n % 2 = 1 then z ^^^ v else z
    ghashMul n x (if v % 2 = 1 then (v / 2) ^^^ (0xE1 * 2 ^ 120) else v / 2) z

/-- GHASH over a number of 16-byte blocks. -/
def ghash (h : Nat) : Nat → List Byte → Nat → Nat
  | 0, _, y => y
  | n + 1, bs, y => ghash h n (bs.drop 16) (ghashMul 128 (y ^^^ ofBe (takePad 0 16 bs)) h 0)

/-- Counter-mode bytes from a counter block. -/
def gcmCtr (key iv : List Byte) : Nat → Nat → List Byte → List Byte
  | 0, _, _ => []
  | n + 1, c, bs =>
    List.zipWith (· ^^^ ·) (bs.take 16) (aes256 key (iv ++ beBytes 4 c)) ++ gcmCtr key iv n (c + 1) (bs.drop 16)

/-- The tag of AES-256-GCM over encrypted bytes, with a 12-byte nonce and no associated data. -/
def gcmTag (key iv body : List Byte) : List Byte :=
  let h := ofBe (aes256 key (List.replicate 16 0))
  let y := ghash h (cdiv body.length 16) body 0
  let y := ghashMul 128 (y ^^^ (8 * body.length)) h 0
  List.zipWith (· ^^^ ·) (beBytes 16 y) (aes256 key (iv ++ beBytes 4 1))

/-- AES-256-GCM decryption with the 16-byte tag at the end; none when the tag fails. -/
def gcmOpen (key iv ct : List Byte) : Option (List Byte) :=
  let body := ct.take (ct.length - 16)
  if 16 ≤ ct.length ∧ gcmTag key iv body = ct.drop (ct.length - 16) then some (gcmCtr key iv (cdiv body.length 16) 2 body) else none

/-- AES-256-GCM encryption with the tag at the end. -/
def gcmSeal (key iv pt : List Byte) : List Byte :=
  let body := gcmCtr key iv (cdiv pt.length 16) 2 pt
  body ++ gcmTag key iv body

end Sys2Proof.Machine
end

