-- ==== Sys2Proof/Machine/Event.lean ====
section
/-! DEFINITION. Event records: layout, the ring, coalescing of corrected errors, and their way to the management network (R455 to
R457, R490); host interrupts (R378). -/

namespace Sys2Proof.Machine

/-- What an event record says beyond its number and its time (R455). -/
structure Ev where
  cls : Nat
  sev : Nat
  ukind : Nat
  uidx : Nat
  lcid : Nat := 0x7FF
  addr : Nat := 0
  d0 : Nat := 0
  d1 : Nat := 0
  d2 : Nat := 0
  d3 : Nat := 0
  deriving DecidableEq, Repr

/-- The eight words of the record with number `seq` (R455). -/
def State.evWords (s : State) (seq : Nat) (e : Ev) : List Word :=
  let w0 := seq % 2 ^ 32 * 2 ^ 32 + 2 ^ 16 + e.sev % 256 * 2 ^ 8 + e.cls % 256
  let w2 := b2n s.fab.myIdSet * 2 ^ 43 + e.lcid % 2048 * 2 ^ 32 + e.uidx % 2 ^ 16 * 2 ^ 16 + e.ukind % 16 * 2 ^ 12 +
    (if s.fab.myIdSet then s.fld Reg.fabMyid 11 0 else 0)
  let body := [w0, s.tclk, w2, e.addr, e.d0, e.d1, e.d2].flatMap (leBytes 8) ++ leBytes 4 e.d3
  let crc := crc32c body
  ([w0, s.tclk, w2, e.addr, e.d0, e.d1, e.d2].map fun x => BitVec.ofNat 64 x) ++ [BitVec.ofNat 64 (e.d3 % 2 ^ 32 + crc * 2 ^ 32)]

/-- Words stored at consecutive register offsets. -/
def State.putWords (s : State) : Nat → List Word → State
  | _, [] => s
  | off, w :: ws => (s.put off w).putWords (off + 8) ws

/-- The 64 bytes of the record in ring place `n mod 1024`. -/
def State.ringBytes (s : State) (n : Nat) : List Byte :=
  (upto 8).flatMap fun w => leBytes 8 (s.raw (Reg.relRing (n % 1024) w)).toNat

/-- A management datagram: header, payload and tag (R479). An untagged message carries sixteen zero bytes. -/
def datagram (kmac : Option (List Byte)) (kind sid seq cmd status : Nat) (payload : List Byte) : List Byte :=
  let m := leBytes 2 0x5A4C ++ [1, BitVec.ofNat 8 kind] ++ leBytes 4 sid ++ leBytes 8 seq ++ leBytes 2 cmd ++
    [BitVec.ofNat 8 status, 0] ++ leBytes 4 payload.length ++ List.replicate 8 0 ++ payload
  m ++ (match kmac with
    | some k => (hmac384 k m).take 16
    | none => List.replicate 16 0)

/-- A datagram of kind 2 or 3 sent in a session, under the session's own series of numbers (R480). -/
def State.sendSeries (s : State) (x : Sess) (kind : Nat) (payload : List Byte) : State × Sess :=
  (s.emit (.datagram (datagram (some x.kmac) kind x.sid x.evSeq 0 0 payload)), { x with evSeq := x.evSeq + 1 })

/-- One record of the ring sent to every session whose subscription takes it (R490). -/
def State.notify (s : State) (seq sev : Nat) : State :=
  if s.sys.fwRuns then
    let r := s.tender.sessions.foldl (fun (acc : State × List Sess) x =>
      match x.sub with
      | some (start, minSev) =>
        if start ≤ seq ∧ minSev ≤ sev then
          let (s', x') := acc.1.sendSeries x 2 (acc.1.ringBytes seq)
          (s', acc.2 ++ [x'])
        else (acc.1, acc.2 ++ [x])
      | none => (acc.1, acc.2 ++ [x])) (s, [])
    { r.1 with tender := { r.1.tender with sessions := r.2 } }
  else s

/-- A record posted to the ring, and sent on (R457). -/
def State.post (s : State) (e : Ev) : State :=
  let seq := (s.raw Reg.relEvhead).toNat
  let s := s.putWords (Reg.relRing (seq % 1024) 0) (s.evWords seq e)
  let s := s.bump Reg.relEvhead 1
  let s := if 2 ≤ e.sev then { s with tender := { s.tender with unread := s.tender.unread ++ [seq] } } else s
  s.notify seq e.sev

/-- A record of class 0x06 (R456): old and new state, the peer, and a cause. The manual gives the cause no codes, so it is a free
value (log row 5). -/
def State.linkEvent (s : State) (ukind uidx lcid addr old new peer : Nat) : State :=
  let (n, s) := s.freeDraw
  s.post { cls := 6, sev := 1, ukind := ukind, uidx := uidx, lcid := lcid, addr := addr
           d0 := old + new * 2 ^ 4 + (Config.freeWord n).toNat % 256 * 2 ^ 8, d1 := peer }

/-- The key of a unit in the table of open periods (R457). -/
def ceKey (ukind uidx : Nat) : Nat := ukind * 2 ^ 16 + uidx

/-- A corrected error of a unit: posted at once when no period is open, else counted (R457). -/
def State.correction (s : State) (ukind uidx lcid place addr d2 : Nat) : State :=
  let k := ceKey ukind uidx
  let r := Sparse.get ceReset s.ce k
  if r.isOpen then
    let r' := if r.count = 0 then { r with count := 1, place := place, addr := BitVec.ofNat 64 addr, d2 := BitVec.ofNat 64 d2 }
              else { r with count := r.count + 1 }
    { s with ce := Sparse.set ceReset s.ce k r' }
  else
    let s := { s with ce := Sparse.set ceReset s.ce k { ceReset k with isOpen := true } }
    s.post { cls := 1, sev := 0, ukind := ukind, uidx := uidx, lcid := lcid, addr := addr, d0 := place, d1 := 1, d2 := d2 }

/-! ### Host interrupts (R377, R378) -/

/-- An MSI-X message, or its pending bit while the vector is masked (R378). -/
def State.msix (s : State) (vec : Nat) : State :=
  if s.hif.mask.getLsbD vec then { s with hif := { s.hif with pend := s.hif.pend ||| (1#32 <<< vec) } }
  else s.emit (.msix vec)

/-- A bit of HIF.EVT set; vector 0 fires when the bit becomes 1 while it is enabled (R378). -/
def State.hostEvent (s : State) (bit : Nat) : State :=
  let was := s.bit Reg.hifEvt bit
  let s := s.putBit Reg.hifEvt bit true
  if !was && s.bit Reg.hifEvten bit then s.msix 0 else s

/-- A refused host access recorded (R362, R368). `size` is the size code of HIF.BADADDR. -/
def State.badAccess (s : State) (evt : Nat) (write : Bool) (size addr : Nat) : State :=
  let s := s.bump Reg.hifBadacc 1
  let s := s.put Reg.hifBadaddr (BitVec.ofNat 64 (b2n write * 2 ^ 63 + size % 8 * 2 ^ 60 + addr % 2 ^ 48))
  s.hostEvent evt

end Sys2Proof.Machine
end

