-- ==== Sys2Proof/WellFormed.lean ====
section
/-! DEFINITION. Which commands name units that the device has. A command that is not well formed is refused by name: its
meaning answers the fault `noSuchUnit`. -/

namespace Sys2Proof

/-- A source of register accesses exists: the host, a management session, or one of the 1,300 positions (R5). -/
def Src.wf : Src → Bool
  | .host | .mgmt | .bar2 | .config => true
  | .core pos => decide (pos < 1300)

/-- An access of some bytes inside the space that its source reaches: the 64 MiB of CSR space (R4), the 64 KiB of BAR2 (R361), or the 4 KiB of a
function's configuration space (log row 8). -/
def csrAccessWf (src : Src) (off size : Nat) : Bool :=
  decide (1 ≤ size) && decide (off + size ≤ match src with
    | .bar2 => 0x10000
    | .config => 0x1000
    | _ => 0x4000000)

/-- Every operand of a command is in the range of the units that it names. -/
def Instr.wf : Instr → Bool
  | .leafIssue leaf => decide (leaf.pos < 1300)
  | .programStoreFill pos | .stringStep pos | .tileOpCommit pos => decide (pos < 1300)
  | .loadReturn pos _ _ | .headboxTransferComplete pos _ => decide (pos < 1300)
  | .vectorOpComplete pos err => decide (pos < 1300) && (match err with
    | some (.reg e) => decide (e.reg < 44) && decide (e.slice < if e.reg < 40 then 4 else 32)
    | _ => true)
  | .arrayCheckFault pos _ => decide (pos < 1300)
  | .exceptionEntry pos _ => decide (pos < 1300)
  | .prefetchFillReturn pos _ => decide (pos < 1300)
  | .spareTakeover c | .couch c | .couchLimitExpiry c | .rotationTurn c | .testSessionStart c => decide (c < 100)
  | .timerCompare c slot => decide (c < 100) && decide (slot < 12)
  | .cluCouchGo c _ => decide (c < 100)
  | .suspectDue k | .relPosreqTest k | .relPosreqMark k | .relPosreqUnmark k | .suspectHoursElapsed k => decide (k < 1300)
  | .selfTestSliceEnd c _ => decide (c < 100)
  | .norm c | .contrib c | .update c | .endEntry c | .calenderEntryDone c | .calCtrlQreset c => decide (c < 100)
  | .deviceRecord b | .millTotalReturn b | .stepEnd b => decide (b < 16)
  | .numSlotCtrlClr j _ => decide (j < 256)
  | .orbReduction c j => decide (c < 100) && decide (j < 8)
  | .l2OrbCtrlEn c j _ => decide (c < 100) && decide (j < 8)
  | .calQbaseStepWrite c _ _ => decide (c < 100)
  | .bankGrant ch bank => decide (ch < 1280) && decide (bank < 48)
  | .retrainingWindowStart ch => decide (ch < 1280)
  | .retrainingWindowEnd ch _ => decide (ch < 1280)
  | .rowRemap ch rank bank row => decide (ch < 1280) && decide (rank < 3) && decide (bank < 16) && decide (row < 12288)
  | .cellReceive p _ => decide (p < 36)
  | .sheet p | .replayTimeout p | .laneLockLoss p | .fabPCtrlRetrain p => decide (p < 36)
  | .cellStallTimeout stall => decide (stall.stream < 16) && (match stall.flow with
    | some f => decide (f < 4096)
    | none => true)
  | .fabStrCtrlReload s => decide (s < 16)
  | .portRetrainWindowEnd p _ => decide (p < 36)
  | .portTrainingDone p _ _ => decide (p < 36)
  | .fabPCtrlEn p _ => decide (p < 36)
  | .hostCounterRead off => decide (off % 4 = 0) && decide (off < 0x4000000)
  | .rcRead src off size => src.wf && csrAccessWf src off size
  | .registerWrite src off size _ => src.wf && csrAccessWf src off size
  | .hifQSqtail n _ | .hifQCqhead n _ | .hifQCtrlEn n _ => decide (n < 16)
  | .commandCompletion n => decide (n < 16)
  | .hifCdb w _ | .hifCdbc w _ => decide (w < 19)
  | .msixUnmask vec => decide (vec < 32)
  | .clockStepChange c => decide (c < 100)
  | .timingMonitorRaise island | .thermalCutoff island _ => decide (island < 170)
  | .reelStackRefreshDoubled stack _ => decide (stack < 20)
  | .p2 run => run.refused.all (fun i => decide (i < 170)) && (match run.failed with
    | some f => decide (f.island < 170)
    | none => true)
  | .p3 run => (run.unverified ++ run.failed).all fun ch => decide (ch < 1280)
  | .p5 failed channels rows ways _ => failed.all (fun k => decide (k < 1300)) && channels.all (fun ch => decide (ch < 1280)) &&
      rows.all (fun r => decide (r < 1280 * 3 * 16 * 12288)) && ways.all fun w => decide (w < 12000)
  | .jtagInstruction scan => scan.clusters.all fun c => decide (c < 100)
  | .thermalCapStep c _ => decide (c < 100)
  | .mboxOutWrite pos i _ => decide (pos < 1300) && decide (i < 1200)
  | .mboxInRead read => decide (read.pos < 1300) && decide (read.id < 1200)
  | .relWmwDbaseEn n _ => decide (n < 16)
  | .snapPmemWrite m _ => decide (m < 16)
  | .numContextOrGroupWrite off _ => decide (0xB01000 ≤ off) && decide (off < 0xB02400) && decide (off % 8 = 0)
  | .backInvalidateResponse _ | .memPatvalWrite _ | .patUpdateDone | .memPatctlEn _ | .scrubPass _ _ | .feltScrub _ _
  | .surrenderRequest | .surrenderDeadline | .memSurack _ | .migrationDone | .epochBoundary | .collectiveStart _
  | .collectiveChunk _ _ _ | .fabHold _ | .fabPatch _ | .fabRaise _ | .fabSubst _ | .fabJobctlLoad | .fabJobctlStart
  | .fabJobctlStop | .hostMemAccess _ _ _ _ | .devFeatctlCommit | .hifHdmctlEn _ | .linkReset | .cxlReset | .ideKm _
  | .getVersion _ | .getCapabilities _ | .negotiateAlgorithms _ | .getDigests _ | .getCertificate _ | .challenge _
  | .getMeasurements _ | .keyExchange _ | .finish _ | .endSession _ | .mainPowerGood _ _ _ | .p1 | .p4
  | .p6 | .memberImageTimeout | .cfgStoreStore | .cfgStoreErase | .storeComplete _ | .mainInputLow _
  | .mainCutoff _ | .governorSample _ _ _ _ | .standbyLoss | .modResetN _ _ _
  | .protectionInstant | .snapCtrlNow | .poolCopyDone _ | .pageDrained | .shareCopy | .snapRestoreGo _ | .restoreComplete
  | .datagramReceive _ | .bootRomRun | .confirm | .trialTimeout | .pendingActivation | .sessionTimeout _
  | .pendingSessionExpiry _ | .lockoutExpiry _ | .eventResend | .cePeriodEnd _ _ | .smbStatusRead | .smbRecordRead
  | .smbEnroll _ | .smbRecoveryWrite _ _ | .smbRecoveryVerify | .mainInputBackInRange _
  | .coolantInletAboveTinlet _ | .linkReturnToL0 | .cxlCacheHostSnoop _ _ |  .arpOrIcmpEcho _ _ => true

end Sys2Proof
end

