-- ==== Sys2Proof/Machine/Memory.lean ====
section
/-! DEFINITION. What stands between an access and memory: the page table (PAT) (R239 to R244), the lines that caches hold and the units of protection (R277 to
R287, R520), reports of errors (R247, R252, R259, R456), what a write waits for (R292, R419), and watermark windows (R440 to R443). -/

namespace Sys2Proof.Machine

/-! ### The page table (PAT) -/

/-- What an access needs of its page (R241). -/
inductive Need where
  | read | write | atomic | fetch
  deriving DecidableEq, Repr

/-- Index and TIER code of the page of an address, when one of the four ranges holds it (R239, R240). A core's view of its own LDM uses
the entry of the physical window page (R236). -/
def State.pageOf (s : State) (own : Option Nat) (a : Nat) : Option (Nat × Nat) :=
  if a < s.capBytes then some (a / 2 ^ 21, 0)
  else if isFelt a then some (737280 + (a - feltBase) / 2 ^ 21, 1)
  else if physBase ≤ a ∧ a < physBase + 1300 * 2 ^ 18 then some (739328 + (a - physBase) / 2 ^ 21, 2)
  else if logBase ≤ a ∧ a < logBase + 1200 * 2 ^ 18 then some (739491 + (a - logBase) / 2 ^ 21, 2)
  else if ownBase ≤ a ∧ a < ownBase + 2 ^ 18 then
    match own with
    | some p => some (739328 + p * 2 ^ 18 / 2 ^ 21, 2)
    | none => none
  else none

def State.patEn (s : State) : Bool := s.bit Reg.memPatctl 0
def State.patBase (s : State) : Nat := s.fld Reg.memPatctl 47 21 * 2 ^ 21
/-- Bytes of the whole table (R239). -/
def patBytes : Nat := 5917128

/-- Does the reel page of an address hold part of the table in force (R242)? -/
def State.inTable (s : State) (a : Nat) : Bool :=
  s.patEn && decide (a < s.capBytes) && decide (s.patBase / 2 ^ 21 ≤ a / 2 ^ 21) && decide (a / 2 ^ 21 ≤ (s.patBase + patBytes - 1) / 2 ^ 21)

/-- Table entry `x` as it stands in memory (R239). -/
def State.tableEntry (s : State) (x : Nat) : Word := BitVec.ofNat 64 (s.num none (s.patBase + 8 * x) 8)

/-- Entry `x` as a cluster sees it: while an update of the entry is under way, a cluster whose copy is older uses the former value
(R243; log row 22). -/
def State.entryFor (s : State) (c : Option Nat) (x : Nat) : Word :=
  match s.mem.patBusy, c with
  | some u, some c => if u.entry = x ∧ c ∈ u.users ∧ x ∈ (s.cluAt c).pat then u.old else s.tableEntry x
  | _, _ => s.tableEntry x

/-- What every page acts as while EN = 0: V, R, W, C, and X on reel pages, with its own TIER (R242). -/
def openEntry (tier : Nat) : Word := BitVec.ofNat 64 (0x47 + (if tier = 0 then 8 else 0) + tier * 16)

/-- The attributes of a page. -/
def State.pageEntry (s : State) (c : Option Nat) (x tier : Nat) : Word := if s.patEn then s.entryFor c x else openEntry tier

/-- A page check: none when it passes, else the SYND.KIND of the failure (R241). -/
def State.checkPage (s : State) (c own : Option Nat) (need : Need) (a : Nat) : Option Nat :=
  match s.pageOf own a with
  | none => some 2
  | some (x, tier) =>
    if s.inTable a then some 2
    else
      let e := s.pageEntry c x tier
      if wfld e 0 0 = 0 ∨ wfld e 5 4 ≠ tier ∨ wfld e 63 9 ≠ 0 then some 2
      else
        let r := wfld e 1 1 = 1
        let w := wfld e 2 2 = 1
        match need with
        | .read => if r then none else some 3
        | .write => if w then none else some 4
        | .atomic => if !r then some 3 else if !w then some 4 else none
        | .fetch => if wfld e 3 3 = 1 ∧ tier = 0 then none else some 3

/-- A cluster that reads entry `x` of the table anew has its value as it stands there. -/
def Mem.readAnew (m : Mem) (c x : Nat) : Mem :=
  { m with patBusy := m.patBusy.map fun u => if u.entry = x then { u with users := u.users.filter (· ≠ c) } else u }

/-- The use of an entry by a page check of a cluster: hit or miss in its cache of 512 entries (R244). -/
def State.touchPage (s : State) (c : Nat) (own : Option Nat) (a : Nat) : State :=
  match s.pageOf own a with
  | none => s
  | some (x, _) =>
    if !s.patEn then s
    else
      let pat := (s.cluAt c).pat
      if x ∈ pat then s.modClu c fun k => { k with pat := x :: pat.filter (· ≠ x) }
      else (({ s with mem := s.mem.readAnew c x }).modClu c fun k => { k with pat := (x :: pat).take 512 }).bump Reg.memPatmiss 1

/-- Is the page cacheable (C = 1)? -/
def State.pageC (s : State) (c own : Option Nat) (a : Nat) : Bool :=
  match s.pageOf own a with
  | some (x, tier) => wfld (s.pageEntry c x tier) 6 6 = 1
  | none => false

/-- The page's streaming hint (R240, R280). -/
def State.pageStrm (s : State) (c own : Option Nat) (a : Nat) : Bool :=
  match s.pageOf own a with
  | some (x, tier) => wfld (s.pageEntry c x tier) 7 7 = 1
  | none => false

/-- The first failure of the checks of every page of a range of bytes, with its address: each page is checked once at its first
byte in the range. -/
def State.checkRange (s : State) (c own : Option Nat) (need : Need) (a n : Nat) : Option (Nat × Nat) :=
  if n = 0 then none
  else
    ((upto ((a + n - 1) / 2 ^ 21 - a / 2 ^ 21 + 1)).findSome? fun i =>
      let x := if i = 0 then a else (a / 2 ^ 21 + i) * 2 ^ 21
      (s.checkPage c own need x).map fun k => (x, k))

/-! ### Lines that the caches hold (R277, R278, R282) -/

/-- The ways of a set, read from a cache with `ways` ways per set. -/
def waysOf (m : Sparse CLine) (ways set : Nat) : List CLine := (upto ways).map fun w => Sparse.get emptyLine m (set * ways + w)

/-- The way that holds a line. -/
def findLine (ls : List CLine) (line : Nat) : Option Nat := ls.findIdx? fun l => l.valid && l.line == line

/-- The set of an L2 line. -/
def l2Set (line : Nat) : Nat := line % 2048

/-- A position's L1 copy of a 64-byte line. -/
def Caches.l1Line (x : Caches) (line : Nat) : Option CLine := (waysOf x.l1 8 (line % 128)).find? fun l => l.valid && l.line == line

/-- Does a position's L1 hold a 64-byte line? -/
def Caches.l1Has (x : Caches) (line : Nat) : Bool := (x.l1Line line).isSome

/-- An L2's copy of a 128-byte line. -/
def Cluster.l2Line (k : Cluster) (line : Nat) : Option CLine := (waysOf k.l2 16 (l2Set line)).find? fun l => l.valid && l.line == line

/-- Does a line wait in the victim buffer of an L2? -/
def Cluster.evicting (k : Cluster) (line : Nat) : Bool := k.victims.any fun v => v.1 == line

/-- Does a cluster hold a 128-byte line, in its L2 or in the victim buffer of its L2? -/
def Cluster.l2Has (k : Cluster) (line : Nat) : Bool := (k.l2Line line).isSome || k.evicting line

/-- The caches that hold the word at an address, with whether their copy is dirty, in the order in which they supply an access: the own L1 and side buffer, an
L1 or an L2 with a dirty copy, the own L2, and any other L2 (R282, R287, R291). -/
def State.copiesAt (s : State) (own : Option Nat) (a : Nat) : List (Nat × Bool) :=
  let l1 (p : Nat) (x : Caches) : List (Nat × Bool) := match x.l1Line (a / 64) with
    | some l => [(l1Id p, l.dirty)]
    | none => []
  let l2 (c : Nat) (k : Cluster) : List (Nat × Bool) := match k.l2Line (a / 128) with
    | some l => [(l2Id c, l.dirty)]
    | none => if k.evicting (a / 128) then [(l2Id c, true)] else []
  let mine := match own with
    | some p => let x := (s.coreAt p).caches; l1 p x ++ (if x.side.contains (a / 64) then [(sideId p, false)] else [])
    | none => []
  let l1s := (s.cores.flatMap fun p => l1 p.1 p.2.caches).filter fun x => x.2 && own != some x.1
  let l2s := s.clusters.flatMap fun k => l2 k.1 k.2
  let near (x : Nat × Bool) : Bool := own.any fun p => x.1 == l2Id (p / 13)
  mine ++ l1s ++ l2s.filter (·.2) ++ (l2s.filter fun x => !x.2 && near x) ++ l2s.filter fun x => !x.2 && !near x

/-- Does some cache supply the data at an address, so that memory is not read? -/
def State.held (s : State) (own : Option Nat) (a : Nat) : Bool := !(s.copiesAt own a).isEmpty

/-- Does a clean copy of the word at an address hold data that cannot be corrected, so that the line is fetched again (R287)? -/
def State.spoilt (s : State) (a : Nat) (c : Nat × Bool) : Bool := !c.2 && decide (2 ≤ s.errAt (cacheUnit c.1 a))

/-- The unit of protection that an access meets at an address: a word of a cache line only where an error stands in it, else the unit in memory where no cache
supplies the data. -/
def State.unitAt (s : State) (own : Option Nat) (a : Nat) : Option Nat :=
  match (s.copiesAt own a).find? fun c => !(s.spoilt a c) with
  | some c => if s.errAt (cacheUnit c.1 a) = 0 then none else some (cacheUnit c.1 a)
  | none => (s.locate own a).unit

/-- Is some copy of a 128-byte line dirty? -/
def State.dirtySomewhere (s : State) (line : Nat) : Bool :=
  s.clusters.any (fun k => ((k.2.l2Line line).map (·.dirty)).getD false || k.2.evicting line) ||
    s.cores.any fun p => ((p.2.caches.l1Line (2 * line)).map (·.dirty)).getD false || ((p.2.caches.l1Line (2 * line + 1)).map (·.dirty)).getD false

/-! ### Reports of errors (R456) -/

/-- Unit kind, unit index, place and D2 of a unit of protection for event classes 0x01 and 0x02. -/
def State.errUnit (s : State) (u : Nat) : Nat × Nat × Nat × Nat :=
  if 2 ^ 56 ≤ u then
    let k := unitCache u
    if k < 1300 then (1, k, 4, 0) else if k < 2600 then (1, k - 1300, 6, 0) else (2, k - 2600, 4, 0)
  else if u < feltBase then (4, (s.place u).ch, 3, s.reelD2 u)
  else if isFelt u then (3, (u - feltBase) / 2 ^ 30, 2, 0)
  else (1, (u - physBase) / 2 ^ 18, 1, 0)

/-- The key of a reel row, for the list of rows that have failed. -/
def rowKey (r : RowAddr) : Nat := ((r.ch * 3 + r.rank) * 16 + r.bank) * 12288 + r.row

def State.failRow (s : State) (u : Nat) : State :=
  if u < feltBase then { s with mem := { s.mem with rowFails := addNew s.mem.rowFails (rowKey (s.place u)) } } else s

/-- A corrected error met at a unit (R247, R252): counters, event class 0x01, and the row failures of R259. -/
def State.metCorrected (s : State) (lcid u : Nat) : State :=
  let (uk, ui, place, d2) := s.errUnit u
  let s := s.correction uk ui lcid place (unitAddr u) d2
  let s := if uk = 4 then s.bump (Reg.memChCe ui) 1 else if uk = 3 then s.bump (Reg.memFeltCe ui) 1 else s
  if uk = 4 then
    let key := rowKey (s.place u)
    let period := s.fld (Reg.memScrub (ui / 64)) 15 0 * 3600000000000
    let again := s.mem.ceSectors.any fun x => x.u == u && x.again
    let other := s.mem.ceSectors.any fun x => x.u != u && decide (rowKey (s.place x.u) = key) && decide (s.sys.time < x.time + period)
    let s := if again || other then s.failRow u else s
    { s with mem := { s.mem with ceSectors := (s.mem.ceSectors.filter fun x => x.u != u) ++ [⟨u, again, s.sys.time⟩] } }
  else s

/-- An uncorrectable error met at a unit by an agent: counters, event class 0x02, and a row failure (R247, R252, R259). -/
def State.metBad (s : State) (agent lcid u : Nat) : State :=
  let (uk, ui, place, d2) := s.errUnit u
  let s := if uk = 4 then s.bump (Reg.memChUe ui) 1 else if uk = 3 then s.bump (Reg.memFeltUe ui) 1 else s
  (s.post { cls := 2, sev := 2, ukind := uk, uidx := ui, lcid := lcid, addr := unitAddr u, d0 := place + agent * 2 ^ 8, d2 := d2 }).failRow u

/-- A sector rewritten: a later corrected error in it recurs (R259). -/
def State.rewritten (s : State) (u : Nat) : State :=
  { s with mem := { s.mem with ceSectors := s.mem.ceSectors.map fun x => if x.u = u then { x with again := true } else x } }

/-- Words whose content nothing states, `n` of them: each is a free value (log row 5). -/
def State.freeBytes (s : State) : Nat → State × List Byte
  | 0 => (s, [])
  | n + 1 =>
    let r := s.freeBytes n
    (r.1.freeDraw.2, r.2 ++ leBytes 8 (Config.freeWord r.1.freeDraw.1).toNat)

/-- The data of a unit that cannot be corrected, as a read delivers it (R78, R260, R269, R287). The bits of a reel sector that have flipped are known where the
outside world has reported them; of any other unit nothing says which data that is (log row 5). -/
def State.unitAsRead (s : State) (u : Nat) : State × List Byte :=
  if u < feltBase ∧ s.flipsAt u ≠ 0 then (s, leBytes 32 (s.num none u 32 ^^^ (s.flipsAt u).toNat % 2 ^ 256)) else s.freeBytes (unitLen u / 8)

/-- Data that cannot be corrected written as read, with correct check bits (R260, R269, R287). -/
def State.asRead (s : State) (u : Nat) : State :=
  let r := s.unitAsRead u
  (r.1.setErr u 0).setBytes none 0xE (unitAddr u) r.2

/-- Who makes an access: the agent code of event class 0x02, the logical id and the cluster concerned, whether its writes go past clean copies in the caches
to memory, and whether its request has passed its bank queue already (R256, R281). An agent of no cluster is taken as one of cluster 0 (log row 78). -/
structure Who where
  agent : Nat
  lcid : Nat := 0x7FF
  clu : Nat := 0
  thru : Bool := false
  queued : Bool := false
  deriving DecidableEq, Repr

/-- The headbox of a logical core, or of none, as the agent of an access. -/
def hbWho (lcid : Nat) : Who := { agent := 2, lcid := lcid, clu := if lcid < 1200 then lcid / 12 else 0 }

/-! ### Waiting -/

def State.wait (s : State) (w : WaitOn) : State := { s with waits := addNew s.waits w }

/-- Accesses to a channel in a retraining window wait (R257). -/
def State.waitChannel (s : State) (u : Nat) : State :=
  if u < feltBase ∧ s.bit (Reg.memChStat (s.place u).ch) 4 then s.wait .busy else s

/-- Does a slice of a self-test run on a position? At the moment at which one has ended the next has not begun (R448), and the first begins when the
headbox of the position is idle (R412). -/
def State.inSlice (s : State) (pos : Nat) : Bool :=
  match (s.cluAt (pos / 13)).rot.session with
  | some x => x.pos == pos && x.phase == 1 && x.ended != some s.sys.time && !((s.coreAt pos).work.hbq.any (·.begun))
  | none => false

/-- Is a slot under handover: a couch of it is pending and its core has stopped at a couch point (R238, R411)? -/
def State.handover (s : State) (i : Nat) : Bool :=
  match (s.cluAt (i / 12)).couch, s.posOf i with
  | some r, some p =>
    let st := s.stateOf p
    r.slot == i % 12 && (st == 0 || st == 2 || st == 6 || (st == 1 && (s.coreAt p).arch.flow.atCouch))
  | _, _ => false

/-- The accesses to an LDM that wait: those to a position under self-test until the slice ends (R448), and those through the logical window of a slot under
handover (R238). What the core under handover itself has in flight goes on, since the couch waits for it (R411; log row 171). -/
def State.waitLdm (s : State) (own : Option Nat) (a : Nat) : State :=
  match s.locate own a with
  | .ldm pos _ =>
    let moved := decide (logBase ≤ a) && decide (a < ownBase) && own != some pos && s.handover ((a - logBase) / 2 ^ 18)
    if s.inSlice pos || moved then s.wait .busy else s
  | _ => s

/-- The waits of a write: a protected page that has not drained, and a line that the host holds (R292, R419). -/
def State.waitWrite (s : State) (own : Option Nat) (a : Nat) : State :=
  match s.locate own a with
  | .tier a =>
    let s := if a / 2 ^ 21 ∈ s.snap.prot then s.wait (.page (a / 2 ^ 21)) else s
    if a / 128 ∈ s.hif.snoop ∨ a / 128 ∈ s.hif.biWait then s.wait (.line (a / 128)) else s
  | _ => s.waitLdm own a

/-! ### Requests to the banks (R256) -/

/-- The bank that serves a reel address, by channel, rank and bank. -/
def State.bankOf (s : State) (a : Nat) : Nat := let r := s.place a; r.ch * 48 + r.rank * 16 + r.bank

def State.bankAt (s : State) (b : Nat) : BankQ := Sparse.get bankReset s.mem.bankq b

def State.setBank (s : State) (b : Nat) (q : BankQ) : State := { s with mem := { s.mem with bankq := Sparse.set bankReset s.mem.bankq b q } }

/-- A request of a cluster for a reel address enters its bank queue; a queue of 16 sends it to the replay queue of its cluster, counted in MEM.CHi.HOTSPOT.
Other memories have no bank queue. -/
def State.request (s : State) (c a : Nat) : State × Option (Nat × Nat) :=
  if feltBase ≤ a then (s, none)
  else
    let b := s.bankOf a
    let q := s.bankAt b
    let id := s.mem.nextReq
    let s := { s with mem := { s.mem with nextReq := id + 1 } }
    if q.queue.length < 16 then (s.setBank b { q with queue := q.queue ++ [id] }, some (b, id))
    else ((s.setBank b { q with waiting := q.waiting ++ [(c, id)] }).bump (Reg.memChHotspot (b / 48)) 1, some (b, id))

/-- Does a request still wait in a replay queue? -/
def State.replaying (s : State) (r : Option (Nat × Nat)) : Bool :=
  match r with
  | some (b, id) => (s.bankAt b).waiting.any fun w => w.2 == id
  | none => false

/-! ### What a command leaves behind -/

/-- What a command that has to wait leaves behind: for a protected page a copy into the staging pool starts when the pool has a free
page and fewer than 8 copies run, and SNAP.POOLWAIT counts a full pool (R419); for a line that the host holds one snoop is sent (R292); for a bank whose queue
is full one request is made, which waits in the replay queue (R256). -/
def State.startWait (s : State) : WaitOn → State
  | .page p =>
    if p ∈ s.snap.copying then s
    else if s.fld Reg.snapPool 15 0 ≤ s.snap.pool.length + s.snap.copying.length then s.bump Reg.snapPoolwait 1
    else if 8 ≤ s.snap.copying.length then s
    else { s with snap := { s.snap with copying := s.snap.copying ++ [p] } }
  | .line l => if l ∈ s.hif.biWait then s else ({ s with hif := { s.hif with biWait := s.hif.biWait ++ [l] } }).emit (.snoop l)
  | .bank a =>
    if s.mem.parked.any fun x => x.1 == a then s
    else
      let r := s.request a.clu (128 * a.line)
      match r.2 with
      | some q => { r.1 with mem := { r.1.mem with parked := r.1.mem.parked ++ [(a, q)] } }
      | none => r.1
  | .busy => s

/-- The outcome of an effect: when it found something to wait for, nothing of it stands and the waits are started instead (log row 7). -/
def settle (s t : State) : State :=
  if t.waits.isEmpty then t else t.waits.foldl State.startWait s

/-- The answer of a command: its effect on everything but the queue, or the fault of a unit that the device does not have. -/
def answer (ok : Bool) (s : State) (f : State → State) : Host.Outcome State Fault Refusal :=
  if ok then .next { settle s (f { s with waits := [] }) with waits := [], pending := s.pending } else .fault .noSuchUnit

/-- The effect of a write to a register that has a command of its own: before PHASE 7 such writes are ignored (R401). -/
def State.written (f : State → State) (s : State) : State := if s.phase = 7 then f s else s

/-! ### Units -/

/-- The units of protection that bytes `a` to `a + n − 1` meet, in ascending order. -/
def State.unitsOf (s : State) (own : Option Nat) (a n : Nat) : List Nat :=
  if n = 0 then []
  else ((upto ((a + n - 1) / 8 - a / 8 + 1)).filterMap fun i => s.unitAt own (if i = 0 then a else (a / 8 + i) * 8)).foldl addNew []

/-- A host access that cannot complete because the link is down, where no cache of the device holds the line (R381). -/
def State.hostLost (s : State) (own : Option Nat) (a : Nat) : Bool :=
  match s.locate own a with
  | .host _ _ => !s.hif.linkUp && !(s.held own a)
  | _ => false

/-- The first uncorrectable unit of a range, without reports. -/
def State.firstBad (s : State) (own : Option Nat) (a n : Nat) : Option Nat := (s.unitsOf own a n).find? fun u => s.isBad u

/-! ### Watermarks (R439 to R445) -/

/-- The enabled windows (R441). -/
def State.wins (s : State) : List WmWin :=
  (upto 16).filterMap fun n =>
    if s.bit (Reg.relWmwDbase n) 63 then
      some ⟨s.fld (Reg.relWmwDbase n) 47 12 * 4096, s.fld (Reg.relWmwDlimit n) 47 12 * 4096, s.fld (Reg.relWmwSbase n) 47 12 * 4096⟩
    else none

/-- The shadow word of the block at an address, when a window of the list guards it (R440). -/
def shadowOf (ws : List WmWin) (a : Nat) : Option Nat :=
  (ws.find? fun w => decide (w.base ≤ a) && decide (a < w.limit)).map fun w => w.shadow + 4 * ((a - w.base) / 4096)

/-- The watermark of 4,096 bytes (R439). -/
def watermark (bs : List Byte) : Nat := crc32c bs

/-- A mismatch of a checked read recorded: REL.WMERR and event class 0x03 (R443, R456). -/
def State.wmMiss (s : State) (lcid ukind uidx a stored computed d2 : Nat) : State :=
  (s.bump Reg.relWmerr 1).post { cls := 3, sev := 2, ukind := ukind, uidx := uidx, lcid := lcid, addr := a, d0 := stored, d1 := computed, d2 := d2 }

end Sys2Proof.Machine
end

