-- ==== Sys2Proof/Machine/Cache.lean ====
section
/-! DEFINITION. Caches, side buffers and prefetch: lines with ages, victims, offers, disabled ways, bank queues, and how dirty data moves between the caches and
memory (R256, R278 to R286, R287, R291). Memory holds every value; a cache here holds which lines are present, their age and whether they are dirty (log row 9). -/

namespace Sys2Proof.Machine

/-! ### Victims (R279) -/

def putWays (m : Sparse CLine) (ways set : Nat) (ls : List CLine) : Sparse CLine :=
  (upto ways).foldl (fun m w => Sparse.set emptyLine m (set * ways + w) (ls.getD w (emptyLine 0))) m

/-- Every age advanced by one. -/
def ageAll (ls : List CLine) : List CLine := ls.map fun l => { l with age := min 3 (l.age + 1) }

/-- The lowest way that is not disabled and whose line satisfies `p` (R287). -/
def lowestWay (offs : List Nat) (p : CLine → Bool) (ls : List CLine) : Option Nat :=
  (upto ls.length).find? fun w => !(offs.contains w) && p (ls.getD w (emptyLine 0))

/-- The way to replace: the lowest invalid way, else the lowest way of age 3, ageing the set until there is one (R279). -/
def victimWay (offs : List Nat) : Nat → List CLine → Option (Nat × List CLine)
  | 0, _ => none
  | n + 1, ls =>
    match lowestWay offs (fun l => !l.valid) ls with
    | some w => some (w, ls)
    | none =>
      match lowestWay offs (fun l => l.age == 3) ls with
      | some w => some (w, ls)
      | none => victimWay offs n (ageAll ls)

/-! ### Copies changed -/

/-- A copy of a 64-byte line in an L1 changed. -/
def State.onL1 (s : State) (pos line : Nat) (f : CLine → CLine) : State :=
  s.modCore pos fun c => { c with caches := { c.caches with l1 := Sparse.mapAll emptyLine (fun _ l => if l.valid && l.line = line then f l else l) c.caches.l1 } }

/-- A copy of a 128-byte line in an L2 changed. -/
def State.onL2 (s : State) (c line : Nat) (f : CLine → CLine) : State :=
  s.modClu c fun k => { k with l2 := Sparse.mapAll emptyLine (fun _ l => if l.valid && l.line = line then f l else l) k.l2 }

/-- A copy that is no longer there (R280), and one that memory agrees with. -/
def CLine.gone (_ : CLine) : CLine := emptyLine 0
def CLine.clean (l : CLine) : CLine := { l with dirty := false }

/-- A copy of an L1 or L2 line cleaned, and invalidated when asked. -/
def cleanLine (inval : Bool) (l : CLine) : CLine := if inval then l.gone else l.clean

/-- Is a position's L1 copy of a 64-byte line dirty, or a cluster's copy of a 128-byte line, its victim buffer included? -/
def State.l1Dirty (s : State) (pos line : Nat) : Bool := (((s.coreAt pos).caches.l1Line line).map (·.dirty)).getD false
def State.l2Dirty (s : State) (c line : Nat) : Bool := (((s.cluAt c).l2Line line).map (·.dirty)).getD false || (s.cluAt c).evicting line

/-- The errors of the words of `n` bytes at `a` in cache `k` forgotten: their line has gone, or a new one has come (R287). -/
def State.forget (s : State) (k a n : Nat) : State :=
  { s with mem := { s.mem with errs := s.mem.errs.filter fun e => !(decide (cacheUnit k a ≤ e.1) && decide (e.1 < cacheUnit k a + n)) } }

/-- Has the tag of the line of `n` bytes at `a` in cache `k` gone bad? -/
def State.tagBad (s : State) (k a n : Nat) : Bool := (upto (n / 8)).any fun i => s.errAt (cacheUnit k (a + 8 * i)) == 3

/-! ### Requests to the banks (R256) -/

/-- The next cluster after `last` in ascending order, wrapping, among those that wait. -/
def nextCluster (waiting : List Nat) (last : Nat) : Option Nat := ((upto 100).map fun i => (last + 1 + i) % 100).find? fun c => waiting.contains c

/-! ### Write-backs (R281, R287) -/

/-- Errors of a dirty line of `n` bytes at `a` in cache `k`, met as the line is written: data that cannot be corrected is written as read, and event class
0x02 names the address. -/
def State.writeBad (s : State) (k a n : Nat) : State :=
  (upto (n / 8)).foldl (fun s i =>
    let u := cacheUnit k (a + 8 * i)
    if s.errAt u = 1 then (s.metCorrected 0x7FF u).setErr u 0
    else if s.errAt u = 2 ∨ (s.errAt u = 3 ∧ i = 0) then (s.metBad 1 0x7FF u).asRead u
    else if s.errAt u = 3 then s.asRead u
    else s) s

/-- `n` bytes at `a` written to their tier: whole units, with correct check bits. -/
def State.toMem (s : State) (a n : Nat) : State :=
  (upto (n / 8)).foldl (fun s i =>
    match (s.locate none (a + 8 * i)).unit with
    | some u => if u = a + 8 * i then ((s.waitChannel u).setErr u 0).rewritten u else s
    | none => s) s

/-- A 128-byte line of an L2 written to its tier. -/
def State.toMemory (s : State) (c line : Nat) : State := (s.writeBad (l2Id c) (128 * line) 128).toMem (128 * line) 128

/-- The free entries of a bank queue granted, at most `n` of them, each to the next waiting cluster, whose oldest request for the bank takes it (R256). A
write-back out of a victim buffer is served at once; a channel in a retraining window serves nothing (R257). -/
def State.bankGrants (b : Nat) : Nat → State → State
  | 0, s => s
  | n + 1, s =>
    let q := s.bankAt b
    if 16 ≤ q.queue.length ∨ s.bit (Reg.memChStat (b / 48)) 4 then s
    else
      match (nextCluster (q.waiting.map (·.1)) q.last).bind fun c => q.waiting.find? fun w => w.1 == c with
      | none => s
      | some w =>
        let rest := q.waiting.erase w
        match (s.cluAt w.1).victims.find? fun v => v.2 == w.2 with
        | some v =>
          let s := (s.setBank b { q with waiting := rest, last := w.1 }).modClu w.1 fun k => { k with victims := k.victims.erase v }
          State.bankGrants b n (s.toMemory w.1 v.1)
        | none => State.bankGrants b n (s.setBank b { queue := q.queue ++ [w.2], waiting := rest, last := w.1 })

/-- A request that the bank has served leaves its queue. -/
def State.bankServed (s : State) (r : Option (Nat × Nat)) : State :=
  match r with
  | none => s
  | some (b, id) =>
    let q := s.bankAt b
    if q.queue.contains id then (s.setBank b { q with queue := q.queue.filter (· ≠ id) }) |> State.bankGrants b (q.waiting.length + 1) else s

/-- An access reaches a unit of a memory: it waits while its channel is in a retraining window (R257), and where its bank queue is full until the bank has
granted it an entry (R256). Other requests than loads and fills are served as they reach their bank (log row 78). -/
def State.reach (s : State) (w : Who) (u : Nat) : State :=
  let s := s.waitChannel u
  if feltBase ≤ u || w.queued then s
  else
    let ask : BankAsk := ⟨w.agent, w.lcid, w.clu, u / 128⟩
    match s.mem.parked.find? fun x => x.1 == ask with
    | some x =>
      if s.replaying (some x.2) then s.wait (.bank ask)
      else ({ s with mem := { s.mem with parked := s.mem.parked.erase x } }).bankServed (some x.2)
    | none => if 16 ≤ (s.bankAt (s.bankOf u)).queue.length then s.wait (.bank ask) else s

/-- The request of a dirty line that a cache of cluster `c` writes to memory. -/
def wbWho (c : Nat) : Who := { agent := 1, clu := c }

/-- A dirty line of `n` bytes at `a`, in a cache of cluster `c`, that goes to its tier by the main path, by way of the victim buffer when its bank queue is
full. A full victim buffer keeps the access that would evict waiting (R281). -/
def State.evict (s : State) (c line : Nat) : State :=
  if 128 * line < feltBase ∧ 16 ≤ (s.bankAt (s.bankOf (128 * line))).queue.length then
    if 32 ≤ (s.cluAt c).victims.length then s.wait .busy
    else
      let r := s.request c (128 * line)
      r.1.modClu c fun k => { k with victims := k.victims ++ [(line, (r.2.map (·.2)).getD 0)] }
  else s.toMemory c line

/-! ### L2 -/

/-- A way of an L2 disabled until device reset, counted in L2.WAYOFF: its lines leave, the dirty ones for their tiers (R287). -/
def State.l2WayOff (s : State) (c way : Nat) : State :=
  let k := s.cluAt c
  if k.l2Off.contains way then s
  else
    let s := s.setClu c { k with l2 := k.l2.filter fun x => x.1 % 16 ≠ way, l2Off := k.l2Off ++ [way] }
    let s := (k.l2.filter fun x => x.1 % 16 = way).foldl (fun s x => if x.2.valid && x.2.dirty then s.evict c x.2.line else s) s
    s.put (Reg.l2Wayoff c) (s.raw (Reg.l2Wayoff c) + 1)

/-- A line put into an L2; a dirty victim is written to its tier (R279, R281), and one whose tag has gone bad takes its way with it (R287). A line that waits
in the victim buffer comes back dirty. -/
def State.l2Install (s : State) (c line age : Nat) (dirty strm : Bool) : State :=
  let k := s.cluAt c
  let dirty := dirty || k.evicting line
  let k := { k with victims := k.victims.filter fun v => v.1 != line }
  let set := l2Set line
  let ls := waysOf k.l2 16 set
  match findLine ls line with
  | some w =>
    let l := ls.getD w (emptyLine 0)
    s.setClu c { k with l2 := putWays k.l2 16 set (setAt ls w { l with age := age, dirty := l.dirty || dirty }) }
  | none =>
    match victimWay k.l2Off 4 ls with
    | some (w, ls) =>
      let old := ls.getD w (emptyLine 0)
      let s := (s.setClu c { k with l2 := putWays k.l2 16 set (setAt ls w ⟨true, line, age, dirty, strm⟩) }).forget (l2Id c) (128 * line) 128
      if old.valid && old.dirty then
        let tag := s.tagBad (l2Id c) (128 * old.line) 128
        let s := s.evict c old.line
        if tag then s.l2WayOff c w else s
      else s
    | none => if dirty then s.toMemory c line else s

/-- A demand access of a cluster to its L2: a hit makes the line young, a miss fills it with the age of R280. -/
def State.l2Access (s : State) (c line : Nat) (strm dirty : Bool) : State :=
  let k := s.cluAt c
  let set := l2Set line
  let ls := waysOf k.l2 16 set
  match findLine ls line with
  | some w =>
    let l := ls.getD w (emptyLine 0)
    (s.setClu c { k with l2 := putWays k.l2 16 set (setAt ls w { l with age := 0, dirty := l.dirty || dirty }) }).bump (Reg.l2Cnt c 0) 1
  | none => (s.l2Install c line (if strm then 3 else 1) dirty strm).bump (Reg.l2Cnt c 1) 1

/-- A clean L1 victim offered to the L2 (R281). -/
def State.l2Offer (s : State) (c : Nat) (l : CLine) : State :=
  let k := s.cluAt c
  let line := l.line / 2
  let ls := waysOf k.l2 16 (l2Set line)
  let declined := (findLine ls line).isSome || l.strm || (lowestWay k.l2Off (fun x => !x.valid || x.age == 3) ls).isNone || decide (24 ≤ k.victims.length) ||
    !(s.bit (Reg.l2Ctrl c) 2)
  if declined then s.bump (Reg.l2Cnt c 3) 1
  else (s.l2Install c line 2 false false).bump (Reg.l2Cnt c 2) 1

/-- An L2 line that a demand miss brings, or the L2's own copy made young: a line of which a sector cannot be corrected is not kept (R252, R278, R280). -/
def State.l2Fill (s : State) (pos a : Nat) (strm : Bool) : State :=
  if !((s.cluAt (pos / 13)).l2Has (a / 128)) && (s.firstBad (some pos) (a / 128 * 128) 128).isSome then s.bump (Reg.l2Cnt (pos / 13) 1) 1
  else s.l2Access (pos / 13) (a / 128) strm false

/-! ### L1 and side buffer -/

/-- The other half of a 128-byte line. -/
def otherHalf (line : Nat) : Nat := line ^^^ 1

/-- A dirty L1 line written back into the L2 of its cluster, which always accepts it (R281). Its other half follows where the L1 holds it dirty, so that the
dirty data of the line stands in one cache (R291; log row 182). -/
def State.halvesBack (s : State) (pos : Nat) (l : CLine) : State :=
  let o := otherHalf l.line
  let s := s.writeBad (l1Id pos) (64 * l.line) 64
  let s := if s.l1Dirty pos o then (s.writeBad (l1Id pos) (64 * o) 64).onL1 pos o CLine.clean else s
  s.l2Install (pos / 13) (l.line / 2) 1 true l.strm

/-- A way of an L1 disabled until device reset, counted in L2.WAYOFF: its lines leave, the dirty ones for the L2 (R287). -/
def State.l1WayOff (s : State) (pos way : Nat) : State :=
  let x := (s.coreAt pos).caches
  if x.l1Off.contains way then s
  else
    let s := s.setCaches pos { x with l1 := x.l1.filter fun y => y.1 % 8 ≠ way, l1Off := x.l1Off ++ [way] }
    let s := (x.l1.filter fun y => y.1 % 8 = way).foldl (fun s y => if y.2.valid && y.2.dirty then s.halvesBack pos y.2 else s) s
    let r := Reg.l2Wayoff (pos / 13)
    s.put r (s.raw r + 1)

/-- A dirty line that leaves way `way` of an L1 for the L2; one whose tag has gone bad takes its way with it (R287). -/
def State.writeBack (s : State) (pos way : Nat) (l : CLine) : State :=
  let tag := s.tagBad (l1Id pos) (64 * l.line) 64
  let s := s.halvesBack pos l
  if tag then s.l1WayOff pos way else s

/-- A line put into the L1 of a position; a dirty victim is written back into the L2, a clean one is offered (R281). -/
def State.l1Install (s : State) (pos line age : Nat) (dirty strm : Bool) : State :=
  let x := (s.coreAt pos).caches
  let set := line % 128
  let ls := waysOf x.l1 8 set
  match victimWay x.l1Off 4 ls with
  | none => if dirty then s.halvesBack pos ⟨true, line, age, true, strm⟩ else s
  | some (w, ls) =>
    let old := ls.getD w (emptyLine 0)
    let s := (s.setCaches pos { x with l1 := putWays x.l1 8 set (setAt ls w ⟨true, line, age, dirty, strm⟩) }).forget (l1Id pos) (64 * line) 64
    if !old.valid then s
    else if old.dirty then s.writeBack pos w old
    else s.l2Offer (pos / 13) old

/-- A hit in the L1: the line becomes young, and dirty at a write. -/
def State.l1Hit (s : State) (pos line : Nat) (write : Bool) : State :=
  s.onL1 pos line fun l => { l with age := 0, dirty := l.dirty || write }

/-- A dirty L1 line written to its tier; its copy stays, clean. -/
def State.l1ToMem (s : State) (pos line : Nat) : State :=
  let way := findLine (waysOf (s.coreAt pos).caches.l1 8 (line % 128)) line
  let tag := s.tagBad (l1Id pos) (64 * line) 64
  let s := ((s.writeBad (l1Id pos) (64 * line) 64).toMem (64 * line) 64).onL1 pos line CLine.clean
  match tag, way with
  | true, some w => s.l1WayOff pos w
  | _, _ => s

/-- A dirty L2 line written to its tier, out of its victim buffer as well; a copy stays, clean. -/
def State.l2ToMem (s : State) (c line : Nat) : State :=
  let way := findLine (waysOf (s.cluAt c).l2 16 (l2Set line)) line
  let tag := s.tagBad (l2Id c) (128 * line) 128
  let s := ((s.toMemory c line).onL2 c line CLine.clean).modClu c fun k => { k with victims := k.victims.filter fun v => v.1 != line }
  match tag, way with
  | true, some w => s.l2WayOff c w
  | _, _ => s

/-- A side-buffer entry of a position dropped, counted in L2.PFDROP. -/
def State.dropSide (s : State) (pos line : Nat) : State :=
  let x := (s.coreAt pos).caches
  if line ∈ x.side then (s.setCaches pos { x with side := x.side.filter (· ≠ line) }).bump (Reg.l2Cnt (pos / 13) 5) 1 else s

/-! ### The data prefetcher (R284 to R286) -/

/-- The lines a stream wants: up to 4 ahead of `line`, inside its 2 MiB page. -/
def streamAhead (line : Nat) (stride : Int) : List Nat :=
  (upto 4).filterMap fun (i : Nat) =>
    let t : Int := (line : Int) + stride * ((i : Int) + 1)
    if 0 ≤ t ∧ t.toNat / 2 ^ 15 = line / 2 ^ 15 then some t.toNat else none

/-- L2 fill buffers of a cluster in use: demand fills and prefetch fills of its cores (R278). -/
def State.fillsOf (s : State) (c : Nat) : Nat :=
  (upto 13).foldl (fun n p => let x := s.coreAt (13 * c + p); n + x.caches.pfFills.length + (x.work.loads.filter (·.mem)).length) 0

/-- A prefetch of one line: dropped when the page check fails, or when no fill buffer is free, or when the line is present (R285). -/
def State.prefetch (s : State) (pos line : Nat) : State :=
  let x := (s.coreAt pos).caches
  let c := pos / 13
  if !(s.bit (Reg.l2Ctrl c) 0) || x.l1Has line || line ∈ x.side || x.pfFills.any (fun f => f.line == line) then s
  else
    let s := s.touchPage c (some pos) (line * 64)
    if (s.checkPage (some c) (some pos) .read (line * 64)).isSome || !(s.pageC (some c) (some pos) (line * 64)) || 64 ≤ s.fillsOf c then s
    else
      let r := if s.held none (line * 64) then (s, none) else s.request c (line * 64)
      let x := (r.1.coreAt pos).caches
      r.1.setCaches pos { x with pfFills := x.pfFills ++ [⟨line, false, r.2⟩] }

/-- A stream as it stands after a miss that fits it: the first two misses set the stride, later ones confirm it. -/
def PfStream.miss (t : PfStream) (line : Nat) : Option PfStream :=
  let d : Int := (line : Int) - t.last
  if d = 0 ∨ 32 < d.natAbs then none
  else if t.count = 1 then some { t with last := line, stride := d, count := 2 }
  else if d = t.stride then some { t with last := line, count := 3 }
  else none

/-- Training on a demand miss (R284): the stream it fits moves to the front; a miss that fits none replaces the least recently
trained of 8. -/
def State.train (s : State) (pos line : Nat) : State :=
  if !(s.bit (Reg.l2Ctrl (pos / 13)) 0) then s
  else
    let x := (s.coreAt pos).caches
    match x.streams.findIdx? (fun t => (t.miss line).isSome) with
    | some i =>
      match (x.streams.getD i ⟨0, 0, 0, 0⟩).miss line with
      | some t =>
        let s := s.setCaches pos { x with streams := t :: dropAt x.streams i }
        if t.count = 3 then (streamAhead line t.stride).foldl (fun s l => s.prefetch pos l) s else s
      | none => s
    | none => s.setCaches pos { x with streams := (⟨line, 0, 1, 0⟩ :: x.streams).take 8 }

/-- A demand access that finds its line in the side buffer: the entry moves into the L1, and its stream asks for one line further. -/
def State.sideUse (s : State) (pos line : Nat) (write : Bool) : State :=
  let x := (s.coreAt pos).caches
  let strm := s.pageStrm (some (pos / 13)) (some pos) (line * 64)
  let s := s.setCaches pos { x with side := x.side.filter (· ≠ line) }
  let s := (s.l1Install pos line 1 write strm).bump (Reg.l2Cnt (pos / 13) 4) 1
  let x := (s.coreAt pos).caches
  match x.streams.findIdx? (fun t => t.count == 3 && (streamAhead t.last t.stride).contains line) with
  | some i =>
    let t := x.streams.getD i ⟨0, 0, 0, 0⟩
    let s := s.setCaches pos { x with streams := setAt x.streams i { t with last := line } }
    (streamAhead line t.stride).foldl (fun s l => s.prefetch pos l) s
  | none => s

/-! ### Coherence (R286, R291) -/

/-- No cluster, or one. -/
def noClu (_ : Nat) : Bool := false
def onlyClu (c d : Nat) : Bool := d == c

/-- Dirty copies of a 128-byte line written to its tier before another agent takes the line, so that no dirty data is lost and one cache at most holds any
(R291; log row 182). `keepPos` names a position whose L1 copies stay as they are, `keepClu` the clusters whose L2 copies do. -/
def State.flushLine (s : State) (keepPos : Option Nat) (keepClu : Nat → Bool) (line : Nat) : State :=
  if !(s.dirtySomewhere line) then s
  else
    let s := s.cores.foldl (fun s p =>
      if keepPos = some p.1 then s
      else [2 * line, 2 * line + 1].foldl (fun s l => if s.l1Dirty p.1 l then (s.reach (wbWho (p.1 / 13)) (64 * l)).l1ToMem p.1 l else s) s) s
    s.clusters.foldl (fun s p => if !(keepClu p.1) && s.l2Dirty p.1 line then (s.reach (wbWho p.1) (128 * line)).l2ToMem p.1 line else s) s

/-- Copies of a 128-byte line in the L1s, side buffers and L2s other than the writer's, invalidated; prefetch fills of the line in
flight lose their data. `keepPos` names a position whose L1 copy stays, `keepClu` the clusters whose L2 copies stay. -/
def State.invalidateOthers (s : State) (keepPos : Option Nat) (keepClu : Nat → Bool) (line128 : Nat) : State :=
  let hit (l : Nat) : Bool := l / 2 = line128
  let s := s.cores.foldl (fun s p =>
    let x := (s.coreAt p.1).caches
    let dead := (x.side.filter hit).length
    let s := if dead = 0 then s else s.bump (Reg.l2Cnt (p.1 / 13) 5) dead
    let l1 := if keepPos = some p.1 then x.l1
              else Sparse.mapAll emptyLine (fun _ l => if l.valid && hit l.line then l.gone else l) x.l1
    s.setCaches p.1 { x with l1 := l1, side := x.side.filter (fun l => !hit l), pfFills := x.pfFills.map fun f => if hit f.line then { f with dead := true } else f }) s
  s.clusters.foldl (fun s p =>
    if keepClu p.1 then s
    else s.modClu p.1 fun k =>
      { k with l2 := Sparse.mapAll emptyLine (fun _ l => if l.valid && l.line = line128 then l.gone else l) k.l2
               victims := k.victims.filter fun v => v.1 != line128 }) s

/-- The line taken by one writer: dirty copies elsewhere are written to memory, and all other copies go. -/
def State.takeLine (s : State) (keepPos : Option Nat) (keepClu : Nat → Bool) (line : Nat) : State :=
  (s.flushLine keepPos keepClu line).invalidateOthers keepPos keepClu line

/-- The 128-byte lines of a range of tier bytes. -/
def linesOf (a n : Nat) : List Nat := if n = 0 then [] else (upto ((a + n - 1) / 128 - a / 128 + 1)).map fun i => a / 128 + i

/-- Is the address in a memory that the caches of the device may hold (reel, felt, host)? -/
def State.cachedPlace (s : State) (own : Option Nat) (a : Nat) : Bool :=
  match s.locate own a with
  | .tier _ => true
  | .host n _ => s.bit (Reg.hifHwinCfg n) 2
  | _ => false

/-- The dirty L1 halves of a line written back into the L2s that hold it. -/
def State.halvesIn (s : State) (line : Nat) : State :=
  s.cores.foldl (fun s p =>
    if ((s.cluAt (p.1 / 13)).l2Line line).isNone then s
    else [2 * line, 2 * line + 1].foldl (fun s l =>
      let ls := waysOf (s.coreAt p.1).caches.l1 8 (l % 128)
      match findLine ls l with
      | some w => if (ls.getD w (emptyLine 0)).dirty then ((s.writeBack p.1 w (ls.getD w (emptyLine 0))).onL1 p.1 l CLine.clean) else s
      | none => s) s) s

/-- What the caches give up before an agent outside the cores writes (R281): a dirty L1 copy goes into its L2 when that holds the line and the write does not
stream; other dirty copies that the write invalidates go to memory. -/
def State.yieldLines (s : State) (strm : Bool) (a n : Nat) : State :=
  (linesOf a n).foldl (fun s l =>
    if !(s.dirtySomewhere l) then s else ((if strm then s else s.halvesIn l).flushLine none (fun _ => !strm) l)) s

/-- What a write by an agent outside the cores does to cached copies (R281, R286): L1 copies and side-buffer entries go; L2 copies are
updated in place unless the write streams. -/
def State.agentWrote (s : State) (strm : Bool) (a n : Nat) : State := (linesOf a n).foldl (fun s l => s.invalidateOthers none (fun _ => !strm) l) s

/-- A store of a core to cacheable memory: the line enters its L1 dirty, and every other copy goes, but for the one in its own L2, which is not dirty any more
(R278, R291). A whole line written needs no fill from the L2; a line found in the side buffer moves into the L1 (R285). -/
def State.coreWrote (s : State) (pos a : Nat) (whole : Bool) : State :=
  let c := pos / 13
  let line := a / 64
  let strm := s.pageStrm (some c) (some pos) a
  let s := s.flushLine (some pos) noClu (a / 128)
  let x := (s.coreAt pos).caches
  let s :=
    if x.l1Has line then s.l1Hit pos line true
    else if line ∈ x.side then s.sideUse pos line true
    else (if whole then s else s.l2Fill pos a strm).l1Install pos line (if strm then 3 else 1) true strm
  s.invalidateOthers (some pos) (onlyClu c) (a / 128)

/-- A load of a core from cacheable memory that has missed its L1 and side buffer: the L2 line, then the L1 line (R255, R278). -/
def State.coreFilled (s : State) (pos a : Nat) : State :=
  let strm := s.pageStrm (some (pos / 13)) (some pos) a
  let good := (s.firstBad (some pos) (a / 64 * 64) 64).isNone
  let s := s.l2Fill pos a strm
  if (s.coreAt pos).caches.l1Has (a / 64) || !good then s else s.l1Install pos (a / 64) (if strm then 3 else 1) false strm

/-- A load of a core from cacheable memory, whole: hit, side buffer, or fill with training (R284). -/
def State.coreRead (s : State) (pos a : Nat) : State :=
  let x := (s.coreAt pos).caches
  if x.l1Has (a / 64) then s.l1Hit pos (a / 64) false
  else if a / 64 ∈ x.side then s.sideUse pos (a / 64) false
  else (s.train pos (a / 64)).coreFilled pos a

/-! ### Maintenance (R289, R290, R303) -/

/-- The caches of a position with nothing in them; a way disabled stays disabled until device reset (R287). -/
def Caches.emptied (x : Caches) : Caches := { Caches.reset with l1Off := x.l1Off }

/-- The caches of a position emptied, its program store included; its dirty lines are written back into the L2, and the side buffer's entries
count as dropped (R281, R284, R303). -/
def State.drainL1 (s : State) (pos : Nat) : State :=
  let x := (s.coreAt pos).caches
  let s := if x.side.isEmpty then s else s.bump (Reg.l2Cnt (pos / 13) 5) x.side.length
  let s := x.l1.foldl (fun s p => if p.2.valid && p.2.dirty then s.writeBack pos (p.1 % 8) p.2 else s) s
  s.setCaches pos (s.coreAt pos).caches.emptied

/-- Clean and invalidate by address (R289): dirty copies of the line in the core's L1 and its cluster's L2 are written to memory. -/
def State.cleanCopies (s : State) (pos a : Nat) (inval : Bool) : State :=
  let c := pos / 13
  let w : Who := { agent := 1, lcid := s.lcidOf pos, clu := c }
  let s := if s.l1Dirty pos (a / 64) then (s.reach w a).l1ToMem pos (a / 64) else s
  let s := if s.l2Dirty c (a / 128) then (s.reach w a).l2ToMem c (a / 128) else s
  (s.onL1 pos (a / 64) (cleanLine inval)).onL2 c (a / 128) (cleanLine inval)

end Sys2Proof.Machine
end

