-- ==== Sys2Proof/Machine/Access.lean ====
section
/-! DEFINITION. Accesses to memory: errors met in caches (R287), reads and the fills of lines (R247, R252), writes with their merges (R520), stores of agents outside
the cores (R281), and watermarks (R442). -/

namespace Sys2Proof.Machine

/-! ### Errors in caches (R287) -/

/-- The way of cache `k` that holds the line of an address, disabled. A side buffer has no ways: its entry goes. -/
def State.cacheWayOff (s : State) (k a : Nat) : State :=
  if k < 1300 then
    match findLine (waysOf (s.coreAt k).caches.l1 8 (a / 64 % 128)) (a / 64) with
    | some w => s.l1WayOff k w
    | none => s
  else if k < 2600 then s.dropSide (k - 1300) (a / 64)
  else
    match findLine (waysOf (s.cluAt (k - 2600)).l2 16 (l2Set (a / 128))) (a / 128) with
    | some w => s.l2WayOff (k - 2600) w
    | none => s

/-- The line of an address in cache `k`, as its first byte and its length. -/
def cacheLine (k a : Nat) : Nat × Nat := if k < 2600 then (a / 64 * 64, 64) else (a / 128 * 128, 128)

/-- The copy of a line in cache `k` invalidated. -/
def State.dropCopy (s : State) (k a : Nat) : State :=
  if k < 1300 then s.onL1 k (a / 64) CLine.gone else if k < 2600 then s.dropSide (k - 1300) (a / 64) else s.onL2 (k - 2600) (a / 128) CLine.gone

/-- An error of the kind that the outside world reports, put into the copy that supplies position `pos` with the word at an address; a tag stands for every
word of its line. A line that no cache holds has none. -/
def State.upset (s : State) (pos : Nat) (x : Nat × CacheErr) : State :=
  match s.copiesAt (some pos) x.1 with
  | [] => s
  | c :: _ =>
    let u := cacheUnit c.1 x.1
    let l := cacheLine c.1 x.1
    match x.2 with
    | .corrected => if 2 ≤ s.errAt u then s else s.setErr u 1
    | .data => if s.errAt u = 3 then s else s.setErr u 2
    | .tag => (upto (l.2 / 8)).foldl (fun s i => s.setErr (cacheUnit c.1 (l.1 + 8 * i)) 3) s

/-- Clean copies of the word at an address that an access of an agent finds bad: each is invalidated, its way disabled when its tag has gone bad, and the line
is fetched again; event class 0x01. -/
def State.shedWord (s : State) (w : Who) (own : Option Nat) (a : Nat) : State :=
  ((s.copiesAt own a).takeWhile (s.spoilt a)).foldl (fun s c =>
    let u := cacheUnit c.1 a
    let l := cacheLine c.1 a
    let tag := s.errAt u = 3
    let s := s.metCorrected w.lcid u
    (if tag then s.cacheWayOff c.1 a else s.dropCopy c.1 a).forget c.1 l.1 l.2) s

/-- As `shedWord`, over the words of a range. -/
def State.shed (s : State) (w : Who) (own : Option Nat) (a n : Nat) : State :=
  if n = 0 then s
  else (upto ((a + n - 1) / 8 - a / 8 + 1)).foldl (fun s i => s.shedWord w own (if i = 0 then a else (a / 8 + i) * 8)) s

/-- After an access that met an uncorrectable tag of a dirty line: the data of the line, which cannot be found again, is written as read, and the way is
disabled (log row 142). -/
def State.tagLost (s : State) (u : Nat) : State :=
  if s.errAt u ≠ 3 then s
  else
    let k := unitCache u
    let l := cacheLine k (unitAddr u)
    ((upto (l.2 / 8)).foldl (fun s i => s.asRead (cacheUnit k (l.1 + 8 * i))) s).cacheWayOff k (unitAddr u)

/-- A unit met by an access: whether it cannot be corrected, with the reports. A word of a cache line that has been corrected holds the corrected data. -/
def State.meetUnit (s : State) (w : Who) (u : Nat) : State × Bool :=
  let s := s.reach w u
  if s.isBad u then ((s.metBad w.agent w.lcid u).tagLost u, true)
  else if s.errAt u = 1 then
    let s := s.metCorrected w.lcid u
    (if 2 ^ 56 ≤ u then s.setErr u 0 else s, false)
  else (s, false)

/-! ### Reads -/

/-- Units met one after the other. -/
def State.meetUnits (s : State) (w : Who) (us : List Nat) : State × Bool :=
  us.foldl (fun (acc : State × Bool) u => let r := acc.1.meetUnit w u; (r.1, acc.2 || r.2)) (s, false)

/-- The errors that a read of a range meets: the state after its reports, and whether data is uncorrectable. -/
def State.readMeets (s : State) (w : Who) (own : Option Nat) (a n : Nat) : State × Bool :=
  let s := (s.waitLdm own a).shed w own a n
  let r := s.meetUnits w (s.unitsOf own a n)
  (r.1, r.2 || s.hostLost own a)

/-- What a fill of a 128-byte line meets outside the `n` bytes at `a` that the access wants (R247, R252, R254). -/
def State.fillMeets (s : State) (w : Who) (own : Option Nat) (a n : Nat) : State :=
  let mine := s.unitsOf own a n
  (s.meetUnits w ((s.unitsOf own (a / 128 * 128) 128).filter fun u => !(mine.contains u))).1

/-- As `readMeets`, for one request of a headbox: of several units that cannot be corrected the first alone is reported (R78). -/
def State.requestMeets (s : State) (w : Who) (own : Option Nat) (a n : Nat) : State × Bool :=
  let s := (s.waitLdm own a).shed w own a n
  let us := s.unitsOf own a n
  let bad := us.find? fun u => s.isBad u
  s.meetUnits w (us.filter fun u => !(s.isBad u) || some u == bad)

/-- The bytes of a range as a read delivers them: sound data as it is, and units that cannot be corrected as they read (R78). -/
def State.bytesAsRead (s : State) (own : Option Nat) (a n : Nat) : State × List Byte :=
  let r := ((s.unitsOf own a n).filter fun u => s.isBad u).foldl (fun (acc : State × List (Nat × List Byte)) u =>
    let q := acc.1.unitAsRead u
    (q.1, acc.2 ++ [(u, q.2)])) (s, [])
  (r.1, (upto n).map fun i =>
    match (s.unitAt own (a + i)).bind fun u => (r.2.find? fun x => x.1 == u).map fun x => x.2.getD ((a + i) % unitLen u) 0 with
    | some b => b
    | none => s.byte own (a + i))

/-- Every request that an access of a long range makes reaches its unit: nothing waits where no channel is in a window and no bank queue is full. -/
def State.reachRange (s : State) (w : Who) (a n : Nat) : State :=
  if ((upto 1280).any fun ch => s.bit (Reg.memChStat ch) 4) || (s.mem.bankq.any fun q => decide (16 ≤ q.2.queue.length)) || !s.mem.parked.isEmpty then
    (linesOf a n).foldl (fun s l => s.reach w (128 * l)) s
  else s

/-! ### Writes -/

/-- The unit that a write meets at an address. A write that goes past clean copies meets the unit in memory, unless some cache holds the line dirty (R281). -/
def State.writeUnit (s : State) (w : Who) (own : Option Nat) (a : Nat) : Option Nat :=
  if !w.thru then s.unitAt own a else if s.dirtySomewhere (a / 128) then s.unitAt none a else (s.locate own a).unit

/-- A write of bytes that lie in one unit of protection: merges when it is smaller than the unit, and fails when the merge meets an
uncorrectable error (R520), or the tag of the line cannot be read (R287). A line that a cache holds takes the bytes there. Bytes for host memory that cannot be reached are
lost (R381). Answers whether it failed. -/
def State.storeUnit (s : State) (w : Who) (own : Option Nat) (tag : Tag) (a : Nat) (bs : List Byte) : State × Bool :=
  let l := s.locate own a
  let s := (s.waitWrite own a).shed w own a bs.length
  match l with
  | .csr _ | .hole => (s, false)
  | _ =>
    if s.hostLost own a then (s.linkEvent 10 0 w.lcid a 0 0 0, false)
    else match s.writeUnit w own a with
    | none => (s.setBytes own tag a bs, false)
    | some u =>
      let s := s.reach w u
      if bs.length < unitLen u ∨ s.errAt u = 3 then
        if s.isBad u then ((s.metBad w.agent w.lcid u).tagLost u, true)
        else
          let s := if s.errAt u = 1 then ((s.metCorrected w.lcid u).setErr u 0).rewritten u else s.rewritten u
          (s.setBytes own tag a bs, false)
      else (((s.setErr u 0).rewritten u).setBytes own tag a bs, false)

/-- Bytes of a write up to the end of the unit of protection that holds its first byte. -/
def State.unitRoom (s : State) (w : Who) (own : Option Nat) (a : Nat) : Nat :=
  let k := match s.locate own a with
    | .tier _ | .ldm _ _ => ((s.writeUnit w own a).map unitLen).getD 8
    | _ => 8
  k - a % k

/-- A write of any bytes, unit by unit in ascending order; answers the addresses of the bytes that were not stored. -/
def State.storeAll (w : Who) (own : Option Nat) (tag : Tag) : Nat → State → Nat → List Byte → State × List Nat
  | 0, s, _, _ => (s, [])
  | n + 1, s, a, bs =>
    if bs.isEmpty then (s, [])
    else
      let k := s.unitRoom w own a
      let (s, bad) := s.storeUnit w own tag a (bs.take k)
      let (s, rest) := State.storeAll w own tag n s (a + k) (bs.drop k)
      (s, if bad then (upto (min k bs.length)).map (a + ·) ++ rest else rest)

/-- A write of any bytes. -/
def State.store (s : State) (w : Who) (own : Option Nat) (tag : Tag) (a : Nat) (bs : List Byte) : State × List Nat :=
  State.storeAll w own tag bs.length s a bs

/-- A store of an agent outside the cores, or of a core where its caches take no copy, with its effect on cached copies (R281, R286, R291). Bytes for a line
that the caches may hold go to memory, or into the one L2 that holds the line dirty. -/
def State.agentStore (s : State) (w : Who) (own : Option Nat) (strm : Bool) (a : Nat) (bs : List Byte) (tag : Tag := 0xE) : State × List Nat :=
  if s.cachedPlace own a then
    let r := (s.yieldLines strm a bs.length).store { w with thru := true } own tag a bs
    (r.1.agentWrote strm a bs.length, r.2)
  else s.store w own tag a bs

/-! ### Watermarks (R442) -/

/-- A watermark written for a destination block that a window guards (R442); answers the shadow address when the write of the word fails (R520). -/
def State.wmStore (s : State) (w : Who) (ws : List WmWin) (a value : Nat) : State × Option Nat :=
  match shadowOf ws a with
  | none => (s, none)
  | some sh => let r := s.agentStore w none false sh (leBytes 4 value); (r.1, r.2.head?)

/-- What the check of a block by its watermark finds: it passes, its shadow word cannot be corrected, or the stored and the computed watermark differ. -/
inductive WmOut where
  | pass
  | bad
  | miss (stored comp : Nat)
  deriving DecidableEq, Repr

/-- The check of a block by its watermark (R442), with the errors that the read of its shadow word meets. -/
def State.wmCheck (s : State) (w : Who) (ws : List WmWin) (own : Option Nat) (a : Nat) : State × WmOut :=
  match shadowOf ws a with
  | none => (s, .pass)
  | some sh =>
    let r := s.readMeets w none sh 4
    let stored := r.1.num none sh 4
    let comp := watermark (r.1.bytes own a 4096)
    (r.1, if r.2 then .bad else if stored = comp then .pass else .miss stored comp)

end Sys2Proof.Machine
end

