-- ==== Sys2Proof/Machine/Num.lean ====
section
/-! DEFINITION. Number formats, exact values and the rounding functions of "Number formats, accumulation and
reproducibility" (R190 to R197, R206 to R208, R529, R530). -/

namespace Sys2Proof.Machine

/-- A floating format (R190). `special` is 0 for the formats with an infinity, 1 for E4M3 and 2 for E2M1. -/
structure Fmt where
  ebits : Nat
  fbits : Nat
  bias : Nat
  special : Nat
  deriving DecidableEq, Repr

def fp64 : Fmt := ⟨11, 52, 1023, 0⟩
def fp32 : Fmt := ⟨8, 23, 127, 0⟩
def w48 : Fmt := ⟨8, 39, 127, 0⟩
def bf16 : Fmt := ⟨8, 7, 127, 0⟩
def fp16 : Fmt := ⟨5, 10, 15, 0⟩
def e4m3 : Fmt := ⟨4, 3, 7, 1⟩
def e5m2 : Fmt := ⟨5, 2, 15, 0⟩
def e2m1 : Fmt := ⟨2, 1, 1, 2⟩

/-- Width in bits. -/
def Fmt.width (f : Fmt) : Nat := 1 + f.ebits + f.fbits

/-- An exact value: a NaN (signalling or quiet), an infinity, or `(−1)^neg × m × 2^e` with a signed zero. -/
inductive Num where
  | nan (sig : Bool)
  | inf (neg : Bool)
  | fin (neg : Bool) (m : Nat) (e : Int)
  deriving DecidableEq, Repr

/-- The rounding modes of R194. -/
inductive RMode where
  | near | zero | plus | minus
  deriving DecidableEq, Repr

/-- The mode that MODE.FRM selects (R83). -/
def RMode.ofFrm (n : Nat) : RMode :=
  match n % 4 with
  | 0 => .near
  | 1 => .zero
  | 2 => .plus
  | _ => .minus

/-- Exception flags NV, DZ, OF, UF, NX from bit 4 to bit 0, as SFLAGS, VFLAGS and CAL.FLAGS lay them out (R84, R139, R234). -/
abbrev FFlags := BitVec 5

def fNV : FFlags := 0b10000#5
def fDZ : FFlags := 0b01000#5
def fOF : FFlags := 0b00100#5
def fUF : FFlags := 0b00010#5
def fNX : FFlags := 0b00001#5

/-- Least exponent of a normal number. -/
def Fmt.emin (f : Fmt) : Int := 1 - (f.bias : Int)

/-- Exponent of the largest finite number. -/
def Fmt.emax (f : Fmt) : Int :=
  if f.special = 0 then (2 ^ f.ebits : Nat) - 2 - (f.bias : Int) else (2 ^ f.ebits : Nat) - 1 - (f.bias : Int)

/-- Significand, as an integer of `fbits + 1` bits, of the largest finite number (E4M3 loses its NaN code). -/
def Fmt.maxSig (f : Fmt) : Nat := if f.special = 1 then 2 ^ (f.fbits + 1) - 2 else 2 ^ (f.fbits + 1) - 1

/-- The canonical NaN of R190 and R194: +0 in a format without NaN. -/
def Fmt.nanBits (f : Fmt) : Nat :=
  if f.special = 0 then (2 ^ f.ebits - 1) * 2 ^ f.fbits + 2 ^ (f.fbits - 1)
  else if f.special = 1 then 0x7F else 0

/-- The sign bit at its place. -/
def Fmt.signBits (f : Fmt) (neg : Bool) : Nat := if neg then 2 ^ (f.ebits + f.fbits) else 0

def Fmt.infBits (f : Fmt) (neg : Bool) : Nat := f.signBits neg + (2 ^ f.ebits - 1) * 2 ^ f.fbits

def Fmt.maxBits (f : Fmt) (neg : Bool) : Nat :=
  f.signBits neg + (f.emax + f.bias).toNat * 2 ^ f.fbits + (f.maxSig - 2 ^ f.fbits)

/-- The exact value of a bit pattern (R190). -/
def Fmt.unpack (f : Fmt) (x : Nat) : Num :=
  let fr := x % 2 ^ f.fbits
  let ex := (x >>> f.fbits) % 2 ^ f.ebits
  let neg := (x >>> (f.fbits + f.ebits)) % 2 = 1
  if f.special = 0 ∧ ex = 2 ^ f.ebits - 1 then
    if fr = 0 then .inf neg else .nan (decide (fr < 2 ^ (f.fbits - 1)))
  else if f.special = 1 ∧ ex = 2 ^ f.ebits - 1 ∧ fr = 2 ^ f.fbits - 1 then .nan false
  else if ex = 0 then .fin neg fr (f.emin - f.fbits)
  else .fin neg (2 ^ f.fbits + fr) ((ex : Int) - f.bias - f.fbits)

/-- Is the pattern a subnormal of the format? -/
def Fmt.isSubn (f : Fmt) (x : Nat) : Bool :=
  decide ((x >>> f.fbits) % 2 ^ f.ebits = 0) && decide (x % 2 ^ f.fbits ≠ 0)

/-- The value read under MODE.FTZ: a subnormal input reads as zero of the same sign (R529). -/
def Fmt.unpackZ (f : Fmt) (ftz : Bool) (x : Nat) : Num :=
  if ftz && f.isSubn x then .fin ((x >>> (f.fbits + f.ebits)) % 2 = 1) 0 0 else f.unpack x

/-- The E8M0 scale (R190): a power of two, or a quiet NaN. -/
def e8m0 (b : Nat) : Num := if b % 256 = 255 then .nan false else .fin false 1 ((b % 256 : Nat) - 127)

/-- `m / 2^sh` rounded to an integer under a mode, and whether it was inexact. -/
def roundShift (md : RMode) (neg : Bool) (m sh : Nat) : Nat × Bool :=
  let q := m >>> sh
  let r := m % 2 ^ sh
  let up : Bool :=
    if r = 0 then false else
    match md with
    | .near => if 2 * r > 2 ^ sh then true else if 2 * r = 2 ^ sh then decide (q % 2 = 1) else false
    | .zero => false
    | .plus => !neg
    | .minus => neg
  (if up then q + 1 else q, decide (r ≠ 0))

/-- `m × 2^e` rounded to a multiple of `2^qe`: the multiple, and whether it was inexact. -/
def roundAt (md : RMode) (neg : Bool) (m : Nat) (e qe : Int) : Nat × Bool :=
  if qe ≤ e then (m <<< (e - qe).toNat, false) else roundShift md neg m (qe - e).toNat

/-- floor(log2 of `m × 2^e`), for `m > 0`. -/
def numLog (m : Nat) (e : Int) : Int := (Nat.log2 m : Int) + e

/-- Is `q × 2^qe` above the largest finite number of the format? -/
def Fmt.over (f : Fmt) (q : Nat) (qe : Int) : Bool :=
  let d := qe - (f.emax - f.fbits)
  if 0 ≤ d then decide (f.maxSig < q <<< d.toNat) else decide (f.maxSig <<< (-d).toNat < q)

/-- Packs `q × 2^qe`, which the format represents. -/
def Fmt.pack (f : Fmt) (neg : Bool) (q : Nat) (qe : Int) : Nat :=
  if q = 0 then f.signBits neg else
  let L := numLog q qe
  if L < f.emin then f.signBits neg + (if f.emin - f.fbits ≤ qe then q <<< (qe - (f.emin - f.fbits)).toNat else q >>> (f.emin - f.fbits - qe).toNat)
  else
    let k := qe - (L - f.fbits)
    let sig := if 0 ≤ k then q <<< k.toNat else q >>> (-k).toNat
    f.signBits neg + (L + f.bias).toNat * 2 ^ f.fbits + (sig - 2 ^ f.fbits)

/-- Overflow of a format with an infinity, as IEEE 754-2019 gives for the mode (R194). -/
def Fmt.overflowBits (f : Fmt) (md : RMode) (neg : Bool) : Nat :=
  match md with
  | .near => f.infBits neg
  | .zero => f.maxBits neg
  | .plus => if neg then f.maxBits neg else f.infBits neg
  | .minus => if neg then f.infBits neg else f.maxBits neg

/-- round(F, m, x) of R194 with the flags of R195 and, under FTZ, the flushing of R529. -/
def Fmt.round (f : Fmt) (md : RMode) (ftz : Bool) (x : Num) : Nat × FFlags :=
  match x with
  | .nan _ => (f.nanBits, 0)
  | .inf neg => if f.special = 0 then (f.infBits neg, 0) else (f.maxBits neg, fOF ||| fNX)
  | .fin neg m e =>
    if m = 0 then (f.signBits neg, 0) else
    let L := numLog m e
    -- rounding with an unlimited exponent range
    let u := roundAt md neg m e (L - f.fbits)
    let uL := numLog u.1 (L - f.fbits)
    let tiny := decide (uL < f.emin)
    if f.special ≠ 0 then
      if f.over m e then (f.maxBits neg, fOF ||| fNX)
      else if tiny && ftz then (f.signBits neg, fUF ||| fNX)
      else
        let qe := max (L - f.fbits) (f.emin - f.fbits)
        let r := roundAt md neg m e qe
        (f.pack neg r.1 qe, (if r.2 then fNX else 0) ||| (if tiny && r.2 then fUF else 0))
    else if f.over u.1 (L - f.fbits) then (f.overflowBits md neg, fOF ||| fNX)
    else if tiny && ftz then (f.signBits neg, fUF ||| fNX)
    else
      let qe := max (L - f.fbits) (f.emin - f.fbits)
      let r := roundAt md neg m e qe
      (f.pack neg r.1 qe, (if r.2 then fNX else 0) ||| (if tiny && r.2 then fUF else 0))

/-- The rounded integer of a finite value. -/
def roundInt (md : RMode) (neg : Bool) (m : Nat) (e : Int) : Int × Bool :=
  let r := roundAt md neg m e 0
  (if neg then -(r.1 : Int) else (r.1 : Int), r.2)

/-- Conversion to an integer format with limits `lo` and `hi`: saturates, NaN gives 0, NV in both cases (R137, R194, R196). -/
def toIntSat (md : RMode) (lo hi : Int) (x : Num) : Int × FFlags :=
  match x with
  | .nan _ => (0, fNV)
  | .inf neg => (if neg then lo else hi, fNV)
  | .fin neg m e =>
    let r := roundInt md neg m e
    if r.1 < lo then (lo, fNV) else if hi < r.1 then (hi, fNV) else (r.1, if r.2 then fNX else 0)

/-- An integer as an exact value. -/
def Num.ofInt (i : Int) : Num := .fin (decide (i < 0)) i.natAbs 0

def Num.isSnan : Num → Bool
  | .nan s => s
  | _ => false

def Num.isNan : Num → Bool
  | .nan _ => true
  | _ => false

def Num.isZero : Num → Bool
  | .fin _ m _ => decide (m = 0)
  | _ => false

def Num.isInf : Num → Bool
  | .inf _ => true
  | _ => false

def Num.negative : Num → Bool
  | .nan _ => false
  | .inf n => n
  | .fin n _ _ => n

def Num.negate : Num → Num
  | .nan s => .nan s
  | .inf n => .inf (!n)
  | .fin n m e => .fin (!n) m e

/-- A signed finite value as mantissa and exponent. -/
def Num.sgn (neg : Bool) (m : Nat) : Int := if neg then -(m : Int) else (m : Int)

/-- Exact sum of two finite values; an exact zero from unlike signs is +0, or −0 towards minus infinity (IEEE 754-2019). -/
def addFin (md : RMode) (n1 : Bool) (m1 : Nat) (e1 : Int) (n2 : Bool) (m2 : Nat) (e2 : Int) : Num :=
  if m1 = 0 ∧ m2 = 0 then
    .fin (if n1 = n2 then n1 else decide (md = .minus)) 0 0
  else
    let e := min e1 e2
    let s := Num.sgn n1 (m1 <<< (e1 - e).toNat) + Num.sgn n2 (m2 <<< (e2 - e).toNat)
    if s = 0 then .fin (decide (md = .minus)) 0 0 else .fin (decide (s < 0)) s.natAbs e

/-- Exact addition, with NV for ∞ − ∞ and for a signalling NaN (R196). -/
def Num.add (md : RMode) (x y : Num) : Num × FFlags :=
  let sn : FFlags := if x.isSnan || y.isSnan then fNV else 0
  match x, y with
  | .nan _, _ => (.nan false, sn)
  | _, .nan _ => (.nan false, sn)
  | .inf a, .inf b => if a = b then (.inf a, 0) else (.nan false, fNV)
  | .inf a, _ => (.inf a, 0)
  | _, .inf b => (.inf b, 0)
  | .fin n1 m1 e1, .fin n2 m2 e2 => (addFin md n1 m1 e1 n2 m2 e2, 0)

/-- Exact product, with NV for 0 × ∞ and for a signalling NaN (R196). -/
def Num.mul (x y : Num) : Num × FFlags :=
  let sn : FFlags := if x.isSnan || y.isSnan then fNV else 0
  match x, y with
  | .nan _, _ => (.nan false, sn)
  | _, .nan _ => (.nan false, sn)
  | .inf a, .inf b => (.inf (a != b), 0)
  | .inf a, .fin b m _ => if m = 0 then (.nan false, fNV) else (.inf (a != b), 0)
  | .fin a m _, .inf b => if m = 0 then (.nan false, fNV) else (.inf (a != b), 0)
  | .fin a m1 e1, .fin b m2 e2 => (.fin (a != b) (m1 * m2) (e1 + e2), 0)

/-- Exact `x × y + z` (IEEE 754-2019 fusedMultiplyAdd); NV also when 0 × ∞ meets a quiet NaN addend. -/
def Num.fma (md : RMode) (x y z : Num) : Num × FFlags :=
  let p := Num.mul x y
  let r := Num.add md p.1 z
  (r.1, p.2 ||| r.2)

/-- Bits kept of a quotient or a root beyond every format's significand: the last bit then carries the inexactness. -/
def extraBits : Nat := 140

/-- Quotient of two non-zero finite magnitudes, cut to `extraBits` bits with a sticky last bit, so that every later
rounding to a format gives the rounding of the exact quotient. -/
def divMag (m1 : Nat) (e1 : Int) (m2 : Nat) (e2 : Int) : Nat × Int :=
  let k := extraBits + Nat.log2 m2 - Nat.log2 m1
  let q := (m1 <<< k) / m2
  let r := (m1 <<< k) % m2
  (2 * q + (if r = 0 then 0 else 1), e1 - e2 - k - 1)

/-- Division, with NV for 0/0 and ∞/∞ and DZ for a finite non-zero number over zero (R196, R84). -/
def Num.div (x y : Num) : Num × FFlags :=
  let sn : FFlags := if x.isSnan || y.isSnan then fNV else 0
  match x, y with
  | .nan _, _ => (.nan false, sn)
  | _, .nan _ => (.nan false, sn)
  | .inf _, .inf _ => (.nan false, fNV)
  | .inf a, .fin b _ _ => (.inf (a != b), 0)
  | .fin a _ _, .inf b => (.fin (a != b) 0 0, 0)
  | .fin a m1 e1, .fin b m2 e2 =>
    if m2 = 0 then (if m1 = 0 then (.nan false, fNV) else (.inf (a != b), fDZ))
    else if m1 = 0 then (.fin (a != b) 0 0, 0)
    else
      let d := divMag m1 e1 m2 e2
      (.fin (a != b) d.1 d.2, 0)

/-- Integer square root, one bit of the root at a time from bit `n − 1`. -/
def isqrtFrom : Nat → Nat → Nat → Nat
  | 0, _, r => r
  | n + 1, x, r => isqrtFrom n x (if (r + 2 ^ n) * (r + 2 ^ n) ≤ x then r + 2 ^ n else r)

/-- floor(√x). -/
def isqrt (x : Nat) : Nat := isqrtFrom (Nat.log2 x / 2 + 1) x 0

/-- Square root of a non-zero magnitude, cut with a sticky last bit. -/
def sqrtMag (m : Nat) (e : Int) : Nat × Int :=
  let k0 : Nat := 2 * extraBits
  let k : Nat := if (e - k0) % 2 = 0 then k0 else k0 + 1
  let x := m <<< k
  let r := isqrt x
  (2 * r + (if r * r = x then 0 else 1), (e - k) / 2 - 1)

/-- Square root: −0 stays −0, and a value below zero gives NV (R196). -/
def Num.sqrt (x : Num) : Num × FFlags :=
  match x with
  | .nan s => (.nan false, if s then fNV else 0)
  | .inf true => (.nan false, fNV)
  | .inf false => (.inf false, 0)
  | .fin n m e =>
    if m = 0 then (.fin n 0 0, 0)
    else if n then (.nan false, fNV)
    else
      let r := sqrtMag m e
      (.fin false r.1 r.2, 0)

/-- The order of two values: none when a NaN takes part. -/
inductive Cmp where
  | lt | eq | gt | un
  deriving DecidableEq, Repr

def cmpInt (a b : Int) : Cmp := if a < b then .lt else if a = b then .eq else .gt

def Num.cmp (x y : Num) : Cmp :=
  match x, y with
  | .nan _, _ => .un
  | _, .nan _ => .un
  | .inf a, .inf b => if a = b then .eq else if a then .lt else .gt
  | .inf a, _ => if a then .lt else .gt
  | _, .inf b => if b then .gt else .lt
  | .fin n1 m1 e1, .fin n2 m2 e2 =>
    let e := min e1 e2
    cmpInt (Num.sgn n1 (m1 <<< (e1 - e).toNat)) (Num.sgn n2 (m2 <<< (e2 - e).toNat))

/-- IEEE 754-2019 minimumNumber and maximumNumber: a number beats a NaN, and −0 lies below +0. -/
def Num.minMax (isMax : Bool) (x y : Num) : Num × FFlags :=
  let sn : FFlags := if x.isSnan || y.isSnan then fNV else 0
  if x.isNan then (if y.isNan then .nan false else y, sn)
  else if y.isNan then (x, sn)
  else
    let xLow : Bool :=
      match Num.cmp x y with
      | .lt => true
      | .gt => false
      | _ => x.negative || !y.negative
    (if xLow = isMax then y else x, 0)

/-- One arithmetic result: the exact value rounded once to the format, with all flags; NX and the other rounding
flags are not raised beside NV (R195). -/
def roundRes (f : Fmt) (md : RMode) (ftz : Bool) (r : Num × FFlags) : Nat × FFlags :=
  let o := f.round md ftz r.1
  if r.2 &&& fNV ≠ 0 then (o.1, r.2) else (o.1, o.2 ||| r.2)

/-- round_sr(F, x, r) of R207, with the flags of R530. -/
def Fmt.roundSr (f : Fmt) (x : Num) (r : Nat) : Nat × FFlags :=
  match x with
  | .fin neg m e =>
    if m = 0 then f.round .near false x else
    let qe := max (numLog m e - f.fbits) (f.emin - f.fbits)
    let z := roundAt .zero neg m e qe
    if !z.2 || f.over m e then f.round .near false x
    else
      -- d = floor of the fraction of a quantum above z, times 2^32
      let sh := (qe - e).toNat
      let d := ((m % 2 ^ sh) <<< 32) >>> sh
      let q := if r < d then z.1 + 1 else z.1
      let tiny := decide (q = 0) || decide (numLog q qe < f.emin)
      if f.over q qe then (f.infBits neg, fOF ||| fNX)
      else (f.pack neg q qe, fNX ||| (if tiny then fUF else 0))
  | _ => f.round .near false x

/-- mix of R208. -/
def srMix (x : Nat) : Nat :=
  let x := x ^^^ (x >>> 31)
  let x := (x * 0xC3A52F178B4D6E35) % 2 ^ 64
  let x := x ^^^ (x >>> 29)
  let x := (x * 0xA7B15C29E30F4D8B) % 2 ^ 64
  x ^^^ (x >>> 32)

/-- srbits(seed, step, tid, idx) of R208. -/
def srBits (seed step tid idx : Nat) : Nat :=
  let k := srMix (seed ^^^ 0x5F0E3A71C2D94B86)
  let k := srMix (k ^^^ step)
  let k := srMix (k ^^^ (tid <<< 32) ^^^ 0x9D2C5E13)
  let h := srMix (k ^^^ idx)
  let h := srMix ((h + k) % 2 ^ 64)
  h >>> 32

/-- The exact value of an MXFP4 element: an E2M1 code times its E8M0 scale (R191). -/
def mxfp4 (code scale : Nat) : Num := (Num.mul (e2m1.unpack code) (e8m0 scale)).1

end Sys2Proof.Machine
end

