-- ==== Sys2Proof/Machine/Caliper.lean ====
section
/-! DEFINITION. Caliper slots: what a counting write counts, and the clearing of a slot (R210 to R212, R235). -/

namespace Sys2Proof.Machine

/-- The floating format of an element format code: R126, extended by 10 for W48 (R210). -/
def fmtOfCode (code : Nat) : Option Fmt :=
  match code with
  | 0 => some fp64
  | 1 => some fp32
  | 2 => some bf16
  | 3 => some fp16
  | 8 => some e4m3
  | 9 => some e5m2
  | 10 => some w48
  | _ => none

/-- Bytes of an element of a format code. -/
def codeBytes (code : Nat) : Nat :=
  match code with
  | 0 | 4 => 8
  | 1 | 5 => 4
  | 2 | 3 | 6 => 2
  | 10 => 6
  | _ => 1

/-- What one element adds to ZERO, SUBN, SAT and NONFIN, and its exponent (R210). -/
structure ElemClass where
  zero : Bool
  subn : Bool
  sat : Bool
  nonfin : Bool
  exp : Option Int
  deriving DecidableEq, Repr

/-- The class of an element with bit pattern `x` (R210). -/
def elemClass (code x : Nat) : ElemClass :=
  match fmtOfCode code with
  | some f =>
    match f.unpack x with
    | .fin _ m e =>
      if m = 0 then ⟨true, false, false, false, none⟩
      else ⟨false, f.isSubn x, decide (f.maxBits false = x % 2 ^ (f.width - 1)), false, some (numLog m e)⟩
    | _ => ⟨false, false, false, true, none⟩
  | none =>
    let n := 8 * codeBytes code
    let v := sext n x
    if v = 0 then ⟨true, false, false, false, none⟩
    else ⟨false, false, decide (v = (2 ^ (n - 1) : Nat) - 1) || decide (v = -((2 ^ (n - 1) : Nat) : Int)), false, some (Nat.log2 v.natAbs : Int)⟩

/-- A slot that counts: number, first byte, byte after the range, format (R210). -/
structure CalSlot where
  j : Nat
  lo : Nat
  hi : Nat
  code : Nat
  deriving DecidableEq, Repr

/-- The slots that count, in ascending number. -/
def State.calSlots (s : State) : List CalSlot :=
  (upto 256).filterMap fun j =>
    if s.bit (Reg.numSlotCtrl j) 61 then
      let x : CalSlot := ⟨j, s.fld (Reg.numSlotCtrl j) 47 12 * 4096, s.fld (Reg.numSlotLimit j) 47 12 * 4096, s.fld (Reg.numSlotCtrl j) 51 48⟩
      if x.lo < x.hi ∧ x.code ≤ 10 then some x else none
    else none

/-- A count advanced by one; counts saturate (R235). -/
def State.countUp (s : State) (off : Nat) : State := s.put off (BitVec.ofNat 64 (min ((s.raw off).toNat + 1) (2 ^ 64 - 1)))

/-- One element counted in a slot; the first non-finite element after a clear posts event class 0x0C when ALARM = 1 (R210, R456). -/
def State.countElem (s : State) (j : Nat) (k : ElemClass) : State :=
  let first := k.nonfin && s.raw (Reg.numSlotCnt j 4) = 0
  let up (b : Bool) (i : Nat) (s : State) : State := if b then s.countUp (Reg.numSlotCnt j i) else s
  let s := up true 0 s
  let s := up k.zero 1 s
  let s := up k.subn 2 s
  let s := up k.sat 3 s
  let s := up k.nonfin 4 s
  let s :=
    match k.exp with
    | none => s
    | some e =>
      if sext 16 (s.fld (Reg.numSlotExpmax j) 15 0) < e then s.putFld (Reg.numSlotExpmax j) 15 0 (toBits 16 e) else s
  if first && s.bit (Reg.numSlotCtrl j) 62 then
    s.post { cls := 0x0C, sev := 1, ukind := 0, uidx := 0, d0 := j
             d1 := (s.raw (Reg.numSlotCnt j 4)).toNat, d2 := (s.raw (Reg.numSlotCnt j 0)).toNat }
  else s

/-- The elements of a slot that bytes `a` to `a + n − 1` cover and that no lower slot holds, by their first bytes (R210, R211). -/
def CalSlot.covered (x : CalSlot) (lower : List CalSlot) (a n : Nat) : List Nat :=
  let sz := codeBytes x.code
  let e0 := cdiv (max a x.lo - x.lo) sz
  let e1 := (min (a + n) x.hi - x.lo) / sz
  ((upto (e1 - e0)).map fun i => x.lo + (e0 + i) * sz).filter fun ea => !(lower.any fun y => decide (y.lo ≤ ea) && decide (ea < y.hi))

/-- What a counting write of bytes at `a` adds to the slots (R211). -/
def State.count (s : State) (a : Nat) (bs : List Byte) : State :=
  let en := s.calSlots
  en.foldl (fun s x =>
    (x.covered (en.filter fun y => decide (y.j < x.j)) a bs.length).foldl (fun s ea =>
      s.countElem x.j (elemClass x.code (ofLe ((bs.drop (ea - a)).take (codeBytes x.code))))) s) s

/-- The address at which a write by a core counts: the window of its own LDM counts at the logical window of its logical id (R211). -/
def State.countAddr (s : State) (pos a : Nat) : Nat :=
  if ownBase ≤ a ∧ a < ownBase + 2 ^ 18 then logBase + s.lcidOf pos * 2 ^ 18 + (a - ownBase) else a

/-- The counts of a slot cleared, EXPMAX at −32,768 (R210, R225, R235). -/
def State.clearSlot (s : State) (j : Nat) : State :=
  ((upto 5).foldl (fun s i => s.put (Reg.numSlotCnt j i) 0) s).put (Reg.numSlotExpmax j) 0x8000

end Sys2Proof.Machine
end

