-- ==== Sys2Proof/Machine/Flags.lean ====
section
/-! DEFINITION. Every flag computation of the manual: floating exception flags and trap enables (R63, R83, R84, R138, R139), bank
status words (R164) and calender flags (R234). -/

namespace Sys2Proof.Machine

/-- The low five bits of SFLAGS, VFLAGS or CAL.FLAGS with a set of conditions added (R84, R139). -/
def orFlags (w : Word) (f : FFlags) : Word := w ||| BitVec.setWidth 64 f

/-- A W1C write of a flag register of five bits (R84, R139). -/
def w1cFlags (w v : Word) : Word := (w &&& ~~~v) &&& 0x1F

/-- Does a condition meet its enable in MODE.TRAPEN, NV to NX from bit 7 to bit 3 (R63, R83)? -/
def traps (mode : Word) (f : FFlags) : Bool := (BitVec.ofNat 5 (wfld mode 7 3)) &&& f ≠ 0

/-- Rounding mode and flush mode that MODE selects (R83). -/
def modeFrm (mode : Word) : RMode := RMode.ofFrm (wfld mode 1 0)
def modeFtz (mode : Word) : Bool := wfld mode 2 2 = 1

/-- The conditions of a bank addition in the layout of ASTAT: NV, OF, UF, NX at bits 4 to 1 (R164). -/
def astatOf (f : FFlags) : Nat :=
  b2n (f &&& fNV ≠ 0) * 16 + b2n (f &&& fOF ≠ 0) * 8 + b2n (f &&& fUF ≠ 0) * 4 + b2n (f &&& fNX ≠ 0) * 2

end Sys2Proof.Machine
end

