-- ==== Sys2Proof/Machine/Operands.lean ====
section
/-! DEFINITION. Operand forms of a core: scalar registers by privilege (R37, R38), vector and mask elements (R124, R125), modes in
force (R69), the checks of a data address (R13, R56, R70, R90, R236 to R241, R371), and the caches that an access meets (R277). -/

namespace Sys2Proof.Machine

/-! ### Registers -/

/-- The key of scalar register `r`: number 31 names the user stack pointer in user state and KSP, key 32, in supervisor state (R38). -/
def regKey (priv : Bool) (r : Nat) : Nat := if r = 31 ∧ priv then 32 else r

/-- A scalar register by its key. -/
def Arch.reg (a : Arch) (k : Nat) : Tagged := if k = 32 then a.spr.ksp else Sparse.get emptyReg a.sregs k

/-- A scalar register written. -/
def Arch.setReg (a : Arch) (k : Nat) (v : Tagged) : Arch :=
  if k = 32 then { a with spr := { a.spr with ksp := v } } else { a with sregs := Sparse.set emptyReg a.sregs k v }

/-- MODE as it governs the next leaf: the held value inside a MODE shadow (R69). -/
def Arch.modeNow (a : Arch) : Word :=
  match a.flow.shadow with
  | some h => if h.reg = 1 then h.hold else a.spr.mode
  | none => a.spr.mode

/-- PSR as it governs the next leaf: the held value inside a PSR shadow (R69). -/
def Arch.psrNow (a : Arch) : Word :=
  match a.flow.shadow with
  | some h => if h.reg = 2 then h.hold else a.spr.psr
  | none => a.spr.psr

/-- Supervisor state (R89). -/
def Arch.priv (a : Arch) : Bool := wfld a.psrNow 0 0 = 1

/-! ### Vector and mask elements -/

/-- A vector register. -/
def Arch.vreg (a : Arch) (r : Nat) : BitVec 4096 := Sparse.get zeroVec a.vregs r

/-- Element `i` of size `sz` of the group at `base` (R124). -/
def Arch.vEl (a : Arch) (base sz i : Nat) : Nat := ((a.vreg (base + i * sz / 4096)).toNat >>> (i * sz % 4096)) % 2 ^ sz

/-- An element of a group written (R124). -/
def Arch.setVEl (a : Arch) (base sz i v : Nat) : Arch :=
  let r := base + i * sz / 4096
  let lo := i * sz % 4096
  { a with vregs := Sparse.set zeroVec a.vregs r (BitVec.ofNat 4096 (setFld (a.vreg r).toNat (lo + sz - 1) lo v)) }

/-- A mask register (R125). -/
def Arch.mreg (a : Arch) (m : Nat) : BitVec 4096 := Sparse.get zeroVec a.mregs m

/-- Bit `i` of a mask register. -/
def Arch.mBit (a : Arch) (m i : Nat) : Bool := (a.mreg m).getLsbD i

/-- A bit of a mask register written. -/
def Arch.setMBit (a : Arch) (m i : Nat) (b : Bool) : Arch :=
  { a with mregs := Sparse.set zeroVec a.mregs m (BitVec.ofNat 4096 (setFld (a.mreg m).toNat i i (b2n b))) }

/-! ### Checks of a data address -/

/-- Does an address lie in CSR space? -/
def inCsr (a : Nat) : Bool := decide (csrBase ≤ a) && decide (a < csrBase + csrSize)

/-- The failure of an access to a host window, by its SYND.KIND (R371). -/
def State.hostKind (s : State) (need : Need) (a : Nat) : Option Nat :=
  match s.hostWin a with
  | none => some 2
  | some n =>
    let r := s.bit (Reg.hifHwinCfg n) 0
    let w := s.bit (Reg.hifHwinCfg n) 1
    match need with
    | .read => if r then none else some 3
    | .write => if w then none else some 4
    | .atomic => if !r then some 3 else if !w || !(s.bit (Reg.hifHwinCfg n) 2) then some 4 else none
    | .fetch => some 2

/-- The failure of the range and page checks at a data address, by its SYND.KIND: range, page attributes, and a logical window that
no position backs (R237, R238, R241, R371). CSR space has none. -/
def State.rangeKind (s : State) (pos : Nat) (need : Need) (a : Nat) : Option Nat :=
  if 2 ^ 48 ≤ a then some 1
  else if inCsr a then none
  else if hostBase ≤ a then s.hostKind need a
  else
    match s.checkPage (some (pos / 13)) (some pos) need a with
    | some k => some k
    | none => if s.locate (some pos) a = .hole then some 2 else none

/-- The exceptions that an access of a core meets, as pairs of code and SYND.KIND (R13, R56, R70, R90). -/
def State.dataFaults (s : State) (pos : Nat) (user : Bool) (need : Need) (size a : Nat) : List (Nat × Nat) :=
  (if user && inCsr a then [(2, 0)] else []) ++
  (match s.rangeKind pos need a with
   | some k => [(5, k)]
   | none => []) ++
  (if a % size ≠ 0 ∨ (inCsr a ∧ size < 4) then [(6, 0)] else [])

/-- The page checks of the range of `n` bytes at `a`: each reads the entry of its page (R244). -/
def State.touchRange (s : State) (c : Nat) (own : Option Nat) (a n : Nat) : State :=
  if n = 0 then s
  else (upto ((a + n - 1) / 2 ^ 21 - a / 2 ^ 21 + 1)).foldl (fun s i => s.touchPage c own (if i = 0 then a else (a / 2 ^ 21 + i) * 2 ^ 21)) s

/-! ### What an access meets in the caches -/

/-- The caches that hold data at an address (R277): 0 none, 1 L1, L2 and side buffer, 2 the L2 alone. -/
def State.cacheKind (s : State) (pos a : Nat) : Nat :=
  match s.locate (some pos) a with
  | .tier _ => if s.pageC (some (pos / 13)) (some pos) a then 1 else 0
  | .host n _ => if s.bit (Reg.hifHwinCfg n) 2 then 2 else 0
  | _ => 0

/-- A load of a core as its caches see it. -/
def State.loadTouch (s : State) (pos a : Nat) : State :=
  match s.cacheKind pos a with
  | 1 => s.coreRead pos a
  | 2 => s.l2Access (pos / 13) (a / 128) false false
  | _ => s

/-- Does an access of a core miss every cache and bring its line from memory? -/
def State.fills (s : State) (pos a : Nat) : Bool := s.cacheKind pos a = 1 && !(s.held (some pos) a)

/-- Is the address in the core's own LDM, by its own window or its physical window (R43)? -/
def ownLdm (pos a : Nat) : Bool :=
  (decide (ownBase ≤ a) && decide (a < ownBase + 2 ^ 18)) || (decide (physBase + pos * 2 ^ 18 ≤ a) && decide (a < physBase + (pos + 1) * 2 ^ 18))

/-- Does an address reach the core's own LDM by any window, the logical one included? -/
def State.inOwnLdm (s : State) (pos a : Nat) : Bool :=
  match s.locate (some pos) a with
  | .ldm p _ => decide (p = pos)
  | _ => false

/-- Miss registers of a core in use (R254, R278). -/
def Work.misses (w : Work) : Nat := (w.loads.filter (·.miss)).length

/-- The agent of a core's accesses (R456). -/
def State.coreWho (s : State) (pos : Nat) : Who := { agent := 1, lcid := s.lcidOf pos, clu := pos / 13 }

/-- A read by a core of `n` bytes inside one line, whole: the errors that it meets, those of the fill of a miss among them, and the caches. Answers whether
data is uncorrectable (R252, R278, R284). -/
def State.coreLoad (s : State) (pos a n : Nat) : State × Bool :=
  let r := s.readMeets (s.coreWho pos) (some pos) a n
  if r.2 then r
  else ((if r.1.fills pos a then r.1.fillMeets (s.coreWho pos) (some pos) a n else r.1).loadTouch pos a, false)

/-- A write by a core of bytes inside one 64-byte line: caches and bytes. A store that misses on a page with C = 1 merges in the line that its fill brings, and
fails where that line meets uncorrectable data (R44, R278, R291, R520); a line that the access writes whole, by this write alone or as `full` says, needs no
fill. A store to cacheable host memory takes the line into its L2 alone, and leaves no line where it is lost (R381). Answers the addresses of the bytes that
were not stored. -/
def State.storeLine (s : State) (pos : Nat) (tag : Tag) (full : Nat → Bool) (a : Nat) (bs : List Byte) : State × List Nat :=
  let w := s.coreWho pos
  let whole := decide (64 ≤ bs.length) || full (a / 64)
  let s := s.shed w (some pos) a bs.length
  match s.cacheKind pos a with
  | 0 => s.agentStore w (some pos) true a bs tag
  | 1 =>
    if whole || !(s.fills pos a) then (s.coreWrote pos a whole).store w (some pos) tag a bs
    else
      let r := s.readMeets w (some pos) (a / 64 * 64) 64
      if r.2 then (r.1, (upto bs.length).map (a + ·))
      else ((r.1.fillMeets w (some pos) (a / 64 * 64) 64).coreWrote pos a false).store w (some pos) tag a bs
  | _ =>
    if s.hostLost (some pos) a then s.store w (some pos) tag a bs
    else ((s.takeLine none (onlyClu (pos / 13)) (a / 128)).l2Access (pos / 13) (a / 128) false true).store w (some pos) tag a bs

/-- A write by a core, line by line in ascending order. -/
def State.storeLines (pos : Nat) (tag : Tag) (full : Nat → Bool) : Nat → State → Nat → List Byte → State × List Nat
  | 0, s, _, _ => (s, [])
  | n + 1, s, a, bs =>
    if bs.isEmpty then (s, [])
    else
      let k := 64 - a % 64
      let r := s.storeLine pos tag full a (bs.take k)
      let q := State.storeLines pos tag full n r.1 (a + k) (bs.drop k)
      (q.1, r.2 ++ q.2)

/-- A write by a core of which every line stands for itself; `full` tells the 64-byte lines that the access it belongs to writes whole. -/
def State.coreStore (s : State) (pos : Nat) (tag : Tag) (a : Nat) (bs : List Byte) (full : Nat → Bool := fun _ => false) : State × List Nat :=
  State.storeLines pos tag full (bs.length / 64 + 2) s a bs

/-! ### Exceptions kept for a leaf boundary -/

/-- A deferred 0x0C added to those that wait for the next leaf boundary (R99, R112). -/
def State.deferExc (s : State) (pos kind reg fleaf : Nat) (addr : Nat) (hbk : List Nat) : State :=
  let f := (s.coreAt pos).arch.flow
  s.setFlow pos { f with deferred := f.deferred ++
    [{ code := 0x0C, kind := kind, syl := 0x1F, reg := reg, info := 0, addr := BitVec.ofNat 64 addr, next := true, deferred := true, fleaf := fleaf, hbk := hbk, xid := 0 }] }

end Sys2Proof.Machine
end

