-- ==== Sys2Proof/Machine/Position.lean ====
section
/-! DEFINITION. Physical positions: pending interrupts, suspect and due positions, reset entry, the idle spare, and the third fault (R109,
R120 to R122, R407, R408, R446, R450, R451, R526). -/

namespace Sys2Proof.Machine

/-! ### Interrupts (R109) -/

/-- Does a schedule stream report an event to a logical core (R344)? -/
def State.fabEvent (s : State) (lcid : Nat) : Bool :=
  (upto 16).any fun n =>
    s.fld (Reg.fabStrEvtlcid n) 10 0 = lcid && decide (s.fld (Reg.fabStrEvt n) 9 0 &&& s.fld (Reg.fabStrEvten n) 9 0 ≠ 0)

/-- Has a couch request for a slot waited longer than the limit (R413)? -/
def State.couchLate (s : State) (lcid : Nat) : Bool :=
  match (s.cluAt (lcid / 12)).couch with
  | some r => r.late && r.slot = lcid % 12
  | none => false

/-- The pending set of a position, bit n for source 0x20 + n, as PSR.IP shows it (R91, R109). -/
def State.pendingInts (s : State) (pos : Nat) : Nat :=
  let i := s.lcidOf pos
  if i = 0x7FF then 0
  else
    b2n (decide ((s.cur (Reg.cluTcmp (i / 12) (i % 12))).toNat ≤ s.cycles (pos / 13))) +
    b2n (s.bit (Reg.hifCdb (i / 64)) (i % 64)) * 2 +
    b2n (Sparse.get zeroWord (s.coreAt pos).arch.hbc 0 ≠ 0) * 4 +
    b2n (s.fabEvent i) * 8 +
    b2n (s.couchLate i) * 16 +
    b2n (s.bit (Reg.secMboxIn i) 63) * 32

/-- The interrupt that a position would take at a boundary, by its code: the lowest pending one that PSR allows; none inside a shadow
or between a control leaf and its delay leaf (R105, R106, R109). A core that a halt leaf has stopped inside a shadow is woken by none (log row 168). -/
def State.allowedInt (s : State) (pos : Nat) : Option Nat :=
  let a := (s.coreAt pos).arch
  let psr := a.psrNow
  if wfld psr 1 1 = 0 ∨ wfld psr 2 2 = 1 ∨ a.flow.shadow.isSome ∨ a.flow.br.isSome ∨ a.flow.ctlOnly.isSome then none
  else (lowestSet 6 0 (s.pendingInts pos &&& wfld psr 13 8)).map (0x20 + ·)

/-! ### Suspect and due positions (R446, R449, R450) -/

def State.isSuspect (s : State) (k : Nat) : Bool := s.bit (Reg.relPosStat k) 63

/-- A position is failed (R408). -/
def State.isFailed (s : State) (k : Nat) : Bool := s.bit (Reg.cluPos (k / 13)) (k % 13)

/-- An idle spare (R408). -/
def State.isSpare (s : State) (k : Nat) : Bool := s.bit (Reg.cluPos (k / 13)) (16 + k % 13)

/-- The lowest idle spare of a cluster. -/
def State.spareOf (s : State) (c : Nat) : Option Nat := ((upto 13).map (13 * c + ·)).find? fun k => s.isSpare k

/-- A position made the idle spare of its cluster (R408). -/
def State.makeSpare (s : State) (k : Nat) : State := ((s.setStateOf k 3).putFld (Reg.coreState k) 26 16 0x7FF).putBit (Reg.cluPos (k / 13)) (16 + k % 13) true

/-- A test of a position made due now; a position already due keeps its time (R449). -/
def State.makeDue (s : State) (k : Nat) : State :=
  s.modClu (k / 13) fun c => if c.rot.due.any (fun d => d.1 == k) then c else { c with rot := { c.rot with due := c.rot.due ++ [(k, s.sys.time)] } }

/-- A change of the suspect state posts event class 0x05 with SEV 0 (R450, R456). -/
def State.suspectEvent (s : State) (k kind : Nat) : State :=
  s.post { cls := 5, sev := 0, ukind := 1, uidx := k, lcid := s.lcidOf k, d0 := kind }

/-- A position becomes suspect; one that is suspect stays so (R450). -/
def State.markSuspect (s : State) (k : Nat) : State :=
  if s.isSuspect k then s
  else
    let s := (s.putBit (Reg.relPosStat k) 63 true).putFld (Reg.relPosStat k) 31 0 0
    let s := s.modClu (k / 13) fun c => { c with rot := { c.rot with aged := c.rot.aged.filter (· ≠ k) } }
    s.suspectEvent k 1

/-- A position leaves the suspect state (R450). -/
def State.clearSuspect (s : State) (k : Nat) : State :=
  if s.isSuspect k then (s.putBit (Reg.relPosStat k) 63 false).suspectEvent k 2 else s

/-- The clean count of a suspect position, saturating (R459). -/
def State.countClean (s : State) (k : Nat) : State :=
  if s.isSuspect k then s.putFld (Reg.relPosStat k) 31 0 (min (s.fld (Reg.relPosStat k) 31 0 + 1) (2 ^ 32 - 1)) else s

/-- A position leaves the suspect state when both conditions of R450 hold. -/
def State.maybeClear (s : State) (k : Nat) : State :=
  if (s.cluAt (k / 13)).rot.aged.contains k && decide (s.fld Reg.relSus 31 0 ≤ s.fld (Reg.relPosStat k) 31 0) then s.clearSuspect k else s

/-- A session that has passed ends: REL.TESTS, the tender clock of the last passed session, and the clean count (R447, R450, R459). -/
def State.sessionPassed (s : State) (k : Nat) : State :=
  let s := (s.putBit (Reg.relPosStat k) 62 false).bump Reg.relTests 1
  let s := s.put (Reg.relPosLastpass k) (BitVec.ofNat 64 (s.tclk / 1000))
  let s := s.modClu (k / 13) fun x => { x with rot := { x.rot with session := none, noSpare := false } }
  (s.countClean k).maybeClear k

/-- A fault that implicates the logic of a position: suspect, and due at once (R446). -/
def State.implicate (s : State) (k : Nat) : State := (s.markSuspect k).makeDue k

/-! ### Reset entry (R122, R526) -/

/-- Has a transfer of a logical core begun and not completed, on any position (R526)? -/
def State.begunOf (s : State) (lcid : Nat) : Bool := s.cores.any fun p => p.2.work.hbq.any fun x => x.begun && x.lcid = lcid

/-- Has a transfer of a logical core not completed, on any position (R295, R412)? -/
def State.transfersOf (s : State) (lcid : Nat) : Bool := s.cores.any fun p => p.2.work.hbq.any fun x => x.lcid = lcid

/-- The key of a logical core's count of calls to a collective (R339). -/
def occKey (coll lcid : Nat) : Nat := coll * 2048 + lcid

/-- Transfers of a logical core that have not begun are discarded (R120, R526); a contribution discarded counts as not made. -/
def State.dropQueued (s : State) (lcid : Nat) : State :=
  let gone := (s.cores.flatMap fun p => p.2.work.hbq.filter fun x => !x.begun && x.lcid == lcid).map (·.xid)
  let out := s.fab.ins.filter fun i => gone.contains i.xid
  let occ := out.foldr (fun i m => Sparse.set zeroNat m (occKey i.coll i.lcid) i.occ) s.fab.occNext
  let s := { s with fab := { s.fab with ins := s.fab.ins.filter fun i => !gone.contains i.xid, occNext := occ } }
  { s with cores := Sparse.mapAll coreReset (fun _ c => { c with work := { c.work with hbq := c.work.hbq.filter fun x => x.begun || x.lcid ≠ lcid } }) s.cores }

/-- The architectural state at reset entry of a core of cluster `c`, with the given s0 (R122, R526). -/
def State.entryArch (s : State) (c s0 : Nat) : Arch :=
  { Arch.reset with
    sregs := [(0, ⟨BitVec.ofNat 64 s0, 0⟩)]
    spr := { Spr.reset with evba := ⟨BitVec.ofNat 64 (s.fld (Reg.cluRstevba c) 47 0), 1⟩ }
    flow := { Flow.reset with pc := s.fld (Reg.cluRstpc c) 42 0 } }

/-- A position enters at code 0x00 and runs (R122, R526), once no transfer of its logical core that has begun is left. Its LDM and caches stay as they are. -/
def State.resetEntry (s : State) (pos s0 : Nat) : State :=
  let s := s.dropQueued (s.lcidOf pos)
  let s := s.setArch pos (s.entryArch (pos / 13) s0)
  let s := s.setWork pos { (s.coreAt pos).work with loads := [], vq := [], tq := [] }
  s.setStateOf pos 1

/-! ### Third fault (R120, R121, R451) -/

/-- The state of a held position: registers at reset, caches empty after the write-back, transfers that have begun kept (R120, R303). While no position
backs the logical core, they count on no counter. -/
def State.holdCore (s : State) (pos lcid : Nat) : State :=
  let s := (s.drainL1 pos).dropQueued lcid
  s.modCore pos fun c => { c with arch := Arch.reset, work := { Work.reset with hbq := c.work.hbq } }

/-- A pending couch of a slot is cancelled (R451). A session that waits to begin is over; one that runs goes on and hands nothing back; one that waits to
hand the slot back has passed, and its position becomes the spare. -/
def State.cancelCouch (s : State) (c slot : Nat) : State :=
  let hit := match (s.cluAt c).couch with
    | some r => decide (r.slot = slot)
    | none => false
  let s := if hit then (s.putBit (Reg.cluCouch c) 62 false).modClu c fun k => { k with couch := none } else s
  match (s.cluAt c).rot.session with
  | none => s
  | some x =>
    if x.slot ≠ some slot then s
    else if x.phase = 0 then
      (s.putBit (Reg.relPosStat x.pos) 62 false).modClu c fun k => { k with rot := { k.rot with session := none } }
    else if x.phase = 1 then s.modClu c fun k => { k with rot := { k.rot with session := some { x with slot := none } } }
    else (s.makeSpare x.pos).sessionPassed x.pos

/-- A third fault of a position: reason, the three codes, and the EPC of the first exception's frame (R120, R456). -/
def State.thirdFault (s : State) (pos reason c1 c2 c3 epc : Nat) : State :=
  let lcid := s.lcidOf pos
  let c := pos / 13
  let s := (s.holdCore pos lcid).setStateOf pos 5
  let s := s.post { cls := 0x0B, sev := 3, ukind := 1, uidx := pos, lcid := lcid
                    d0 := c1 + c2 * 2 ^ 8 + c3 * 2 ^ 16 + reason * 2 ^ 24, d1 := epc }
  let s := s.putFld (Reg.coreState pos) 26 16 0x7FF
  let s := if lcid = 0x7FF then s else
    ((s.mapSlot lcid none).cancelCouch c (lcid % 12)).modClu c fun k => { k with takeover := k.takeover ++ [(lcid % 12, pos % 13, s.cycles c)] }
  s.makeDue pos

/-- The counts that receive flows keep for a logical core applied to the position that holds it now (R336). -/
def State.applyCounts (s : State) (lcid pos : Nat) : State :=
  let mine (f : Nat) : Bool := s.fld (Reg.fabRflow f 2) 26 16 == lcid
  let s' := { s with fab := { s.fab with recvWait := s.fab.recvWait.filter fun w => !mine w.1 } }
  (s.fab.recvWait.filter fun w => mine w.1).foldl (fun s w =>
    let a := (s.coreAt pos).arch
    let k := s.fld (Reg.fabRflow w.1 2) 29 27
    s.setArch pos { a with hbc := Sparse.set zeroWord a.hbc k (Sparse.get zeroWord a.hbc k + BitVec.ofNat 64 w.2) }) s'

/-- The spare goes to another slot while a couch to it is pending: the request is over, a session that waited for it waits again for its turn or as due,
and a request of CLU.COUCH ends with ERR 1 (R415; log row 188). -/
def State.loseSpare (s : State) (c q : Nat) : State :=
  match (s.cluAt c).couch with
  | none => s
  | some r =>
    if r.target ≠ q % 13 then s
    else
      let s := (s.putBit (Reg.cluCouch c) 62 false).modClu c fun k => { k with couch := none }
      let s := if r.why = 0 then s.putFld (Reg.cluCouch c) 23 16 1 else s
      match (s.cluAt c).rot.session with
      | none => s
      | some x =>
        if x.phase ≠ 0 then s
        else
          let s := (s.putBit (Reg.relPosStat x.pos) 62 false).modClu c fun k => { k with rot := { k.rot with
            session := none, turn := if x.byTurn then some s.sys.time else k.rot.turn } }
          if x.byTurn then s else s.makeDue x.pos

/-- SPARE_TAKEOVER (R121): the idle spare of the cluster takes the first slot that waits, by reset entry with s0 = 2 over an LDM of zero
words with tag 0xF. It waits for a spare, and for the end of the transfers that the slot had begun and of those that the spare's headbox carries (R526). Whether
the branch group of the slot is being stopped does not matter (log row 136). -/
def State.spareTakeover (s : State) (c : Nat) : State :=
  match (s.cluAt c).takeover, s.spareOf c with
  | (slot, from', since) :: rest, some q =>
    let i := 12 * c + slot
    if s.begunOf i || (s.coreAt q).work.hbq.any (fun x => x.begun) then s
    else
      let s := (s.loseSpare c q).putBit (Reg.cluPos c) (16 + q % 13) false
      let s := s.mapSlot i (some q)
      let s := s.setCore q { Core.reset with caches := (s.coreAt q).caches.emptied }
      let s := ((s.resetEntry q 2).applyCounts i q).modClu c fun k => { k with takeover := rest }
      s.post { cls := 8, sev := 1, ukind := 2, uidx := c, lcid := i, d0 := slot + from' * 2 ^ 4 + q % 13 * 2 ^ 8 + 2 * 2 ^ 12
               d1 := s.cycles c - since }
  | _, _ => s

/-- SPARE_TAKEOVER. -/
def execSpareTakeover (c : Nat) (s : State) : Host.Outcome State Fault Refusal :=
  answer (Instr.wf (.spareTakeover c)) s fun s => s.spareTakeover c

/-- The clock of a cluster runs until its cycle counter has reached `want`. -/
def State.runTo (s : State) (c want : Nat) : State :=
  let k := (s.cluAt c).clock
  if want ≤ s.cycles c then s
  else
    let need := cdiv (want * 1000 - k.milli) (stepRate k.step)
    { s with sys := { s.sys with time := max s.sys.time (k.since + need) } }

/-- TIMER_COMPARE (R109, R414): interrupt 0x20 of a slot pends while its CYCLE has reached CLU.TCMP. The command lets the clock of the
cluster run to that value when it has not. -/
def State.timerCompare (s : State) (c slot : Nat) : State := s.runTo c (s.cur (Reg.cluTcmp c slot)).toNat

/-- TIMER_COMPARE. -/
def execTimerCompare (c slot : Nat) (s : State) : Host.Outcome State Fault Refusal :=
  answer (Instr.wf (.timerCompare c slot)) s fun s => s.timerCompare c slot

end Sys2Proof.Machine
end

