-- ==== Sys2Proof/Machine/Fetch.lean ====
section
/-! DEFINITION. The program store: fetch, fills, parity and uncorrectable data (R46, R47, R108, R278 to R280, R283, R288). -/

namespace Sys2Proof.Machine

def emptyPs (_ : Nat) : PsLine := ⟨0, 3, [], []⟩

/-- A way of the program store that holds a line has its four valid bits listed. -/
def PsLine.present (l : PsLine) : Bool := !l.valid.isEmpty

/-- The set of a line: L[8:2] (R278). -/
def psSet (line : Nat) : Nat := line % 128

/-- The key of the way that holds a line. -/
def Caches.psFind (x : Caches) (line : Nat) : Option Nat :=
  ((upto 4).map (psSet line * 4 + ·)).find? fun k => let l := Sparse.get emptyPs x.ps k; l.present && l.line == line

/-- The way to replace, with the set aged as R279 gives. -/
def psVictim : Nat → List PsLine → Nat × List PsLine
  | 0, ls => (0, ls)
  | n + 1, ls =>
    match ls.findIdx? (fun l => !l.present) with
    | some w => (w, ls)
    | none =>
      match ls.findIdx? (fun l => l.age == 3) with
      | some w => (w, ls)
      | none => psVictim n (ls.map fun l => { l with age := l.age + 1 })

/-- A line put into the program store (R279, R280). -/
def Caches.psInstall (x : Caches) (line age : Nat) (valid : List Bool) (leaves : List (BitVec 256)) : Caches :=
  let base := psSet line * 4
  let v := psVictim 4 ((upto 4).map fun w => Sparse.get emptyPs x.ps (base + w))
  let ls := setAt v.2 v.1 ⟨line, age, valid, leaves⟩
  { x with ps := (upto 4).foldl (fun m w => Sparse.set emptyPs m (base + w) (ls.getD w (emptyPs 0))) x.ps }

/-- A leaf that the program store holds valid. -/
def Caches.psLeaf (x : Caches) (L : Nat) : Option (BitVec 256) :=
  match x.psFind (L / 4) with
  | none => none
  | some k =>
    let l := Sparse.get emptyPs x.ps k
    if l.valid.getD (L % 4) false then some (l.leaves.getD (L % 4) 0) else none

/-- One line changed. -/
def Caches.psMap (x : Caches) (line : Nat) (f : PsLine → PsLine) : Caches :=
  match x.psFind line with
  | none => x
  | some k => { x with ps := Sparse.set emptyPs x.ps k (f (Sparse.get emptyPs x.ps k)) }

/-- Bits of the leaf at a core's program counter flipped in its program store (R47). -/
def State.psFlip (s : State) (pos : Nat) (bits : BitVec 256) : State :=
  let L := (s.coreAt pos).arch.flow.pc
  s.setCaches pos (((s.coreAt pos).caches).psMap (L / 4) fun l => { l with leaves := setAt l.leaves (L % 4) (l.leaves.getD (L % 4) 0 ^^^ bits) })

/-- What a fetch finds: the leaf, a fill to wait for, or an exception code with its SYND.KIND. -/
inductive Fetched where
  | leaf (bits : BitVec 256)
  | wait
  | fault (code kind : Nat)
  deriving DecidableEq, Repr

/-- What a fetch of leaf `L` finds now (R46, R47): a valid leaf with sound parity is taken without a further check. -/
def State.fetched (s : State) (pos L : Nat) : Fetched :=
  let x := (s.coreAt pos).caches
  match x.psLeaf L with
  | some b => if parityOk b.toNat then .leaf b else if x.psRetry = some L then .fault 1 1 else .wait
  | none =>
    if L ∈ x.psBad then .fault 0x0D 0
    else if (s.checkPage (some (pos / 13)) (some pos) .fetch (32 * L)).isSome ∨ s.capBytes ≤ 32 * L then .fault 3 0
    else .wait

/-- A fetch of leaf `L` given up with its exception: the one refetch of a leaf with bad parity is used up, and a later fetch has its own (R47). A failed page
check has read its entry (R244). -/
def State.psGiveUp (s : State) (pos code L : Nat) : State :=
  let s := if code = 3 then s.touchPage (pos / 13) (some pos) (32 * L) else s
  s.setCaches pos { (s.coreAt pos).caches with psRetry := none }

/-- The fill that a fetch starts: none when its line is already in flight or both line fills are busy; a new one counts in CORE.PSMISS
and may ask for the next line (R47, R88, R283). -/
def State.startFill (s : State) (pos L : Nat) : State :=
  let x := (s.coreAt pos).caches
  let line := L / 4
  if x.psFills.any (fun f => f.line == line) || 2 ≤ x.psFills.length then s
  else
    let s := s.touchPage (pos / 13) (some pos) (32 * L)
    match x.psLeaf L with
    | some _ =>
      -- a parity failure: this leaf alone is invalid now, and is fetched once again
      let x := x.psMap line fun l => { l with valid := setAt l.valid (L % 4) false }
      let r := s.request (pos / 13) (32 * L)
      (r.1.setCaches pos { x with psRetry := some L, psFills := x.psFills ++ [⟨line, true, some L, r.2⟩] }).bump (Reg.corePsmiss pos) 1
    | none =>
      let single := (x.psFind line).isSome
      let r := s.request (pos / 13) (32 * L)
      let s := r.1
      let fills := x.psFills ++ [⟨line, single, some L, r.2⟩]
      let n := line + 1
      let asks := !single && s.bit (Reg.l2Ctrl (pos / 13)) 1 && decide (n / 16384 = line / 16384) && (x.psFind n).isNone &&
        !(fills.any fun f => f.line == n) && decide (fills.length < 2)
      let more := asks && (s.checkPage (some (pos / 13)) (some pos) .fetch (128 * n)).isNone
      let s := if asks then s.touchPage (pos / 13) (some pos) (128 * n) else s
      let q := if more then s.request (pos / 13) (128 * n) else (s, none)
      (q.1.setCaches pos { x with psFills := if more then fills ++ [⟨n, false, none, q.2⟩] else fills }).bump (Reg.corePsmiss pos) 1

/-- A fetch that found its leaf: the line becomes young (R279). -/
def State.psHit (s : State) (pos L : Nat) : State :=
  let x := ((s.coreAt pos).caches).psMap (L / 4) fun l => { l with age := 0 }
  s.setCaches pos { x with psRetry := if x.psRetry = some L then none else x.psRetry }

/-- The 32 bytes at a leaf address as memory holds them now. -/
def State.leafBytes (s : State) (L : Nat) : BitVec 256 := BitVec.ofNat 256 (s.num none (32 * L) 32)

/-- Reads the reel sector of leaf `L` for a fill: the state after its error reports, and whether the leaf is sound (R47, R252). -/
def State.fillLeaf (s : State) (pos L : Nat) : State × Bool :=
  let r := s.readMeets { agent := 1, lcid := s.lcidOf pos, clu := pos / 13, queued := true } none (32 * L) 32
  (r.1, !r.2)

/-- PROGRAM_STORE_FILL: the oldest fill of a position returns, unless its request waits in a replay queue (R47, R256, R280, R283). A prefetch that meets an unexecutable page was never
started; one that would fault is dropped. -/
def State.psFill (s : State) (pos : Nat) : State :=
  let x := (s.coreAt pos).caches
  match x.psFills with
  | [] => s
  | f :: rest =>
   if s.replaying f.req then s
   else
    let s := (s.bankServed f.req).setCaches pos { x with psFills := rest }
    let c := some (pos / 13)
    let denied := (s.checkPage c (some pos) .fetch (128 * f.line)).isSome
    if denied then s
    else if f.single then
      let L := f.want.getD (4 * f.line)
      let (s, ok) := s.fillLeaf pos L
      let x := (s.coreAt pos).caches
      if ok then
        s.setCaches pos (x.psMap f.line fun l => { l with valid := setAt l.valid (L % 4) true, leaves := setAt l.leaves (L % 4) (s.leafBytes L) })
      else s.setCaches pos { x with psBad := addNew x.psBad L }
    else
      let r := (upto 4).foldl (fun (acc : State × List Bool) i => let q := acc.1.fillLeaf pos (4 * f.line + i); (q.1, acc.2 ++ [q.2])) (s, [])
      let s := r.1
      let leaves := (upto 4).map fun i => s.leafBytes (4 * f.line + i)
      let age := if f.want.isNone then 2 else if s.pageStrm c (some pos) (128 * f.line) then 3 else 1
      let x := ((s.coreAt pos).caches).psInstall f.line age r.2 leaves
      s.setCaches pos { x with psBad := match f.want with
        | some L => if r.2.getD (L % 4) true then x.psBad else addNew x.psBad L
        | none => x.psBad }

/-- PROGRAM_STORE_FILL. -/
def execProgramStoreFill (pos : Nat) (s : State) : Host.Outcome State Fault Refusal :=
  answer (Instr.wf (.programStoreFill pos)) s fun s => s.psFill pos

/-- The whole program store of a position invalidated (R288); a fill in flight brings nothing that a later fetch may use. -/
def State.psInvalidate (s : State) (pos : Nat) : State :=
  let x := (s.coreAt pos).caches
  s.setCaches pos { x with ps := [], psFills := [], psRetry := none, psBad := [] }

/-- One line of a program store invalidated (cmo 0xC, R289). -/
def State.psInvalidateLine (s : State) (pos L : Nat) : State :=
  let x := (s.coreAt pos).caches
  let x := x.psMap (L / 4) fun _ => emptyPs 0
  s.setCaches pos { x with psFills := x.psFills.filter fun f => f.line ≠ L / 4
                           psRetry := x.psRetry.filter fun r => r / 4 ≠ L / 4
                           psBad := x.psBad.filter fun b => b / 4 ≠ L / 4 }

end Sys2Proof.Machine
end

