-- ==== Sys2Proof/Machine/Image.lean ====
section
/-! DEFINITION. The device sections of a mill image: the subsections whose entries the manual lays out are read here; what it names without a layout is
a free value (R325, R328, R334, R339, R347, R351; log row 97). -/

namespace Sys2Proof.Config

/-- The header of a device section: the count and the offset of subsection `k`, from GROUPS (0) to PATCHES (7). R351 names them and gives no layout. -/
opaque sectionHeader : List Byte → (k : Nat) → Nat × Nat

/-- Bit 0 of the peer id of an entry of PORTS: R351 places EN at bit 0 and the peer id at bits [11:0], which cannot both hold at bit 0. -/
opaque peerLow : Word → Bool

/-- The entries of COLLS, from the bytes of the section, their count and their offset: R339 names the fields and gives no layout. -/
opaque collEntries : List Byte → (count off : Nat) → Option (List Machine.Coll)

/-- The heads of the patch sets of PATCHES: number, device id and port of the key (R347), and the count and the offset of the records in the section. -/
opaque patchHeads : List Byte → (count off : Nat) → List (Nat × Nat × Option Nat × Nat × Nat)

/-- The words of the segments of collectives (R347, table 5). -/
opaque segmentWords : List Machine.Coll → Nat

/-- The collectives with word `i` of their segments replaced (R347, table 5), and the collective whose entry that word belongs to. -/
opaque patchSegment : List Machine.Coll → (i : Nat) → Word → List Machine.Coll
opaque segmentEntry : List Machine.Coll → (i : Nat) → Nat

/-- The operation of the control cell by which a port asks its peer for a retraining window: R317 names the request and gives no code. -/
opaque retrainOp : Nat

end Sys2Proof.Config

namespace Sys2Proof.Machine

/-- `n` little-endian words that stand at an offset. -/
def wordsAt (bs : List Byte) (off n : Nat) : List Word := (upto n).map fun i => BitVec.ofNat 64 (ofLe ((bs.drop (off + 8 * i)).take 8))

/-- A record of a patch set from its two words; none when its zero bits are not zero (R347). -/
def patchRec (a b : Word) : Option PatchRec :=
  if wfld a 49 32 = 0 then some ⟨wfld a 63 56, wfld a 55 50, wfld a 31 0, b⟩ else none

/-- The records of a patch set from their words. -/
def patchRecs : List Word → Option (List PatchRec)
  | a :: b :: ws =>
    match patchRec a b, patchRecs ws with
    | some r, some rs => some (r :: rs)
    | _, _ => none
  | _ => some []

/-- The expected peer of a port from its entry: peer port [21:16] and peer id [11:1], and bit 0 of the id (log row 97). -/
def peerWord (w : Word) : Word := BitVec.ofNat 64 (wfld w 21 16 * 2 ^ 16 + wfld w 11 1 * 2 + b2n (Config.peerLow w))

/-- The patch sets of a section; none when a record does not read. -/
def patchSets (bs : List Byte) : List (Nat × Nat × Option Nat × Nat × Nat) → Option (List PatchSet)
  | [] => some []
  | (num, dev, port, n, off) :: hs =>
    match (if off + 16 * n ≤ bs.length then patchRecs (wordsAt bs off (2 * n)) else none), patchSets bs hs with
    | some rs, some rest => some (⟨num, dev, port, rs⟩ :: rest)
    | _, _ => none

/-- Words of an entry of a subsection, where its entries have a layout: GROUPS, PORTS, ROUTES, REAMS, SFLOWS, RFLOWS (R351). -/
def entryWords (k : Nat) : Nat := [2, 1, 1, 1, 2, 4].getD k 0

/-- May a subsection have `n` entries: none at all, or as many as R351 says? -/
def entryCount (k n : Nat) : Bool := if k < 4 then n == 0 || n == [16, 36, 4096, 36 * 512].getD k 0 else decide (n ≤ 4096)

/-- A device section read from its bytes; none when a subsection has a wrong number of entries, does not lie in the section, or does not read. -/
def readSection (bs : List Byte) : Option Section :=
  let h := Config.sectionHeader bs
  let sub (k : Nat) : List Word := wordsAt bs (h k).2 (entryWords k * (h k).1)
  if (upto 6).all fun k => entryCount k (h k).1 && decide ((h k).2 + 8 * entryWords k * (h k).1 ≤ bs.length) then
    match Config.collEntries bs (h 6).1 (h 6).2, patchSets bs (Config.patchHeads bs (h 7).1 (h 7).2) with
    | some cs, some ps =>
      let ports := sub 1
      some { groups := (upto (h 0).1).map fun g => ((sub 0).getD (2 * g) 0).toNat + ((sub 0).getD (2 * g + 1) 0).toNat * 2 ^ 64
             portEn := (upto (h 1).1).filter fun p => wfld (ports.getD p 0) 0 0 == 1
             ports := ports.map peerWord, routes := sub 2, reams := sub 3, sflows := sub 4, rflows := sub 5, colls := cs, patches := ps }
    | _, _ => none
  else none

end Sys2Proof.Machine
end

