-- ==== Sys2Proof/Machine/Mram.lean ====
section
/-! DEFINITION. The MRAM of the tender: rows guarded by a CRC, the halves of the user layer and of the broke log, the training store and the rows of the
anti-rollback counters (R271 to R273, R388 to R392, R467). -/

namespace Sys2Proof.Config

/-- The bytes of the MRAM whose layout the manual gives nowhere (R389): where each item of the identity lies and what lies beside them, and the layout header
with the boot record. -/
opaque identityAt : (item : Nat) → Nat
opaque identityByte : Nat → Byte
opaque layoutByte : (active : Nat) → (ready trial : Bool) → (advance : Option (Nat × Nat)) → Nat → Byte

/-- The values that only a unit interprets (R390), by kind of unit (0 channel, 1 port, 2 island), unit and draw. -/
opaque trained : (kind unit draw : Nat) → Nat

/-- Whether a loss of power cuts off the write of the MRAM that it meets, and where in it, by draw (R392, R405). -/
opaque tornOff : (draw : Nat) → Bool
opaque tornAt : (draw : Nat) → Nat

end Sys2Proof.Config

namespace Sys2Proof.Machine

/-- A write of the MRAM, with the time: a loss of power at that moment may cut it off (R405; log row 153). -/
def State.mramWrote (s : State) (w : MramTear) : State := { s with sys := { s.sys with lastWrite := some (w, s.sys.time) } }

/-! ### Rows with a CRC -/

/-- A row of 64 bytes whose last four are the CRC-32C of the others (R271, R391, R467). -/
def crcRow (low : Nat) : BitVec 512 := BitVec.ofNat 512 (low % 2 ^ 480 + crc32c (leBytes 60 low) * 2 ^ 480)

def rowOk (h : BitVec 512) : Bool := crc32c (leBytes 60 h.toNat) == h.toNat / 2 ^ 480

/-- FORMAT 1, GEN and COUNT of a header: of the broke log, and of a user half with BCRC (R271, R391). -/
def halfHead (gen count bcrc : Nat) : BitVec 512 := crcRow (1 + gen % 2 ^ 32 * 2 ^ 32 + count * 2 ^ 64 + bcrc * 2 ^ 96)

def headGen (h : BitVec 512) : Nat := fld h.toNat 63 32
def headCount (h : BitVec 512) : Nat := fld h.toNat 95 64

/-! ### The user halves (R391, R392) -/

/-- The bytes of a setting record (R384). -/
def SetRec.bytes (r : SetRec) : List Byte := leBytes 8 r.w0.toNat ++ leBytes 8 r.mask.toNat ++ leBytes 8 r.value.toNat

/-- The COUNT records that a half's header speaks of. -/
def UserHalf.live (h : UserHalf) : List SetRec := takePad ⟨0, 0, 0⟩ (headCount h.head) h.recs

/-- Do both CRCs of a half pass? -/
def UserHalf.valid (h : UserHalf) : Bool :=
  rowOk h.head && decide (headCount h.head ≤ 2728) && crc32c (h.live.flatMap SetRec.bytes) == fld h.head.toNat 127 96

/-- The half that holds `recs` as generation `gen`. -/
def userHalf (gen : Nat) (recs : List SetRec) : UserHalf := ⟨halfHead gen recs.length (crc32c (recs.flatMap SetRec.bytes)), recs⟩

/-- The active user half: its index and the half (R391). -/
def State.activeHalf (s : State) : Option (Nat × UserHalf) :=
  let a := s.sys.userA
  let b := s.sys.userB
  if a.valid ∧ (!b.valid ∨ headGen b.head ≤ headGen a.head) then some (0, a) else if b.valid then some (1, b) else none

/-- A user half written. -/
def State.setHalf (s : State) (k : Nat) (h : UserHalf) : State :=
  if k = 0 then { s with sys := { s.sys with userA := h } } else { s with sys := { s.sys with userB := h } }

/-- The half that the next STORE writes, with its GEN (R392). -/
def State.nextHalf (s : State) : Nat × Nat :=
  match s.activeHalf with
  | some (a, h) => (1 - a, headGen h.head + 1)
  | none => (0, 1)

/-! ### The broke log (R271 to R273) -/

/-- A record of the log: W, SEQ and the CRC over both (R272). -/
def logRecord (w : Word) (seq : Nat) : BitVec 128 :=
  let x := w.toNat + seq % 2 ^ 32 * 2 ^ 64
  BitVec.ofNat 128 (x + crc32c (leBytes 12 x) * 2 ^ 96)

def recordOk (r : BitVec 128) : Bool := crc32c (leBytes 12 r.toNat) == r.toNat / 2 ^ 96

/-- The word and the sequence number of a record. -/
def recordWord (r : BitVec 128) : Word := BitVec.ofNat 64 r.toNat
def recordSeq (r : BitVec 128) : Nat := fld r.toNat 95 64

/-- The records that a half holds: as many as its header counts, up to the first whose CRC fails (R273). -/
def LogHalf.live (h : LogHalf) : List (BitVec 128) := (h.recs.take (headCount h.head)).takeWhile recordOk

/-- The half with records from its place `n` on, counted by its header as generation `gen`. -/
def LogHalf.put (h : LogHalf) (gen n : Nat) (recs : List (BitVec 128)) : LogHalf :=
  ⟨halfHead gen (n + recs.length) 0, h.recs.take n ++ recs ++ h.recs.drop (n + recs.length)⟩

/-- The active half of the log (R271): its index and the half; none before the first record. -/
def State.logActive (s : State) : Option (Nat × LogHalf) :=
  let a := s.mem.logA
  let b := s.mem.logB
  if rowOk a.head ∧ (!rowOk b.head ∨ headGen b.head ≤ headGen a.head) then some (0, a) else if rowOk b.head then some (1, b) else none

/-- The words of the log, oldest first. -/
def State.logWords (s : State) : List Word :=
  match s.logActive with
  | some x => x.2.live.map recordWord
  | none => []

def State.setLog (s : State) (k : Nat) (h : LogHalf) : State :=
  if k = 0 then { s with mem := { s.mem with logA := h } } else { s with mem := { s.mem with logB := h } }

/-- Does record `w` still say something of the present, with `later` the words after it (R273)? A remap lives until its row is remapped again, a SUSPECT
record until its channel is mapped out or withdrawn, a map-out until it is cleared; retired spare rows and lost units live on. -/
def liveWord (w : Word) (later : List Word) : Bool :=
  let after (types : List Nat) : Bool := later.any fun x => types.contains (wfld x 7 0) && wfld x 18 8 == wfld w 18 8
  match wfld w 7 0 with
  | 1 => !(later.any fun x => wfld x 7 0 == 1 && wfld x 38 8 == wfld w 38 8)
  | 2 | 5 => true
  | 3 => !(after [4, 7])
  | 4 => !(after [6])
  | _ => false

/-- The live content of a log. -/
def liveRecords : List (BitVec 128) → List (BitVec 128)
  | [] => []
  | r :: rs => if liveWord (recordWord r) (rs.map recordWord) then r :: liveRecords rs else liveRecords rs

/-- A record appended after the live ones of the active half; a full half is followed by the other half with the live content and GEN + 1 (R273). What the log
has no room for after that is not recorded. -/
def State.appendLog (s : State) (w : Word) : State :=
  match s.logActive with
  | none => (s.setLog 0 (s.mem.logA.put 1 0 [logRecord w 0])).mramWrote .logRecord
  | some (k, h) =>
    let recs := h.live
    let new := logRecord w ((recs.getLast?.map fun r => recordSeq r + 1).getD 0)
    let keep := liveRecords recs
    if recs.length < 8188 then (s.setLog k (h.put (headGen h.head) recs.length [new])).mramWrote .logRecord
    else if keep.length < 8188 then
      (s.setLog (1 - k) ((if k = 0 then s.mem.logB else s.mem.logA).put (headGen h.head + 1) 0 (keep ++ [new]))).mramWrote .logRecord
    else s

/-! ### The training store (R390) -/

/-- A record of `n` bytes: the CRC over the rest, the unit, the temperature, format 1, and the values. -/
def trainRecord (n unit : Nat) (temp : Int) (values : Nat) : BitVec (8 * n) :=
  let rest := (unit % 2 ^ 16 + toBits 8 temp * 2 ^ 16 + 2 ^ 24 + values * 2 ^ 32) % 2 ^ (8 * (n - 4))
  BitVec.ofNat (8 * n) (crc32c (leBytes (n - 4) rest) + rest * 2 ^ 32)

/-- Is a record there: does its CRC pass? -/
def trainOk (n : Nat) (r : BitVec (8 * n)) : Bool := crc32c (leBytes (n - 4) (r.toNat / 2 ^ 32)) == r.toNat % 2 ^ 32

/-- The temperature at training, in °C. -/
def trainTemp {n : Nat} (r : BitVec (8 * n)) : Int := sext 8 (fld r.toNat 55 48)

def zeroChan (_ : Nat) : BitVec (8 * 128) := 0
def zeroPort (_ : Nat) : BitVec (8 * 512) := 0
def zeroIsland (_ : Nat) : BitVec (8 * 64) := 0

def Training.chan (t : Training) (i : Nat) : BitVec (8 * 128) := Sparse.get zeroChan t.chans i
def Training.port (t : Training) (i : Nat) : BitVec (8 * 512) := Sparse.get zeroPort t.ports i
def Training.island (t : Training) (i : Nat) : BitVec (8 * 64) := Sparse.get zeroIsland t.islands i

/-- The training store replaced. -/
def State.setTrain (s : State) (t : Training) : State := { s with sys := { s.sys with train := t } }

/-- The record of a channel, port or island written after its full training or calibration at a temperature. -/
def State.trainChan (s : State) (temp : Int) (i : Nat) : State :=
  (s.setTrain { s.sys.train with chans := Sparse.set zeroChan s.sys.train.chans i (trainRecord 128 i temp (Config.trained 0 i s.sys.freeCnt)) }).mramWrote (.channel i)

def State.trainPort (s : State) (temp : Int) (i : Nat) : State :=
  (s.setTrain { s.sys.train with ports := Sparse.set zeroPort s.sys.train.ports i (trainRecord 512 i temp (Config.trained 1 i s.sys.freeCnt)) }).mramWrote (.port i)

def State.trainIsland (s : State) (temp : Int) (i : Nat) : State :=
  (s.setTrain { s.sys.train with islands := Sparse.set zeroIsland s.sys.train.islands i (trainRecord 64 i temp (Config.trained 2 i s.sys.freeCnt)) }).mramWrote (.island i)

/-! ### The anti-rollback counters (R467) -/

def zeroRow (_ : Nat) : BitVec 512 := 0

/-- Row `j` of counter `k`. -/
def State.arbRow (s : State) (k j : Nat) : BitVec 512 := Sparse.get zeroRow s.sys.arb (4 * k + j)

/-- The value of a counter: the largest among its rows whose CRC passes. -/
def State.arbValue (s : State) (k : Nat) : Nat :=
  (upto 4).foldl (fun a j => if rowOk (s.arbRow k j) then max a (Machine.fld (s.arbRow k j).toNat 31 0) else a) 0

/-- A row of a counter written. -/
def State.setArbRow (s : State) (k j : Nat) (r : BitVec 512) : State :=
  { s with sys := { s.sys with arb := Sparse.set zeroRow s.sys.arb (4 * k + j) r } }

/-- All rows of a counter written. -/
def State.setArb (s : State) (k v : Nat) : State := ((upto 4).foldl (fun s j => s.setArbRow k j (crcRow (v % 2 ^ 32))) s).mramWrote (.counter k 0)

/-- The boot record written. -/
def State.setBoot (s : State) (b : Boot) : State := ({ s with tender := { s.tender with boot := b } }).mramWrote .boot

/-! ### The 4 MiB (R389) -/

/-- A byte of the rows of a list, each `n` bytes long. -/
def rowByte {w : Nat} (n : Nat) (get : Nat → BitVec w) (a : Nat) : Byte := BitVec.ofNat 8 ((get (a / n)).toNat / 2 ^ (8 * (a % n)))

def UserHalf.byte (h : UserHalf) (a : Nat) : Byte :=
  if a < 64 then rowByte 64 (fun _ => h.head) a
  else ((h.recs.getD ((a - 64) / 24) ⟨0, 0, 0⟩).bytes).getD ((a - 64) % 24) 0

def LogHalf.byte (h : LogHalf) (a : Nat) : Byte := if a < 64 then rowByte 64 (fun _ => h.head) a else rowByte 16 (fun i => h.recs.getD i 0) (a - 64)

def Training.byte (t : Training) (a : Nat) : Byte :=
  if a < 0x28000 then rowByte 128 t.chan a
  else if a < 0x2C800 then rowByte 512 t.port (a - 0x28000)
  else if a < 0x2C800 + 170 * 64 then rowByte 64 t.island (a - 0x2C800)
  else 0

/-- The items of the identity region, in the order of R474: serial number, DevID secret, DevID certificate, certificate of the device CA, and the digest of the
root certificate. Nothing writes them. -/
def identityItems : List (List Byte) :=
  [leBytes 8 Config.serial.toNat, beBytes 48 Config.devIdSecret, Config.devIdCert, Config.deviceCaCert, sha384 Config.rootCert]

/-- The byte of the identity region at an offset, from item `k` on. -/
def identityFrom : Nat → List (List Byte) → Nat → Byte
  | _, [], a => Config.identityByte a
  | k, bs :: rest, a => if Config.identityAt k ≤ a ∧ a < Config.identityAt k + bs.length then bs.getD (a - Config.identityAt k) 0 else identityFrom (k + 1) rest a

/-- The byte of the MRAM at an offset. -/
def State.mramByte (s : State) (a : Nat) : Byte :=
  let b := s.tender.boot
  if a < 0x1000 then identityFrom 0 identityItems a
  else if a < 0x2000 then rowByte 64 (fun i => Sparse.get zeroRow s.sys.arb i) (a - 0x1000)
  else if a < 0x4000 then Config.layoutByte b.active b.ready b.trial b.advance (a - 0x2000)
  else if a < 0x14000 then s.sys.userA.byte (a - 0x4000)
  else if a < 0x24000 then s.sys.userB.byte (a - 0x14000)
  else if a < 0x44000 then s.mem.logA.byte (a - 0x24000)
  else if a < 0x64000 then s.mem.logB.byte (a - 0x44000)
  else if a < 0xA4000 then s.sys.train.byte (a - 0x64000)
  else if a < 0x100000 then 0
  else if a < 0x280000 then Sparse.get zeroByte s.tender.slotA (a - 0x100000)
  else if a < 0x400000 then Sparse.get zeroByte s.tender.slotB (a - 0x280000)
  else 0

/-! ### Power lost during a write (R392, R405) -/

/-- A record or row with a CRC that fails, whatever its CRC was: 16 bytes with the CRC last, a row of 64 bytes, a training record with the CRC first. -/
def badRecord (r : BitVec 128) : BitVec 128 := let x := r.toNat % 2 ^ 96; BitVec.ofNat 128 (x + (crc32c (leBytes 12 x) + 1) % 2 ^ 32 * 2 ^ 96)
def badRow (r : BitVec 512) : BitVec 512 := let x := r.toNat % 2 ^ 480; BitVec.ofNat 512 (x + (crc32c (leBytes 60 x) + 1) % 2 ^ 32 * 2 ^ 480)
def badTrain (n : Nat) (r : BitVec (8 * n)) : BitVec (8 * n) := let x := r.toNat / 2 ^ 32; BitVec.ofNat (8 * n) ((crc32c (leBytes (n - 4) x) + 1) % 2 ^ 32 + x * 2 ^ 32)

/-- A write of the MRAM cut off. A record of the log or of the training store, and a row of a counter, is left with a CRC that fails; a half that a STORE was
writing has the first records of the new layer under its former header; the layout header or the boot record no longer passes its check. -/
def State.torn (s : State) : MramTear → State
  | .logRecord =>
    (match s.logActive with
     | some (k, h) => let n := h.live.length - 1; s.setLog k { h with recs := setAt h.recs n (badRecord (h.recs.getD n 0)) }
     | none => s)
  | .channel i => s.setTrain { s.sys.train with chans := Sparse.set zeroChan s.sys.train.chans i (badTrain 128 (s.sys.train.chan i)) }
  | .port i => s.setTrain { s.sys.train with ports := Sparse.set zeroPort s.sys.train.ports i (badTrain 512 (s.sys.train.port i)) }
  | .island i => s.setTrain { s.sys.train with islands := Sparse.set zeroIsland s.sys.train.islands i (badTrain 64 (s.sys.train.island i)) }
  | .counter k j => s.setArbRow k j (badRow (s.arbRow k j))
  | .userHalf n =>
    (match s.sys.storeReq with
     | some recs =>
       let k := s.nextHalf.1
       let h := if k = 0 then s.sys.userA else s.sys.userB
       s.setHalf k { h with recs := recs.take n ++ h.recs.drop n }
     | none => s)
  | .boot => { s with tender := { s.tender with boot := { s.tender.boot with ok := false } } }

/-- The writes of the MRAM that may be under way: that of a STORE, of which `n` records may have been written, and the last write of a command while the time
has not moved on; of a counter it may be any row. -/
def State.writesNow (s : State) (n : Nat) : List MramTear :=
  (if s.sys.storeReq.isSome then [.userHalf n] else []) ++
    (match s.sys.lastWrite with
     | some (w, t) => if t = s.sys.time then [match w with | .counter k _ => .counter k (n % 4) | w => w] else []
     | none => [])

end Sys2Proof.Machine
end

