-- ==== Sys2Proof/Machine/FabOps.lean ====
section
/-! DEFINITION. What headbox, ports and collectives share of the fabric: branch groups, stream causes, flow entries, routes, the counting of
transfers, and the queues of streams (R33, R325 to R336, R344). -/

namespace Sys2Proof.Machine

/-! ### Groups, streams, routes -/

/-- The branch group of a cluster, which is also its stream (R33, R34). -/
def State.groupOf (s : State) (c : Nat) : Nat := (s.fab.groups.findIdx? (·.testBit c)).getD 0

/-- The logical ids of a branch group. -/
def State.groupIds (s : State) (g : Nat) : List Nat := (upto 1200).filter fun i => s.groupOf (i / 12) == g

/-- Is the core of a position not started, or stopped at its couch point with everything completed that a couch point waits for (R155, R185, R411)? -/
def State.atRest (s : State) (p : Nat) : Bool :=
  let w := (s.coreAt p).work
  s.stateOf p == 0 || (s.stateOf p == 6 && w.loads.isEmpty && w.vq.isEmpty && w.tq.isEmpty)

/-- Has no core of a branch group a program under way: each is not started or stopped (R35, R374)? A slot without a position has none. -/
def State.groupIdle (s : State) (g : Nat) : Bool :=
  (s.groupIds g).all fun i =>
    match s.posOf i with
    | some p => s.atRest p
    | none => true

/-- Is a branch group stopped: asked to stop, and every core of it stopped at its couch point or not started (R35)? -/
def State.groupStopped (s : State) (g : Nat) : Bool := s.groupStop.contains g && s.groupIdle g

/-- Does a cluster stand still: its branch group is stopped, or a scan has stopped its units (R35, R494)? -/
def State.clusterStopped (s : State) (c : Nat) : Bool := s.groupStopped (s.groupOf c) || s.sys.scanned.contains c

/-- A cause set in a stream's event register (R344). -/
def State.strCause (s : State) (st bit : Nat) : State := s.putBit (Reg.fabStrEvt st) bit true

/-- The output port that the route table names for a device id (R325). -/
def State.routeOf (s : State) (d : Nat) : Option Nat :=
  let e := s.cur (Reg.fabRoute d)
  if wfld e 7 7 = 1 ∧ wfld e 5 0 < 36 then some (wfld e 5 0) else none

/-- Where a cell for a device id goes: to this device itself, which is no port and stands as 36, or to the port of its route (R324). -/
def State.portOf (s : State) (d : Nat) : Option Nat := if d = s.fld Reg.fabMyid 11 0 then some 36 else s.routeOf d

/-- The collective of a number (R339). -/
def State.collOf (s : State) (n : Nat) : Option Coll := s.fab.colls.find? fun c => c.id == n

def State.sflow (s : State) (f hi lo : Nat) : Nat := s.fld (Reg.fabSflow f 0) hi lo
def State.rflow (s : State) (f hi lo : Nat) : Nat := s.fld (Reg.fabRflow f 0) hi lo
/-- Slot credits held by a send flow (R334). -/
def State.creditOf (s : State) (f : Nat) : Nat := s.fld (Reg.fabSflow f 1) 31 16
def State.setCredit (s : State) (f n : Nat) : State := s.putFld (Reg.fabSflow f 1) 31 16 n

/-- A transfer or an occurrence completed in a stream (R358). -/
def State.strDone (s : State) (st : Nat) : State := s.bump (Reg.fabStrXfers st) 1

/-- A cell discarded, counted and reported (R309, R327). A cell of this device for itself has no port (36). -/
def State.discard (s : State) (p : Nat) : State :=
  let st := s.fld (Reg.fabPStat p) 2 0
  if 36 ≤ p then (s.bump Reg.fabDiscard 1).linkEvent 0 0 0x7FF 0 0 0 (s.fld Reg.fabMyid 11 0)
  else (s.bump Reg.fabDiscard 1).linkEvent 5 p 0x7FF 0 st st (s.fld (Reg.fabPPeer p) 11 0)

/-- `n` cells of this device for an id without a route, each discarded, counted and reported (R327). -/
def State.discardOwn (d : Nat) : Nat → State → State
  | 0, s => s
  | n + 1, s => State.discardOwn d n ((s.bump Reg.fabDiscard 1).linkEvent 0 0 0x7FF 0 0 0 d)

/-! ### Counting (R77, R78, R335, R336) -/

/-- A completion counter of a position advanced. -/
def State.hbcUp (s : State) (pos k : Nat) : State :=
  let a := (s.coreAt pos).arch
  s.setArch pos { a with hbc := Sparse.set zeroWord a.hbc k (Sparse.get zeroWord a.hbc k + 1) }

/-- The headbox transfer with a number, and the position whose headbox holds it. -/
def State.xferFor (s : State) (xid : Nat) : Option (Nat × Xfer) :=
  s.cores.findSome? fun p => (p.2.work.hbq.find? fun x => x.xid == xid).map fun x => (p.1, x)

/-- A transfer of a headbox changed. -/
def State.modXfer (s : State) (xid : Nat) (f : Xfer → Xfer) : State :=
  match s.xferFor xid with
  | none => s
  | some (pos, _) => s.modCore pos fun c => { c with work := { c.work with hbq := c.work.hbq.map fun x => if x.xid = xid then f x else x } }

/-- A transfer counts on its counter, or at the entry of the exception that it has raised when that has not been taken (R78, R443). -/
def State.countXfer (s : State) (x : Xfer) : State :=
  match (if x.lcid < 1200 then s.posOf x.lcid else none) with
  | none => s
  | some p =>
    let f := (s.coreAt p).arch.flow
    if x.bad && f.deferred.any (fun e => e.xid == x.xid) then
      s.setFlow p { f with deferred := f.deferred.map fun e => if e.xid = x.xid then { e with hbk := [x.k] } else e }
    else s.hbcUp p x.k

/-- A transfer ends: it leaves its headbox and counts. -/
def State.xferDone (s : State) (xid : Nat) : State :=
  match s.xferFor xid with
  | none => s
  | some (pos, x) =>
    let s := s.modCore pos fun c => { c with work := { c.work with hbq := c.work.hbq.filter fun y => y.xid ≠ xid } }
    s.countXfer x

/-- The exception of a transfer, raised once (R78, R443): KIND and ADDR. -/
def State.xferFault (s : State) (x : Xfer) (kind addr : Nat) : State :=
  if ((s.xferFor x.xid).map (fun y => y.2.bad)).getD x.bad then s
  else
    let s := s.modXfer x.xid fun y => { y with bad := true }
    match (if x.lcid < 1200 then s.posOf x.lcid else none) with
    | none => s
    | some p =>
      let f := (s.coreAt p).arch.flow
      s.setFlow p { f with deferred := f.deferred ++
        [{ code := 0x0C, kind := kind, syl := 0x1F, reg := 0, info := 0, addr := BitVec.ofNat 64 addr, next := true, deferred := true
           fleaf := x.leaf, hbk := [], xid := x.xid }] }

/-! ### Sends, slot releases and contributions after their issue (R330, R333, R335, R337, R339) -/

/-- Is the mill held at an epoch boundary (R346)? No stream starts a new transfer or collective then. -/
def State.isHeld (s : State) : Bool := s.fld Reg.fabJobstat 2 0 = 4

/-- A cell has come to wait: a held device is not quiet (R346). -/
def State.unquiet (s : State) : State := if s.isHeld then s.putBit Reg.fabHold 62 false else s

/-- A transfer queued in its stream for the port of its destination; slot releases go ahead of other cells (R330). -/
def State.enqueue (s : State) (i : OutItem) : State :=
  let q := s.fab.queues
  let q' := if i.typ = 3 then (q.filter fun x => x.typ == 3) ++ [i] ++ q.filter fun x => x.typ != 3 else q ++ [i]
  State.unquiet { s with fab := { s.fab with queues := q' } }

/-- A send takes a slot credit and becomes ready (R335). A destination without a route has no port; its cells are discarded (R327). -/
def State.readySend (s : State) (x : Xfer) : State :=
  let st := s.sflow x.num 59 56
  let dst := s.sflow x.num 43 32
  let s := (s.setCredit x.num (s.creditOf x.num - 1)).modXfer x.xid fun y => { y with begun := true }
  match s.portOf dst with
  | none => ((State.discardOwn dst (x.len / 256) s).strDone st).xferDone x.xid
  | some p =>
    s.enqueue { stream := st, port := p, typ := 1, dst := dst, flow := s.sflow x.num 55 44, idx := 0, cells := x.len / 256, src := x.src, data := []
                wm := x.wm, wins := x.wins, aux := 0, xid := some x.xid, last := true }

/-- Sends of a flow that wait for a slot credit take those there are, in the order of their issue. -/
def State.takeCredits (f : Nat) : Nat → State → State
  | 0, s => s
  | n + 1, s =>
    let waiting := (s.cores.flatMap fun p => p.2.work.hbq).filter fun x => x.kind == 1 && !x.begun && x.num == f
    match waiting with
    | [] => s
    | x :: xs =>
      if s.creditOf f = 0 ∨ s.isHeld then s
      else State.takeCredits f n (s.readySend (xs.foldl (fun a b => if b.xid < a.xid then b else a) x))

/-- A transfer that fails a check against the mill image moves nothing, counts, and sets a cause of its stream (R333). -/
def State.millFail (s : State) (x : Xfer) (st cause : Nat) : State := (s.strCause st cause).xferDone x.xid

/-- The watermark windows of a contribution: those of its issue, or those of now when only the collective's entry says WM (R339, R341). -/
def State.contribWins (s : State) (k : Coll) (x : Xfer) : List WmWin := if k.wm && !x.wm then s.wins else x.wins

/-- A fabric transfer after its issue: the checks against the loaded image in the order of R333, then the hand-over to the stream, the port
or the sequencer. A transfer of no bytes completes at once. -/
def State.startFab (s : State) (c : Nat) (x : Xfer) : State :=
  let st := s.groupOf c
  let loaded := decide (x.num < 4096)
  if x.kind = 0 ∨ (s.isHeld ∧ x.kind ≠ 2) then s
  else if x.kind = 1 then
    if !loaded ∨ s.sflow x.num 63 63 = 0 then s.millFail x st 0
    else if s.sflow x.num 59 56 ≠ st then s.millFail x st 1
    else if s.sflow x.num 31 0 < x.len then s.millFail x st 3
    else if x.len = 0 then (s.strDone st).xferDone x.xid
    else State.takeCredits x.num 1 s
  else if x.kind = 3 then
    if !loaded ∨ s.rflow x.num 63 63 = 0 then s.millFail x st 0
    else if s.rflow x.num 59 56 ≠ st then s.millFail x st 1
    else
      match s.portOf (s.rflow x.num 43 32) with
      | none => ((State.discardOwn (s.rflow x.num 43 32) 1 s).strDone st).xferDone x.xid
      | some p =>
        (s.modXfer x.xid fun y => { y with begun := true }).enqueue
          { stream := st, port := p, typ := 3, dst := s.rflow x.num 43 32, flow := s.rflow x.num 55 44, idx := 0, cells := 1, src := 0, data := []
            wm := false, wins := [], aux := x.len % 2 ^ 16, xid := some x.xid, last := true }
  else
    match s.collOf x.num with
    | none => s.millFail x st 0
    | some k =>
      if k.stream ≠ st then s.millFail x st 1
      else if !(k.loc.contains x.lcid) ∨ Sparse.get zeroNat s.fab.occNext (occKey x.num x.lcid) ≠ x.occ then s.millFail x st 2
      else if k.len ≠ x.len then s.millFail x st 3
      else
        { s with fab := { s.fab with
            occNext := Sparse.set zeroNat s.fab.occNext (occKey x.num x.lcid) (x.occ + 1)
            ins := s.fab.ins ++ [⟨x.num, x.occ, x.lcid, x.src, x.dst, x.strm, s.contribWins k x, x.xid, false⟩] } }

/-! ### The scratch region of a collective (R338, R339) -/

/-- Bytes of an element of a collective format (R339). -/
def collBytes (f : Nat) : Nat := if f = 2 ∨ f = 3 then 8 else if f = 0 ∨ f = 4 then 4 else 2

/-- Bytes of the partial sums of one child, in whole cells; a record has nine (R226, R339, R342). -/
def Coll.slotBytes (k : Coll) : Nat := if k.typ = 4 then 2304 else cdiv (k.len * (collBytes k.accf / collBytes k.fmt)) 256 * 256

/-- Where cell `idx` of the child in `slot` stands in the scratch region, child after child (log row 95). -/
def Coll.scratchAt (k : Coll) (slot idx : Nat) : Nat := k.scratch + slot * k.slotBytes + 256 * idx

/-- The bytes of the scratch region: a slot for each child of the segment that has most. All-gather and broadcast take no partial sums. -/
def Coll.scratchLen (k : Coll) : Nat :=
  if k.typ = 2 ∨ k.typ = 3 then 0 else k.slotBytes * k.segs.foldl (fun n g => max n g.child.length) 0

/-- Bytes that a collective writes at a contributor's DST, as ranges (R333, R340): the whole result, or the segments whose tree has its root
here in a reduce-scatter. -/
def Coll.resultRanges (k : Coll) (dst : Nat) : List (Nat × Nat) :=
  if k.typ = 1 then (k.segs.filter (·.root)).map fun g => (dst + g.off, g.slen) else [(dst, k.len)]

end Sys2Proof.Machine
end

