-- ==== Sys2Proof/Machine/SnapOps.lean ====
section
/-! DEFINITION. What the snapshot engine shares with the fabric and the memory tiers: copies of pages, a failed generation, and the parity of a
group (R416 to R427, R437). -/

namespace Sys2Proof.Machine

def pageBytes : Nat := 2 ^ 21

/-- The bytes of a range of a memory, keyed from 0. -/
def Sparse.range (m : Memory) (a n : Nat) : Memory := (m.filter fun x => decide (a ≤ x.1) && decide (x.1 < a + n)).map fun x => (x.1 - a, x.2)

/-- A range of a memory replaced by bytes keyed from 0. -/
def Sparse.putRange (m : Memory) (a n : Nat) (v : Memory) : Memory :=
  v.foldl (fun m x => Sparse.set zeroByte m (a + x.1) x.2) (m.filter fun x => !(decide (a ≤ x.1) && decide (x.1 < a + n)))

/-- Bytes keyed from 0 combined by exclusive or into a range of a memory (R427). -/
def Sparse.xorRange (m : Memory) (a : Nat) (v : Memory) : Memory :=
  v.foldl (fun m x => Sparse.set zeroByte m (a + x.1) (Sparse.get zeroByte m (a + x.1) ^^^ x.2)) m

/-- The snapshot engine as the agent of an access. -/
def engineWho : Who := { agent := 9 }

/-- A range of the tiers written by the engine, which is not checked; its units hold correct check bits afterwards, and a later corrected error in a sector of it
recurs (R259). -/
def State.engineWrite (s : State) (a n : Nat) (f : Memory → Memory) : State :=
  let s := (s.reachRange engineWho a n).yieldLines true a n
  let inside (u : Nat) : Bool := decide (a ≤ u) && decide (u < a + n)
  let s := { s with mem := { s.mem with
      tiers := f s.mem.tiers, errs := s.mem.errs.filter (fun e => !(inside e.1)), flips := s.mem.flips.filter (fun e => !(inside e.1))
      ceSectors := s.mem.ceSectors.map fun (x : CeSector) => if inside x.u then { x with again := true } else x } }
  s.agentWrote true a n

/-- The 2 MiB of the tiers at `a` as the engine reads them: corrected units are reported, uncorrectable ones are reported and copied as read (R252, R287,
R456). -/
def State.engineRead (s : State) (a : Nat) : State × Memory :=
  let s := s.reachRange engineWho a pageBytes
  let keys := (s.mem.errs.map (·.1)).filter fun u => decide (a ≤ unitAddr u) && decide (unitAddr u < a + pageBytes)
  let s := keys.foldl (fun s u => if 2 ^ 56 ≤ u then s.shedWord engineWho none (unitAddr u) else s) s
  (keys.filter fun u => s.unitAt none (unitAddr u) == some u).foldl (fun (acc : State × Memory) u =>
    let r := acc.1.meetUnit engineWho u
    if r.2 then
      let q := if r.1.isBad u then r.1.unitAsRead u else (r.1, r.1.bytes none (unitAddr u) (unitLen u))
      (q.1, (upto q.2.length).foldl (fun m i => Sparse.set zeroByte m (unitAddr u - a + i) (q.2.getD i 0)) acc.2)
    else (r.1, acc.2)) (s, Sparse.range s.mem.tiers a pageBytes)

/-- Event class 0x0D (R456). -/
def State.snapEvent (s : State) (code gen : Nat) : State := s.post { cls := 0x0D, sev := 1, ukind := 0, uidx := 0, d0 := code, d1 := gen }

def State.snapErr (s : State) (code : Nat) : State := s.putFld Reg.snapStat 23 16 code

/-- The generation being drained fails; nothing stays protected (R437). -/
def State.snapFail (s : State) (code : Nat) : State :=
  match s.snap.cur with
  | none => s
  | some g =>
    let s := { s with snap := { s.snap with cur := none, prot := [], pool := [], copying := [], sending := none, wants := none } }
    ((s.putFld Reg.snapStat 2 0 0).snapErr code).snapEvent code g.gen

/-! ### Parity groups (R426, R427) -/

/-- The member whose receive flow a flow is (R438). -/
def State.partnerOf (s : State) (f : Nat) : Option Nat :=
  let g := s.fld Reg.snapPgrp 4 0
  (upto g).find? fun m => s.fld (Reg.snapPmem m) 43 32 == f && m != s.fld Reg.snapPgrp 12 8

/-- Where half `n` of the partner region begins. -/
def State.partHalf (s : State) (n : Nat) : Nat :=
  s.fld Reg.snapPart 47 21 * pageBytes + n * ((s.fld Reg.snapPart 15 0 + 16 * s.fld Reg.snapPgrp 31 16) * pageBytes)

/-- SNAP.PGEN: the newest generation with every contribution to every parity page and every manifest in its half (R427), or 0. -/
def State.updPgen (s : State) : State :=
  let pages := s.fld Reg.snapPart 15 0
  let g := s.fld Reg.snapPgrp 4 0
  let whole (n : Nat) : Bool :=
    (upto pages).all (fun r => s.snap.parity.contains (n, r, g - 1)) && decide (g - 1 ≤ (s.snap.manifests.filter fun x => x.1 == n).length)
  s.put Reg.snapPgen (BitVec.ofNat 64 (((s.snap.manifests.map (·.1)).filter whole).foldl max 0))

/-- Own index left out, the member indices of the group in ascending order (R426). -/
def State.others (s : State) : List Nat := (upto (s.fld Reg.snapPgrp 4 0)).filter fun m => m != s.fld Reg.snapPgrp 12 8

/-- Does what stands in a half at `y` stay when generation `n` writes into its half: it is of that generation, or in the other half? -/
def staysFor (n y : Nat) : Bool := y == n || y % 2 != n % 2

/-- Has a newer generation written into the half of generation `n` (log row 187)? -/
def State.overtaken (s : State) (n : Nat) : Bool :=
  (s.snap.parity.map (·.1) ++ s.snap.manifests.map (·.1)).any fun y => !(staysFor n y) && decide (n < y)

/-- Page `r` of a generation from a member: the first contribution is written, a later one combined into it (R427). -/
def State.parityPage (s : State) (gen r : Nat) (v : Memory) : State :=
  if s.fld Reg.snapPart 15 0 ≤ r ∨ s.overtaken gen then s
  else
    let d := s.partHalf (gen % 2) + r * pageBytes
    let n : Nat := ((s.snap.parity.find? fun y => y.1 == gen && y.2.1 == r).map (·.2.2)).getD 0
    let s := s.engineWrite d pageBytes fun t => if n = 0 then Sparse.putRange t d pageBytes v else Sparse.xorRange t d v
    let rest := s.snap.parity.filter fun y => staysFor gen y.1 && !(y.1 == gen && y.2.1 == r)
    State.updPgen { s with snap := { s.snap with parity := rest ++ [(gen, r, n + 1)], manifests := s.snap.manifests.filter fun y => staysFor gen y.1 } }

/-- The manifest of member `m`, of the generation that it names, put into the member's area (R423, R427). -/
def State.partManifest (s : State) (m : Nat) (v : Memory) : State :=
  let gen := ofLe (memBytes v 8 4)
  if s.overtaken gen then s
  else
    let size := s.fld Reg.snapPgrp 31 16 * pageBytes
    let d := s.partHalf (gen % 2) + s.fld Reg.snapPart 15 0 * pageBytes + m * size
    let s := s.engineWrite d size fun t => Sparse.putRange t d size v
    State.updPgen { s with snap := { s.snap with
      parity := s.snap.parity.filter fun y => staysFor gen y.1, manifests := addNew (s.snap.manifests.filter fun y => staysFor gen y.1) (gen, m) } }

/-- Has every member but `k` sent page `r` of its stripe for the rebuild of `k` at a generation (R433)? -/
def State.wholePage (s : State) (k gen r : Nat) : Bool :=
  (s.others.filter (· != k)).all fun j => s.snap.served.any fun x => x.gone == k && x.mem == j && x.gen == gen && x.r == r

/-- What this device owes the spare of `k` once pages `rs` are whole: the rebuilt pages, and after the last the manifest of the failed member (R433). -/
def State.oweRebuilt (s : State) (k gen : Nat) (rs : List Nat) : State :=
  let all := (upto (s.fld Reg.snapPart 15 0)).all (s.wholePage k gen)
  { s with snap := { s.snap with todo := s.snap.todo ++ rs.map (fun r => (k, Owed.result r)) ++ if all then [(k, Owed.area k)] else [] } }

/-- The member of the group that a spare replaces at a generation: the one by whose device id a patch set in force is keyed (R432), or the one for which another
member has begun to serve (log row 100). -/
def State.replaced (s : State) (gen : Nat) : Option Nat :=
  (s.others.find? fun m => s.fab.patches.any fun p =>
    p.dev == s.fld (Reg.snapPmem m) 11 0 && p.port.isNone && !p.recs.isEmpty && p.recs.all fun r => s.fab.inForce.any fun u => u.set == r).or
  ((s.snap.served.find? fun x => x.gen == gen).map (·.gone))

/-- Ordinal of page `r` of a stripe (R426). -/
def State.ordinal (s : State) (stripe r : Nat) : Nat := r * max 1 s.others.length + stripe

/-- Member `m`'s place among the members other than this device: the pages with ordinals that leave it modulo their number are its stripe (R426). -/
def State.stripeOf (s : State) (m : Nat) : Nat := s.others.findIdx (· == m)

/-- A device that restores a generation from its own store while a member is replaced serves the rebuild of that member, when its copy and its parity of the
generation are complete: it owes every other member the pages of that member's stripe, and the spare what has already come whole (R432, R433; log row 100). -/
def State.startServe (s : State) (gen : Nat) : State :=
  let pages := s.fld Reg.snapPart 15 0
  match s.replaced gen, s.snap.gens.find? fun (g : Gen) => g.gen == gen && g.complete with
  | some k, some g =>
    if s.snap.serve.isNone && (upto pages).all fun r => s.snap.parity.contains (gen, r, s.fld Reg.snapPgrp 4 0 - 1) then
      let owed := (s.others.filter (· != k)).flatMap fun m =>
        (upto pages).map fun r => (m, (g.set[s.ordinal (s.stripeOf m) r]?.map fun p => Owed.page gen p (.stored k gen r)).getD (.zeros (.stored k gen r)))
      let s := { s with snap := { s.snap with serve := some (k, gen), todo := s.snap.todo ++ owed } }
      let s := if s.fld Reg.snapStat 2 0 = 0 then s.putFld Reg.snapStat 2 0 4 else s
      s.oweRebuilt k gen ((upto pages).filter (s.wholePage k gen))
    else s
  | _, _ => s

/-- Has this device been asked to restore a generation from its own store (R429)? -/
def State.restoresLocally (s : State) (gen : Nat) : Bool :=
  s.fld Reg.snapRestore 49 48 = 0 && s.fld Reg.snapRestore 31 0 = gen && (s.fld Reg.fabJobstat 2 0 = 0 || s.fld Reg.fabJobstat 2 0 = 1)

/-- A page that member `m` has sent from its store for the rebuild of member `k`: once every member but `k` has sent page `r` of the
stripe, the rebuilt page is owed to the spare (R433). A member that restores the generation and did not know of the rebuild begins to serve. -/
def State.servedPage (s : State) (k m gen r : Nat) (v : Memory) : State :=
  if s.fld Reg.snapPart 15 0 ≤ r ∨ (s.snap.served.any fun x => x.gone == k && x.mem == m && x.gen == gen && x.r == r) then s
  else
    let s := { s with snap := { s.snap with served := s.snap.served ++ [StripePage.mk k m gen r v] } }
    if s.snap.serve = some (k, gen) then (if s.wholePage k gen r then s.oweRebuilt k gen [r] else s)
    else if s.restoresLocally gen then s.startServe gen
    else s

/-- A message from member `m` has landed at `a`, with what it is (R426, R427, R433). -/
def State.partMessage (s : State) (m a : Nat) (t : PartMsg) : State :=
  match t with
  | .page gen r => let x := s.engineRead a; x.1.parityPage gen r x.2
  | .manifest => s.partManifest m (Sparse.range s.mem.tiers a (s.fld Reg.snapPgrp 31 16 * pageBytes))
  | .stored k gen r => let x := s.engineRead a; x.1.servedPage k m gen r x.2
  | .result gen r =>
    let x := s.engineRead a
    { x.1 with snap := { x.1.snap with rebuilt := x.1.snap.rebuilt ++ [StripePage.mk (s.fld Reg.snapPgrp 12 8) m gen r x.2] } }
  | .area gen =>
    let bs := s.bytes none a (s.fld Reg.snapPgrp 31 16 * pageBytes)
    { s with snap := { s.snap with areas := if s.snap.areas.any (·.1 == gen) then s.snap.areas else s.snap.areas ++ [(gen, bs)] } }

end Sys2Proof.Machine
end

