-- ==== Sys2Proof/Machine/Fabric.lean ====
section
/-! DEFINITION. Zalton ports: cells, the link protocol, port states, sheets, delivery, and the mill job (R305 to R337, R344 to R358). -/

namespace Sys2Proof.Machine

/-! ### Cells (R308) -/

def Cell.fld (c : Cell) (hi lo : Nat) : Nat := Machine.fld c.header.toNat hi lo
def Cell.typ (c : Cell) : Nat := Cell.fld c 3 0
def Cell.last (c : Cell) : Bool := Cell.fld c 4 4 = 1
def Cell.wb (c : Cell) : Bool := Cell.fld c 5 5 = 1
def Cell.seq (c : Cell) : Nat := Cell.fld c 19 8
def Cell.dst (c : Cell) : Nat := Cell.fld c 51 40
def Cell.flow (c : Cell) : Nat := Cell.fld c 63 52
def Cell.aux (c : Cell) : Nat := Cell.fld c 95 64

/-- The CRC of a cell, over header bytes 0 to 11 and the payload. -/
def cellCrc (head payload : Nat) : Nat := crc32 (leBytes 12 head ++ leBytes 256 payload)

/-- Does the CRC of a cell pass? -/
def Cell.crcOk (c : Cell) : Bool := Cell.fld c 127 96 == cellCrc c.header.toNat c.payload.toNat

/-- The end-to-end part of a header. -/
def endToEnd (typ dst flow aux : Nat) (last wb : Bool) : Nat :=
  typ % 16 + b2n last * 2 ^ 4 + b2n wb * 2 ^ 5 + dst % 2 ^ 12 * 2 ^ 40 + flow % 2 ^ 12 * 2 ^ 52 + aux % 2 ^ 32 * 2 ^ 64

/-- A cell without hop fields, as it waits in a queue. -/
def rawCell (typ dst flow aux : Nat) (last wb : Bool) (payload : BitVec 2048) : Cell :=
  { header := BitVec.ofNat 128 (endToEnd typ dst flow aux last wb), payload := payload }

/-- A cell with the hop fields of a port and its CRC. -/
def sealCell (c : Cell) (relayed : Bool) (seq ack cred : Nat) (nak : Bool) : Cell :=
  let e2e := endToEnd (Cell.typ c) (Cell.dst c) (Cell.flow c) (Cell.aux c) (Cell.last c) (Cell.wb c)
  let h := e2e + b2n relayed * 2 ^ 6 + b2n nak * 2 ^ 7 + seq % 4096 * 2 ^ 8 + ack % 4096 * 2 ^ 20 + cred % 256 * 2 ^ 32
  { header := BitVec.ofNat 128 (h + cellCrc h c.payload.toNat * 2 ^ 96), payload := c.payload }

/-! ### Port states (R316 to R319) -/

def State.portState (s : State) (p : Nat) : Nat := s.fld (Reg.fabPStat p) 2 0

/-- A change of a port's state posts event class 0x06. -/
def State.setPortState (s : State) (p new : Nat) : State :=
  let old := s.portState p
  if old = new then s else (s.putFld (Reg.fabPStat p) 2 0 new).linkEvent 5 p 0x7FF 0 old new (s.fld (Reg.fabPPeer p) 11 0)

def State.portCredit (s : State) (p : Nat) : Nat := s.fld (Reg.fabPStat p) 39 30
def State.setPortCredit (s : State) (p n : Nat) : State := s.putFld (Reg.fabPStat p) 39 30 (min n 963)

/-- The level that a link uses: the lower of its link level and of the job level that both ends have announced (R322, R323). -/
def State.levelOf (s : State) (p : Nat) : Nat := min (s.fld (Reg.fabPStat p) 11 8) (min (s.fld Reg.fabLevel 11 8) (s.portAt p).peerLevel)

/-- A port in UP enters RETRAIN (R317, R318). -/
def State.enterRetrain (s : State) (p : Nat) : State :=
  if s.portState p ≠ 3 then s
  else ((s.setPortState p 4).bump (Reg.fabPCnt p 6) 1).modPort p fun x => { x with resend := [], replays := 0, fecBad := [] }

/-- Does a route of stream `st` use a port (R344, cause 6)? -/
def State.routeUses (s : State) (st p : Nat) : Bool :=
  let on (d : Nat) : Bool := s.routeOf d == some p
  ((upto 4096).any fun f => (s.sflow f 63 63 == 1 && s.sflow f 59 56 == st && on (s.sflow f 43 32)) ||
      (s.rflow f 63 63 == 1 && s.rflow f 59 56 == st && on (s.rflow f 43 32))) ||
    s.fab.colls.any fun k => k.stream == st && k.segs.any fun g => (!g.root && on g.parent) || g.child.any on

/-- Replaying from ACK + 1: all unacknowledged cells, or at level 2 the oldest alone (R313, R322). -/
def State.startReplay (s : State) (p : Nat) : State :=
  let x := s.portAt p
  if x.replay.isEmpty then s
  else
    let again := if 2 ≤ s.levelOf p then x.replay.take 1 else x.replay
    let s := (s.setPort p { x with resend := again, replays := x.replays + 1 }).bump (Reg.fabPCnt p 5) 1
    if 8 ≤ x.replays + 1 then s.enterRetrain p else s

/-- REPLAY_TIMEOUT: the ACK has not advanced for 4 µs (R313). -/
def execReplayTimeout (p : Nat) (s : State) : Host.Outcome State Fault Refusal :=
  answer (Instr.wf (.replayTimeout p)) s fun s => if 1 ≤ s.portState p ∧ s.portState p ≤ 3 then s.startReplay p else s

/-- LANE_LOCK_LOSS (R317). -/
def execLaneLockLoss (p : Nat) (s : State) : Host.Outcome State Fault Refusal := answer (Instr.wf (.laneLockLoss p)) s fun s => s.enterRetrain p

/-- FAB_P_CTRL_RETRAIN: a write of FAB.Pp.CTRL.RETRAIN = 1 (R317). -/
def execFabPCtrlRetrain (p : Nat) (s : State) : Host.Outcome State Fault Refusal := answer (Instr.wf (.fabPCtrlRetrain p)) s (State.written fun s => s.enterRetrain p)

/-- Does any cell of the device wait in a queue, a replay buffer or a receive buffer (R346)? -/
def State.noCells (s : State) : Bool :=
  s.fab.queues.isEmpty && (s.fab.ports.all fun p => p.2.replay.isEmpty && p.2.rx.isEmpty && p.2.gap.isEmpty && p.2.ctl.isEmpty) && s.fab.held.isEmpty

/-- FAB.HOLD.QUIET follows what waits (R346). -/
def State.updQuiet (s : State) : State := s.putBit Reg.fabHold 62 (s.isHeld && s.noCells)

/-! ### Link-up (R320, R321, R398) -/

def State.hasMillId (s : State) : Bool := decide (1 ≤ s.fld Reg.fabJobstat 2 0) && s.fld Reg.fabJobstat 2 0 != 5

/-- The payload of the link-up exchange of a port: operation 1, device id, port, LMAX and MILLID. Until the configuration layer has set FAB.MYID it gives role
and seat and no MILLID (R398). -/
def State.linkupPayload (s : State) (p : Nat) : BitVec 2048 :=
  let id := if s.fab.myIdSet then s.fld Reg.fabMyid 11 0 else 0xF000 + 0x10 * s.fld Reg.cfgStraps 5 4 + s.fld Reg.cfgStraps 3 0
  BitVec.ofNat 2048 (1 + id * 2 ^ 16 + p * 2 ^ 32 + s.fld Reg.fabLevel 3 0 * 2 ^ 40 + (if s.fab.myIdSet ∧ s.hasMillId then s.fab.millId else 0) * 2 ^ 64)

/-- A control cell queued on a port. -/
def State.sendControl (s : State) (p : Nat) (payload : BitVec 2048) : State :=
  (s.modPort p fun x => { x with ctl := x.ctl ++ [rawCell 4 0 0 0 false false payload] }).unquiet

/-- The link-up exchange sent on a port. -/
def State.sendLinkup (s : State) (p : Nat) : State := s.sendControl p (s.linkupPayload p)

/-- The link-up exchange sent on a port whose peer answers it (R321, R349, R352; log row 184). -/
def State.askPeer (s : State) (p : Nat) : State := (s.sendLinkup p).modPort p fun x => { x with asked := true }

/-- The announcement of a job level (R323, operation 2): the level stands where the link-up exchange has LMAX (log row 89). -/
def State.announce (s : State) (p level : Nat) : State := s.sendControl p (BitVec.ofNat 2048 (2 + level * 2 ^ 40))

/-- Has a port sent its link-up exchange: it is in service or in a window, or has trained (R321)? -/
def State.linkedUp (s : State) (p : Nat) : Bool :=
  let st := s.portState p
  (decide (2 ≤ st) && decide (st ≤ 4)) || (st == 1 && (s.portAt p).trained)

/-- A link that starts anew has lost the cells of an image that it was sending (R399). -/
def State.imageUnsent (s : State) (p : Nat) : State := { s with sys := { s.sys with imgSent := s.sys.imgSent.filter (·.2 ≠ p) } }

/-- A port goes DOWN: its link protocol starts anew at the next link-up; relayed cells that it holds go on draining. -/
def State.portDown (s : State) (p : Nat) : State :=
  let x := s.portAt p
  let s := (s.setPort p { Port.reset with rx := x.rx, sheet := x.sheet }).imageUnsent p
  (((s.putFld (Reg.fabPStat p) 39 30 0).putFld (Reg.fabPStat p) 11 8 0).putFld (Reg.fabPStat p) 4 3 0).setPortState p 0

/-- Does a port reuse its stored training values: in a warm start, with a valid record (R320, R400)? -/
def State.reuses (s : State) (p : Nat) : Bool := decide (s.fld Reg.cfgStat 3 0 < 7) && !(s.bit Reg.cfgStat 7) && trainOk 512 (s.sys.train.port p)

/-- A job level that has been raised goes out on a link that starts anew (R323). -/
def State.announceRaised (s : State) (p : Nat) : State :=
  if 2 ≤ s.fld Reg.fabJobstat 2 0 ∧ s.fld Reg.fabJobstat 2 0 ≤ 4 ∧ s.fab.jobLevel < s.fld Reg.fabLevel 11 8 then s.announce p (s.fld Reg.fabLevel 11 8) else s

/-- PORT_TRAINING_DONE (R320, R321): training ends; with every lane at its rate the port grants 963 credits and sends the link-up exchange, otherwise it
leaves service. A full training writes the port's record (R390). -/
def State.trainingDone (s : State) (p : Nat) (ok : Bool) (rtt : Nat) (temp : Int) : State :=
  if s.portState p ≠ 1 then s
  else if !ok then s.portDown p
  else
    let x := s.portAt p
    let s := (s.setPort p { Port.reset with rx := x.rx, sheet := x.sheet, trained := true }).imageUnsent p
    let s := (s.put (Reg.fabPRtt p) (BitVec.ofNat 64 (rtt % 2 ^ 16))).setPortCredit p 963
    ((if s.reuses p then s else (s.trainPort temp p).freeDraw.2).askPeer p).announceRaised p

/-- PORT_TRAINING_DONE. -/
def execPortTrainingDone (p : Nat) (trained : PortTrained) (rtt : Nat) (s : State) : Host.Outcome State Fault Refusal :=
  answer (Instr.wf (.portTrainingDone p trained rtt)) s fun s => (s.trainingDone p trained.ok rtt trained.temp).updQuiet

/-- FAB.JOBSTAT.STATE changed; HIF.EVT.JOB tells the host (R377). -/
def State.setJob (s : State) (v : Nat) : State :=
  if s.fld Reg.fabJobstat 2 0 = v then s else (s.putFld Reg.fabJobstat 2 0 v).hostEvent 5

/-- The peer that the loaded image names for a port: peer port [21:16] and peer id [11:0] (R351). -/
def State.expected (s : State) (p : Nat) : Word := Sparse.get zeroWord s.fab.peers p

/-- Is the peer that a port has met another than the loaded image names (R321)? A peer that has shown role and seat alone has shown no device id
yet (R398), and a port that is DOWN or FAILED stays so (R319). -/
def State.wrongPeer (s : State) (p : Nat) : Bool :=
  let e := s.expected p
  let x := s.portAt p
  s.portState p != 0 && s.portState p != 5 && s.hasMillId && s.fab.enabled.contains p && decide (x.peerRaw < 4096) &&
    (wfld e 11 0 != x.peerRaw || wfld e 21 16 != s.fld (Reg.fabPPeer p) 21 16)

/-- A port with a wrong peer goes DOWN and says so. -/
def State.peerCheck (s : State) (p : Nat) : State := if s.wrongPeer p then (s.portDown p).putBit (Reg.fabPStat p) 7 true else s

/-- The comparison of the peers already met with those of an image just loaded (R321). -/
def State.peersCheck (s : State) : State := (upto 36).foldl (fun s p => if (s.portAt p).peerSeen then s.peerCheck p else s) s

/-- Has the peer of a port answered with the MILLID of the loaded image (R352)? -/
def State.answered (s : State) (p : Nat) : Bool := (s.portAt p).peerSeen && (s.portAt p).peerMill == s.fab.millId

/-- Does a port that the image enables serve the job: it is UP and its peer has answered? A port that is DOWN or FAILED has its peer reached by another
(R349, R352; log row 184). -/
def State.joined (s : State) (p : Nat) : Bool :=
  let serves (q : Nat) : Bool := s.portState q == 3 && s.answered q
  serves p || ((s.portState p == 0 || s.portState p == 5) && s.fab.enabled.any fun q => serves q && wfld (s.expected q) 11 0 == wfld (s.expected p) 11 0)

/-- The ports in CONFIG whose peers hold the MILLID of the loaded image come into service (R316), and a started job runs once every peer of the image has
answered (R352). -/
def State.joinJob (s : State) : State :=
  let s := if s.hasMillId then (upto 36).foldl (fun s p => if s.portState p = 2 ∧ s.answered p then s.setPortState p 3 else s) s else s
  if s.fld Reg.fabJobstat 2 0 = 2 ∧ s.fab.enabled.all s.joined then s.setJob 3 else s

/-- PORT_RETRAIN_WINDOW_END (R318, R319): back in service with a replay, a further window, or FAILED after three failures in a row. A port enters a window
from UP alone and returns to it. -/
def State.retrainEnd (s : State) (p : Nat) (ok : Bool) : State :=
  if s.portState p ≠ 4 then s
  else if ok then
    (((s.putFld (Reg.fabPStat p) 4 3 0).setPortState p 3).modPort p fun x => { x with resend := x.replay, replays := 0 }).joinJob
  else
    let n := s.fld (Reg.fabPStat p) 4 3 + 1
    let s := s.putFld (Reg.fabPStat p) 4 3 n
    if n < 3 then s.bump (Reg.fabPCnt p 6) 1
    else
      let s := s.setPortState p 5
      (upto 16).foldl (fun s st => if s.routeUses st p then s.strCause st 6 else s) s

/-- PORT_RETRAIN_WINDOW_END. -/
def execPortRetrainWindowEnd (p : Nat) (ok : Bool) (s : State) : Host.Outcome State Fault Refusal :=
  answer (Instr.wf (.portRetrainWindowEnd p ok)) s fun s => (s.retrainEnd p ok).updQuiet

/-! ### The start of a device, as its links see it (R399, R403) -/

/-- CFG.STAT.PHASE. -/
def State.goPhase (s : State) (n : Nat) : State := s.putFld Reg.cfgStat 3 0 n

/-- A start that stops: PHASE 8 and the cause; the tiers are closed. -/
def State.stopStart (s : State) (err : Nat) : State :=
  let s := { s with mem := { s.mem with isOpen := false } }
  (s.goPhase 8).putFld Reg.cfgStat 15 8 err

/-- The port of seat `a` that a link to seat `b` uses on the reference board (R353). -/
def boardPort (a b link : Nat) : Nat := [0, 1, 2, 3, 9, 10, 11, 12, 18, 19, 20, 21, 27, 28, 29, 30].getD ((b + 17 - a) % 9 + 8 * link) 0

/-- The seats that ports' peers announce with ROLE master (R398, R399). -/
def State.masters (s : State) : List Nat :=
  ((upto 36).filterMap fun p => let x := s.portAt p; if x.peerSeen ∧ x.peerRaw / 16 = 0xF01 then some (x.peerRaw % 16) else none).foldl addNew []

/-- The cells of the image that a master has taken from its flash (R399). -/
def State.imageCells (s : State) : List Cell :=
  let base := (s.fld Reg.cfgImage 2 0 - 1) * 0x1000000
  let n := ofLe (memBytes s.mem.flash (base + 8) 4) / 256
  (upto n).map fun i => rawCell 5 0 0 i (i + 1 == n) false (BitVec.ofNat 2048 (ofLe (memBytes s.mem.flash (base + 256 * i) 256)))

/-- The port on which a master reaches the member in seat `b`: link 0 of their pair when it is in CONFIG, else link 1 (R399). -/
def State.memberPort (s : State) (b : Nat) : Option Nat :=
  ((upto 2).map (boardPort (s.fld Reg.cfgStraps 3 0) b)).find? fun p => s.portState p == 2 && (s.portAt p).peerSeen && (s.portAt p).peerRaw == 0xF020 + b

/-- A master sends its image to each member that it reaches and has not sent it to (R399). -/
def State.sendImage (s : State) : State :=
  ((upto 9).filter fun b => b != s.fld Reg.cfgStraps 3 0 && !(s.sys.imgSent.any fun x => x.1 == b)).foldl (fun s b =>
    match s.memberPort b with
    | none => s
    | some p =>
      let s := s.modPort p fun x => { x with ctl := x.ctl ++ s.imageCells }
      { s with sys := { s.sys with imgSent := s.sys.imgSent ++ [(b, p)] } }) s

/-- A port sends no image cell any more: none that waits, and none again (R399; log row 185). -/
def State.dropImage (s : State) (p : Nat) : State :=
  let rest (cs : List Cell) : List Cell := cs.filter fun c => Cell.typ c != 5
  s.modPort p fun x => { x with ctl := rest x.ctl, resend := rest x.resend, replay := rest x.replay }

/-- What a device does about the image when it has learnt of a peer, or when its own image has passed: a start that meets two masters stops, and a master
sends nothing after that; otherwise a master serves its members (R399). -/
def State.imageStep (s : State) : State :=
  let role := s.fld Reg.cfgStraps 5 4
  if 1 ≤ s.phase ∧ s.phase < 7 ∧ (2 ≤ s.masters.length ∨ (role = 1 ∧ s.masters ≠ [])) then
    (upto 36).foldl State.dropImage (s.stopStart 5)
  else if role = 1 ∧ s.sys.cfgApplied ∧ s.fld Reg.cfgImage 2 0 ≠ 0 ∧ s.fld Reg.cfgStat 15 8 ≠ 5 then s.sendImage
  else s

/-- The peer's link-up exchange: its identity, the link level, and the comparison with the image (R321, R322). One that this port has not asked for is
answered (R352; log row 184). -/
def State.gotLinkup (s : State) (p payload : Nat) : State :=
  let id := Machine.fld payload 31 16
  let port := Machine.fld payload 39 32
  let lmax := Machine.fld payload 47 40 % 16
  let x := s.portAt p
  let s := s.setPort p { x with peerSeen := true, peerRaw := id, peerMill := Machine.fld payload 191 64, asked := false
                                peerLevel := if x.peerLevel = 0 then s.fab.jobLevel else x.peerLevel }
  let s := s.put (Reg.fabPPeer p) (BitVec.ofNat 64 (lmax * 2 ^ 24 + port % 64 * 2 ^ 16 + id % 2 ^ 12))
  let s := s.putFld (Reg.fabPStat p) 11 8 (min lmax (s.fld Reg.fabLevel 3 0))
  if s.wrongPeer p then s.peerCheck p
  else
    let s := if s.portState p = 1 then s.setPortState p 2 else s
    (if x.asked ∨ !(s.linkedUp p) then s else s.sendLinkup p).joinJob.imageStep

/-- A link whose two ends have both announced a level has at least that link level (R322, R323): the LMAX of each end is no lower. -/
def State.relevel (s : State) (p : Nat) : State :=
  s.putFld (Reg.fabPStat p) 11 8 (max (s.fld (Reg.fabPStat p) 11 8) (min (s.fld Reg.fabLevel 11 8) (s.portAt p).peerLevel))

/-- A control cell: the link-up exchange, the announcement of a level, or a request for a retraining window (R317, R321, R323). -/
def State.gotControl (s : State) (p : Nat) (c : Cell) : State :=
  let v := c.payload.toNat
  let op := Machine.fld v 15 0
  if op = 1 then s.gotLinkup p v
  else if op = 2 then (s.modPort p fun x => { x with peerLevel := Machine.fld v 47 40 % 16 }).relevel p
  else if op = Config.retrainOp then s.enterRetrain p
  else s

/-- FAB_P_CTRL_EN: a write of FAB.Pp.CTRL (R319, R356). -/
def State.portCtrl (s : State) (p : Nat) (v : Word) : State :=
  let was := s.bit (Reg.fabPCtrl p) 0
  let on := wfld v 0 0 = 1
  let s := s.putBit (Reg.fabPCtrl p) 0 on
  let s := if was ∧ !on then s.portDown p else if !was ∧ on ∧ s.portState p = 0 then s.setPortState p 1 else s
  (if wfld v 1 1 = 1 then s.enterRetrain p else s).updQuiet

/-- FAB_P_CTRL_EN. -/
def execFabPCtrlEn (p : Nat) (v : Word) (s : State) : Host.Outcome State Fault Refusal :=
  answer (Instr.wf (.fabPCtrlEn p v)) s (State.written fun s => s.portCtrl p v)

/-! ### Sending (R312 to R314, R328 to R330, R335, R337) -/

/-- May a port send a new cell: a credit, and fewer than 2,047 cells unacknowledged (R313, R314)? -/
def State.canSend (s : State) (p : Nat) : Bool := 0 < s.portCredit p && (s.portAt p).replay.length < 2047

/-- A cell goes out on a port with the port's hop fields; a new one enters the replay buffer and takes a sequence number and a credit. -/
def State.putCell (s : State) (p : Nat) (c : Cell) (relayed : Bool) : State :=
  let x := s.portAt p
  let cred := min x.credRet 255
  let out := sealCell c relayed x.txSeq ((x.rxSeq + 4095) % 4096) cred x.nak
  let s := s.setPort p { x with txSeq := (x.txSeq + 1) % 4096, replay := x.replay ++ [out], credRet := x.credRet - cred, nak := false }
  ((s.setPortCredit p (s.portCredit p - 1)).bump (Reg.fabPCnt p 0) 1).emit (.cell p out)

/-- An unacknowledged cell goes out again under its number, with fresh acknowledgement and credits. -/
def State.putAgain (s : State) (p : Nat) (c : Cell) (rest : List Cell) : State :=
  let x := s.portAt p
  let cred := min x.credRet 255
  let out := sealCell c (Cell.fld c 6 6 = 1) (Cell.seq c) ((x.rxSeq + 4095) % 4096) cred x.nak
  ((s.setPort p { x with resend := rest, credRet := x.credRet - cred, nak := false }).bump (Reg.fabPCnt p 0) 1).emit (.cell p out)

/-- An idle cell. -/
def State.putIdle (s : State) (p : Nat) : State :=
  let x := s.portAt p
  let cred := min x.credRet 255
  let out := sealCell (rawCell 0 0 0 0 false false 0) false x.txSeq ((x.rxSeq + 4095) % 4096) cred x.nak
  ((s.setPort p { x with credRet := x.credRet - cred, nak := false }).bump (Reg.fabPCnt p 7) 1).emit (.cell p out)

/-- The two 128-byte requests of a cell's payload. A request that meets uncorrectable or unreachable data travels as read, is reported once, and is the
transfer's failure unless a watermark guards its block (R78, R381, R442). Of host memory that cannot be reached nothing is read. -/
def State.sendRequest (s : State) (x : Xfer) (checked : Bool) (a : Nat) : State × List Byte :=
  let fail (s : State) : State := if checked then s else s.xferFault x 1 a
  let r := s.requestMeets (hbWho x.lcid) none a 128
  if r.2 then let q := r.1.bytesAsRead none a 128; (fail q.1, q.2)
  else if r.1.hostLost none a then (fail r.1).freeBytes 16
  else (r.1, r.1.bytes none a 128)

/-- 256 payload bytes read for a send. -/
def State.sendData (s : State) (x : Xfer) (checked : Bool) (a : Nat) : State × BitVec 2048 :=
  let lo := s.sendRequest x checked a
  let hi := lo.1.sendRequest x checked (a + 128)
  (hi.1, BitVec.ofNat 2048 (ofLe (lo.2 ++ hi.2)))

/-- The check of a source block of a watermarked send, as its first cell is read (R442, R443). -/
def State.sendCheck (s : State) (x : Xfer) (flow a : Nat) : State :=
  match shadowOf x.wins a with
  | none => s
  | some sh =>
    let q := s.readMeets (hbWho x.lcid) none sh 4
    let s := q.1
    let stored := s.num none sh 4
    if (s.firstBad none a 4096).isSome ∨ q.2 then
      let (n, s) := s.freeDraw
      (s.wmMiss x.lcid 1 ((s.posOf x.lcid).getD 0) a stored ((Config.freeWord n).toNat % 2 ^ 32) (2 + flow * 2 ^ 16)).xferFault x 2 a
    else
      let comp := watermark (s.bytes none a 4096)
      if stored = comp then s else (s.wmMiss x.lcid 1 ((s.posOf x.lcid).getD 0) a stored comp (2 + flow * 2 ^ 16)).xferFault x 2 a

/-- The watermark that the last cell of a block carries: the stored one, or that of the data when no window guards the block (R311). -/
def State.carried (s : State) (ws : List WmWin) (a : Nat) : Nat :=
  match shadowOf ws a with
  | some sh => s.num none sh 4
  | none => watermark (s.bytes none a 4096)

/-- The next block of a watermarked send is checked and read whole, with the watermark that its last cell carries: no write comes between (R311, R445). -/
def State.readBlock (s : State) (x : Xfer) (i : OutItem) : State × OutItem :=
  let a := i.src + 256 * (i.idx / 16 * 16)
  let s := s.sendCheck x i.flow a
  let guarded := (shadowOf x.wins a).isSome
  let r := (upto 16).foldl (fun (acc : State × List (BitVec 2048)) j => let d := acc.1.sendData x guarded (a + 256 * j); (d.1, acc.2 ++ [d.2])) (s, [])
  (r.1, { i with block := r.2, mark := r.1.carried x.wins a })

/-- Cell `idx` of a queued transfer, and the transfer with what it has read. -/
def State.cellOf (s : State) (i : OutItem) : State × OutItem × Cell :=
  let fin := i.last && i.idx + 1 == i.cells
  if i.typ = 1 ∧ i.data.isEmpty then
    let x := ((i.xid.bind s.xferFor).map (·.2)).getD
      { xid := 0, lcid := 0x7FF, kind := 1, leaf := 0, k := 0, wm := i.wm, strm := false, src := i.src, dst := 0, rowlen := 0, rows := 0, srcStride := 0
        dstStride := 0, num := i.flow, len := 0, occ := 0, wins := i.wins, begun := true, bad := true }
    if i.wm then
      let (s, i) := if i.idx % 16 = 0 ∨ i.block.isEmpty then s.readBlock x i else (s, i)
      let wb := i.idx % 16 = 15
      (s, i, rawCell 1 i.dst i.flow (if wb then i.mark else i.idx) fin wb (i.block.getD (i.idx % 16) 0))
    else
      let r := s.sendData x false (i.src + 256 * i.idx)
      (r.1, i, rawCell 1 i.dst i.flow i.idx fin false r.2)
  else
    (s, i, rawCell i.typ i.dst i.flow (if i.typ = 1 then i.idx else if i.typ = 2 then i.aux + i.idx else i.aux) fin false (i.data.getD i.idx 0))

/-- The cell of the first transfer of a stream on a port goes out; with its last cell the transfer has entered the replay buffer and counts (R330, R335,
R358). A cell for this device itself enters no port. -/
def State.sendItem (s : State) (p : Nat) (i : OutItem) : State :=
  let at' := s.fab.queues.findIdx? (· == i)
  let r := s.cellOf i
  let s := if p < 36 then r.1.putCell p r.2.2 false else r.1
  let done := i.idx + 1 == i.cells
  let q := match at' with
    | some k => if done then dropAt s.fab.queues k else setAt s.fab.queues k { r.2.1 with idx := i.idx + 1 }
    | none => s.fab.queues
  let s := { s with fab := { s.fab with queues := q } }
  if done then
    let s := match i.part with
      | some t => s.emit (.part p t)
      | none => s
    let s := if i.typ = 2 then s else s.strDone i.stream
    match i.xid with
    | some x => s.xferDone x
    | none => s
  else s

/-- The oldest cell that an input port holds for an output port, with its place (R326). -/
def State.relayCell (s : State) (inp p : Nat) : Option (Nat × Cell) :=
  let rx := (s.portAt inp).rx
  (rx.findIdx? fun c => s.routeOf (Cell.dst c) == some p).map fun k => (k, rx.getD k (rawCell 0 0 0 0 false false 0))

/-- Types that the state of a port carries (R316); a reserved type is accepted, and then discarded, in any of them (R309). -/
def carries (st typ : Nat) : Bool :=
  if 6 ≤ typ then decide (1 ≤ st) && decide (st ≤ 3)
  else if st = 1 then typ == 4
  else if st = 2 then typ == 0 || typ == 4 || typ == 5
  else st == 3

/-- SHEET: a port sends the cell of this sheet (R329). Replays go first, then control and configuration cells, then the owner that the ream entry
names. A port in TRAINING carries control cells alone (R316). -/
def State.sheet (s : State) (p : Nat) : State :=
  let st := s.portState p
  if st = 0 ∨ st = 4 ∨ st = 5 ∨ (st = 1 ∧ !(s.portAt p).trained) then s
  else
    let x := s.portAt p
    let e := s.cur (Reg.fabPReam p x.sheet)
    let s := s.setPort p { x with sheet := (x.sheet + 1) % 512 }
    (match x.resend with
     | c :: rest => if carries st (Cell.typ c) then s.putAgain p c rest else if st = 1 then s else s.putIdle p
     | [] =>
       match x.ctl with
       | c :: rest => if s.canSend p then (s.modPort p fun y => { y with ctl := rest }).putCell p c false else if st = 1 then s else s.putIdle p
       | [] =>
         if st = 1 then s
         else if st ≠ 3 ∨ !(s.canSend p) then s.putIdle p
         else if wfld e 3 0 = 1 then
           match s.fab.queues.find? (fun (i : OutItem) => i.stream == wfld e 15 8 && i.port == p) with
           | some i => s.sendItem p i
           | none => s.putIdle p
         else if wfld e 3 0 = 2 then
           match s.relayCell (wfld e 15 8) p with
           | some (k, c) =>
             let s := s.modPort (wfld e 15 8) fun y => { y with rx := dropAt y.rx k, credRet := y.credRet + 1 }
             (s.putCell p c true).bump Reg.fabRelayed 1
           | none => s.putIdle p
         else s.putIdle p).updQuiet

/-! ### Receiving (R309 to R313, R324 to R327, R336) -/

/-- A receive-buffer entry freed: its credit goes back to the peer (R314). -/
def State.credUp (s : State) (p : Nat) : State := s.modPort p fun x => { x with credRet := x.credRet + 1 }

/-- A message has landed at `a`: it counts on its logical core, or waits in the flow entry while no position holds the id (R336); a message of a
parity-group flow goes to the snapshot engine, which releases its slot (R438). -/
def State.countMessage (s : State) (f a : Nat) : State :=
  let s := s.putFld (Reg.fabRflow f 2) 63 32 (s.fld (Reg.fabRflow f 2) 63 32 + 1)
  match s.partnerOf f with
  | some m =>
    let told := s.snap.told.find? fun x => x.1 == f
    let s := { s with snap := { s.snap with told := s.snap.told.filter fun x => x.1 != f } }
    let s := match told with
      | some t => s.partMessage m a t.2
      | none => s
    match s.portOf (s.rflow f 43 32) with
    | none => s
    | some q =>
      s.enqueue { stream := s.rflow f 59 56, port := q, typ := 3, dst := s.rflow f 43 32, flow := s.rflow f 55 44, idx := 0, cells := 1, src := 0, data := []
                  wm := false, wins := [], aux := 1, xid := none, last := true }
  | none =>
    match s.posOf (s.fld (Reg.fabRflow f 2) 26 16) with
    | some pos => s.hbcUp pos (s.fld (Reg.fabRflow f 2) 29 27)
    | none => { s with fab := { s.fab with recvWait := Sparse.set zeroNat s.fab.recvWait f (Sparse.get zeroNat s.fab.recvWait f + 1) } }

/-- Who an arrival from the fabric is in the reports of its accesses. -/
def arrivalWho : Who := { agent := 2 }

/-- Cells of a message written together, the last one at `a`. Each is a write of its own to the counters of R211 (log row 178). -/
def State.landCells (s : State) (a : Nat) (cs : List (BitVec 2048)) : State :=
  let a0 := a - 256 * (cs.length - 1)
  let s := (s.agentStore arrivalWho none false a0 (cs.flatMap fun c => leBytes 256 c.toNat)).1
  (upto cs.length).foldl (fun s i => s.count (a0 + 256 * i) (leBytes 256 (cs.getD i 0).toNat)) s

/-- Credits of `n` cells that leave the receive buffer of a port, or stay in it a while longer (R314). -/
def State.credMore (s : State) (p n : Nat) : State := if p < 36 then s.modPort p fun x => { x with credRet := x.credRet + n } else s
def State.credLess (s : State) (p : Nat) : State := if p < 36 then s.modPort p fun x => { x with credRet := x.credRet - 1 } else s

/-- A data cell of a message for this device (R311, R327, R336). Cells of a block that a watermark window guards stay in the receive buffer until the block
is whole, so that its data and its watermark are seen together (R445; log row 189). -/
def State.gotData (s : State) (p : Nat) (c : Cell) : State :=
  let f := Cell.flow c
  let st := s.rflow f 59 56
  if s.rflow f 63 63 = 0 then (s.discard p).strCause st 4
  else
    let idx := Sparse.get zeroNat s.fab.recvIdx f
    let slotLen := s.rflow f 31 0
    if (!(Cell.wb c) ∧ Cell.aux c ≠ idx) ∨ slotLen < 256 * (idx + 1) then (s.bump Reg.fabDiscard 1).strCause st 4
    else
      let msgs := s.fld (Reg.fabRflow f 2) 63 32
      let a := s.fld (Reg.fabRflow f 1) 47 0 + msgs % (max 1 (s.fld (Reg.fabRflow f 2) 15 0)) * slotLen + 256 * idx
      let s := { s with fab := { s.fab with recvIdx := Sparse.set zeroNat s.fab.recvIdx f (if Cell.last c then 0 else idx + 1) } }
      if (s.checkPage none none .write a).isSome then (s.discard p).strCause st 9
      else
        let kept := Sparse.get noPayloads s.fab.held f
        let keep (s : State) (cs : List (BitVec 2048)) : State := { s with fab := { s.fab with held := Sparse.set noPayloads s.fab.held f cs } }
        if (shadowOf s.wins (a / 4096 * 4096)).isSome && !(Cell.wb c) && !(Cell.last c) && a % 4096 != 3840 then (keep s (kept ++ [c.payload])).credLess p
        else
        let s := ((keep s []).credMore p kept.length).landCells a (kept ++ [c.payload])
        let s :=
          if Cell.wb c then
            let b := a / 4096 * 4096
            let comp := watermark (s.bytes none b 4096)
            let s := (s.wmStore arrivalWho s.wins b (Cell.aux c)).1
            if comp = Cell.aux c then s else (s.wmMiss 0x7FF (if p < 36 then 5 else 0) (p % 36) b (Cell.aux c) comp (3 + f * 2 ^ 16)).strCause st 5
          else s
        if Cell.last c then s.countMessage f (a - 256 * idx) else s

/-- A slot release for a send flow of this device (R337). -/
def State.gotRelease (s : State) (p : Nat) (c : Cell) : State :=
  let f := Cell.flow c
  if s.sflow f 63 63 = 0 then (s.discard p).strCause (s.sflow f 59 56) 4
  else
    let n := s.fld (Reg.fabSflow f 1) 15 0
    State.takeCredits f 65536 (s.setCredit f (min n (s.creditOf f + Cell.aux c % 2 ^ 16)))

/-- Who a sequencer is in the reports of its accesses. -/
def seqWho : Who := { agent := 5 }

/-- The payload of a partial put at its place in the scratch region (R338). -/
def State.putPart (s : State) (k : Coll) (c : PartCell) : State :=
  if c.slot = 0xFF then s else (s.agentStore seqWho none false (k.scratchAt c.slot c.idx) (leBytes 256 c.data.toNat)).1

/-- Does a partial go to the place of another, which its sequencer has not read yet? -/
def PartCell.meets (c d : PartCell) : Bool := d.coll == c.coll && d.slot == c.slot && d.idx == c.idx

/-- A collective cell for this device: a partial goes to the scratch region, once the sequencer has read what stands at its place, and a partial for an
unmapped page is discarded (R327, R338; log row 95). -/
def State.gotPart (s : State) (p : Nat) (c : Cell) : State :=
  match s.collOf (Cell.flow c) with
  | none => s.discard p
  | some k =>
    let x : PartCell := ⟨Cell.flow c, Cell.aux c / 2 ^ 24, Cell.aux c % 2 ^ 24, c.payload⟩
    if x.slot ≠ 0xFF ∧ (s.checkPage none none .write (k.scratchAt x.slot x.idx)).isSome then (s.discard p).strCause k.stream 9
    else
      let s := if s.fab.parts.any x.meets then s else s.putPart k x
      { s with fab := { s.fab with parts := s.fab.parts ++ [x] } }

/-- Is a port one of the two that face the seat which announces ROLE master on it (R354, R398, R399)? -/
def State.facesMaster (s : State) (p : Nat) : Bool :=
  let x := s.portAt p
  x.peerSeen && x.peerRaw / 16 == 0xF01 && (upto 2).any fun k => boardPort (s.fld Reg.cfgStraps 3 0) (x.peerRaw % 16) k == p

/-- A cell of the configuration image (R399): taken by a member that looks for its image, on the two ports that face the master (R354), in index order. -/
def State.gotImage (s : State) (p : Nat) (c : Cell) : State :=
  let wanted := s.fld Reg.cfgStraps 5 4 = 2 && s.fld Reg.cfgStraps 6 6 = 0 && s.fld Reg.cfgStat 3 0 ≤ 1
  let i := Cell.aux c
  if !wanted ∨ !(s.facesMaster p) ∨ (i ≠ 0 ∧ (s.fab.imgPort ≠ some p ∨ i ≠ s.fab.imgCells)) ∨ 65536 ≤ i then s.bump Reg.fabDiscard 1
  else
    let s := s.setBytes none 0xE (feltBase + 256 * i) (leBytes 256 c.payload.toNat)
    { s with fab := { s.fab with imgPort := some p, imgCells := i + 1 } }

/-- A cell for this device (R324). -/
def State.gotLocal (s : State) (p : Nat) (c : Cell) : State :=
  if Cell.typ c = 1 then s.gotData p c else if Cell.typ c = 2 then s.gotPart p c else s.gotRelease p c

/-- A cell accepted in its turn is delivered, held for relaying, or discarded. -/
def State.deliver (s : State) (p : Nat) (c : Cell) : State :=
  let t := Cell.typ c
  if t = 4 then (s.credUp p).gotControl p c
  else if t = 5 then (s.credUp p).gotImage p c
  else if t = 1 ∨ t = 2 ∨ t = 3 then
    if Cell.dst c = s.fld Reg.fabMyid 11 0 then (s.credUp p).gotLocal p c
    else
      match s.routeOf (Cell.dst c) with
      | none => (s.credUp p).discard p
      | some q => if q = p then (s.credUp p).discard p else (s.modPort p fun x => { x with rx := x.rx ++ [c] }).unquiet
  else s.discard p

/-- Acknowledgement, credits and NAK of a cell whose CRC holds (R313, R314). -/
def State.hopFields (s : State) (p : Nat) (c : Cell) : State :=
  let x := s.portAt p
  let ack := Cell.fld c 31 20
  let n := match x.replay.findIdx? (fun y => Cell.seq y == ack) with
    | some i => i + 1
    | none => 0
  let gone := x.replay.take n
  let x := if n = 0 then x else { x with replay := x.replay.drop n, resend := x.resend.filter (fun y => !(gone.any fun z => Cell.seq z == Cell.seq y)), replays := 0 }
  let s := (s.setPort p x).setPortCredit p (s.portCredit p + Cell.fld c 39 32)
  if Cell.fld c 7 7 = 1 then s.startReplay p else s

/-- Kept cells that have come into turn are delivered (level 2, R322). -/
def State.drainGap : Nat → Nat → State → State
  | 0, _, s => s
  | n + 1, p, s =>
    let x := s.portAt p
    match x.gap.find? (fun c => Cell.seq c == x.rxSeq) with
    | none => if x.gap.isEmpty then s else s.setPort p { x with nak := true }
    | some c =>
      let s := (s.setPort p { x with rxSeq := (x.rxSeq + 1) % 4096, gap := x.gap.filter fun y => Cell.seq y != Cell.seq c }).bump (Reg.fabPCnt p 1) 1
      State.drainGap n p (s.deliver p c)

/-- Codewords of the FEC: those corrected and those not count, and more than 16 of the latter within 1 ms make a port in UP retrain (R317, R356). -/
def State.fecCount (s : State) (p corrected bad : Nat) : State :=
  let s := (s.bump (Reg.fabPCnt p 2) corrected).bump (Reg.fabPCnt p 3) bad
  if bad = 0 then s
  else s.modPort p fun x => { x with fecBad := (x.fecBad.filter fun e => decide (s.sys.time < e.1 + 1000000)) ++ [(s.sys.time, bad)] }

/-- Has a port met more than 16 uncorrectable codewords within 1 ms? -/
def State.fecFails (s : State) (p : Nat) : Bool :=
  16 < (((s.portAt p).fecBad.filter fun e => decide (s.sys.time < e.1 + 1000000)).map (·.2)).sum

/-- A cell arrives whole at a port (R310, R312, R313). A codeword that the FEC could not correct has made its CRC fail. -/
def State.cellTake (s : State) (p : Nat) (c : Cell) (bad : Nat) : State :=
  let st := s.portState p
  if !(Cell.crcOk c) ∨ bad ≠ 0 then (s.bump (Reg.fabPCnt p 4) 1).modPort p fun x => { x with nak := true }
  else
    let s := s.hopFields p c
    let x := s.portAt p
    let idle := Cell.typ c == 0
    (if Cell.seq c ≠ x.rxSeq then
      let ahead := (Cell.seq c + 4096 - x.rxSeq) % 4096
      let keep := 2 ≤ s.levelOf p && !idle && carries st (Cell.typ c) && x.gap.length < 64 && decide (ahead < 2048) && !(x.gap.any fun y => Cell.seq y == Cell.seq c)
      s.setPort p { x with nak := true, gap := if keep then x.gap ++ [c] else x.gap }
    else if idle ∧ st ≠ 1 then s
    else if !(carries (s.portState p) (Cell.typ c)) then s.setPort p { x with nak := true }
    else
      let s := (s.setPort p { x with rxSeq := (x.rxSeq + 1) % 4096 }).bump (Reg.fabPCnt p 1) 1
      State.drainGap 64 p (s.deliver p c)).updQuiet

/-- What the message is that a cell ends, for the snapshot engine of this device (log row 187). -/
def State.tell (s : State) (c : Cell) (part : Option PartMsg) : State :=
  match part with
  | none => s
  | some t => { s with snap := { s.snap with told := (s.snap.told.filter fun x => x.1 != Cell.flow c) ++ [(Cell.flow c, t)] } }

/-- CELL_RECEIVE: a cell comes in, with the numbers of its FEC codewords corrected and not correctable. A port that carries no cells receives none. -/
def State.cellReceive (s : State) (p : Nat) (c : Cell) (fec : FecCount) (part : Option PartMsg) : State :=
  let st := s.portState p
  if st = 0 ∨ st = 4 ∨ st = 5 then s
  else
    let s := ((s.tell c part).fecCount p fec.corrected fec.bad).cellTake p c fec.bad
    if s.fecFails p then s.enterRetrain p else s

/-- CELL_RECEIVE. -/
def execCellReceive (p : Nat) (cell : CellIn) (s : State) : Host.Outcome State Fault Refusal :=
  answer (Instr.wf (.cellReceive p cell)) s fun s => s.cellReceive p cell.cell cell.fec cell.part

/-! ### Sheets (R329) and the cells of this device for itself (R324) -/

/-- A cell of this device for itself is delivered with no port between; the manual gives it no time, and here it moves at a sheet of any port (log
row 96). -/
def State.localCell (s : State) : State :=
  match s.fab.queues.find? (fun (i : OutItem) => i.port == 36) with
  | none => s
  | some i => let c := (s.cellOf i).2.2; ((s.sendItem 36 i).gotLocal 36 c).updQuiet

/-- SHEET. -/
def execSheet (p : Nat) (s : State) : Host.Outcome State Fault Refusal := answer (Instr.wf (.sheet p)) s fun s => (s.sheet p).localCell

/-- The members of the parity group whose send flow is `f` and for whom a cell waits: one queued, or one that waits for a slot credit (R420). -/
def State.stalledOn (s : State) (f : Nat) : List Nat :=
  s.others.filter fun m =>
    s.fld (Reg.snapPmem m) 27 16 == f &&
      (s.snap.wants == some m || s.fab.queues.any fun i => i.typ == 1 && i.dst == s.sflow f 43 32 && i.flow == s.sflow f 55 44)

/-- CELL_STALL_TIMEOUT: a cell of a stream has waited longer than FAB.STALLT: one of the send flow given, or one of no send flow (R327, R420). -/
def State.cellStall (s : State) (st : Nat) (flow : Option Nat) : State :=
  let late := match flow with
    | some f => if s.sflow f 59 56 = st then s.stalledOn f else []
    | none => []
  let s := { s with snap := { s.snap with stalled := late.foldl addNew s.snap.stalled } }
  if late ≠ [] ∨ s.fab.queues.any (fun i => i.stream == st) ∨ s.fab.runs.any (fun r => ((s.collOf r.coll).map (·.stream)) == some st) then s.strCause st 8 else s

/-- CELL_STALL_TIMEOUT. -/
def execCellStallTimeout (stall : Stall) (s : State) : Host.Outcome State Fault Refusal :=
  answer (Instr.wf (.cellStallTimeout stall)) s fun s => s.cellStall stall.stream stall.flow

/-! ### Patch sets, holds and levels (R323, R345 to R348) -/

/-- The entry that a record of a patch set touches: its table, its port where the table has ports, and its place. -/
def State.patchEntry (s : State) (r : PatchRec) : Nat × Nat × Nat :=
  (r.table, if r.table = 1 ∨ r.table = 2 then r.port else 0, match r.table with
    | 2 => 0
    | 3 => r.index / 2
    | 4 => r.index / 4
    | 5 => Config.segmentEntry s.fab.colls r.index
    | _ => r.index)

/-- The register that a record of tables 0, 1, 3 and 4 writes, and the bits that it takes from the record: credits held and messages completed are the
device's own (R334; log row 149). -/
def PatchRec.target (r : PatchRec) : Option (Nat × List (Nat × Nat)) :=
  match r.table with
  | 0 => if r.index < 4096 then some (Reg.fabRoute r.index, [(63, 0)]) else none
  | 1 => if r.index < 512 ∧ r.port < 36 then some (Reg.fabPReam r.port r.index, [(63, 0)]) else none
  | 3 => if r.index < 8192 then some (Reg.fabSflow 0 0 + 8 * r.index, if r.index % 2 = 1 then [(15, 0)] else [(63, 0)]) else none
  | 4 => if r.index < 16384 then some (Reg.fabRflow 0 0 + 8 * r.index, if r.index % 4 = 2 then [(31, 0)] else [(63, 0)]) else none
  | _ => none

/-- The word that a record replaces. -/
def State.patchOld (s : State) (r : PatchRec) : Word :=
  match r.target with
  | some t => s.raw t.1
  | none => if r.table = 2 then s.expected r.port else 0

/-- One record applied. A record of table 2 gives the entry of PORTS. -/
def State.patchOne (s : State) (r : PatchRec) : State :=
  match r.target with
  | some (off, bits) => s.put off (bits.foldl (fun w b => wsetFld w b.1 b.2 (wfld r.value b.1 b.2)) (s.raw off))
  | none =>
    if r.table = 2 ∧ r.port < 36 then { s with fab := { s.fab with peers := Sparse.set zeroWord s.fab.peers r.port (peerWord r.value) } }
    else if r.table = 5 then { s with fab := { s.fab with colls := Config.patchSegment s.fab.colls r.index r.value } }
    else s

/-- The word back that a record of the routes, reams or peers replaced. -/
def State.unpatch (s : State) (u : PatchUndo) : State :=
  if u.set.table = 2 then { s with fab := { s.fab with peers := Sparse.set zeroWord s.fab.peers u.set.port u.old } }
  else
    match u.set.target with
    | some (off, _) => if u.set.table < 2 then s.put off u.old else s
    | none => s

/-- The sets in force end with the job (R348): the newest goes first. -/
def State.unpatchAll (s : State) : State := s.fab.inForce.reverse.foldl State.unpatch s

/-- The rest of a queued transfer whose destination has no route any more: its cells are discarded, and it counts (R327). -/
def State.unrouted (s : State) (i : OutItem) : State :=
  let s := State.discardOwn i.dst (i.cells - i.idx) s
  let s := if i.typ = 2 then s else s.strDone i.stream
  match i.xid with
  | some x => s.xferDone x
  | none => s

/-- Has a cell that an input port holds no way on: no route, or one by the port on which it came (R327)? -/
def State.stuck (s : State) (p : Nat) (c : Cell) : Bool := s.routeOf (Cell.dst c) == none || s.routeOf (Cell.dst c) == some p

/-- The held cells of an input port that have no way on are discarded. -/
def State.dropStuck (s : State) (p : Nat) : State :=
  let rx := (s.portAt p).rx
  let s := s.modPort p fun x => { x with rx := rx.filter fun c => !(s.stuck p c) }
  (rx.filter (s.stuck p)).foldl (fun s _ => (s.credUp p).discard p) s

/-- Queued transfers and held cells follow the routes of their destinations (R319); those without a route are discarded (R327). -/
def State.reroute (s : State) : State :=
  let gone := s.fab.queues.filter fun i => (s.portOf i.dst).isNone
  let s := { s with fab := { s.fab with queues := s.fab.queues.filterMap fun i => (s.portOf i.dst).map fun p => { i with port := p } } }
  ((upto 36).foldl State.dropStuck (gone.foldl State.unrouted s)).updQuiet

/-- One record of a set applied, with the word that it replaces. -/
def State.patchIn (s : State) (r : PatchRec) : State :=
  let u : PatchUndo := ⟨r, s.patchOld r⟩
  let s := s.patchOne r
  { s with fab := { s.fab with inForce := s.fab.inForce ++ [u] } }

/-- Does a record touch an entry that a set in force has patched? -/
def State.isPatched (s : State) (r : PatchRec) : Bool := s.fab.inForce.any fun u => s.patchEntry u.set == s.patchEntry r

/-- The request of FAB.PATCH failed: none of the set is applied. -/
def State.patchFails (s : State) : State := (s.putBit Reg.fabPatch 62 true).linkEvent 0 0 0x7FF 0 0 0 0

/-- A patch set takes effect whole, or not at all when it meets an entry that is patched already (R348). -/
def State.applyPatch (s : State) : State :=
  let n := s.fld Reg.fabPatch 47 32
  let s := ({ s with fab := { s.fab with patchReq := false } }).putBit Reg.fabPatch 63 false
  match s.fab.patches.find? (fun x => x.num == n) with
  | none => s.patchFails
  | some p => if p.recs.any s.isPatched then s.patchFails else (p.recs.foldl State.patchIn s).reroute

/-- Is the device held and quiet at an epoch boundary? A device with an image loaded and not started counts as held at boundary 0 (R346, R431). -/
def State.quietAt (s : State) (n : Nat) : Bool :=
  let st := s.fld Reg.fabJobstat 2 0
  ((st == 1 || st == 6) && n == 0) || (s.isHeld && s.bit Reg.fabHold 62 && s.fld Reg.fabEpoch 31 0 == n)

/-- FAB_PATCH: a write of FAB.PATCH (R348). -/
def State.patchWrite (s : State) (v : Word) : State :=
  let s := if wfld v 62 62 = 1 then s.putBit Reg.fabPatch 62 false else s
  let s := (s.putFld Reg.fabPatch 47 32 (wfld v 47 32)).putFld Reg.fabPatch 31 0 (wfld v 31 0)
  if s.quietAt (wfld v 31 0) then s.applyPatch
  else ({ s with fab := { s.fab with patchReq := true } }).putBit Reg.fabPatch 63 true

/-- FAB_PATCH. -/
def execFabPatch (v : Word) (s : State) : Host.Outcome State Fault Refusal := answer (Instr.wf (.fabPatch v)) s (State.written fun s => s.patchWrite v)

/-- A raise of the job level that falls due: the level, and its announcement on every link (R323). One that trains announces at its link-up. -/
def State.applyRaise (s : State) : State :=
  let l := s.fld Reg.fabRaise 35 32
  let s := { s with fab := { s.fab with raiseReq := false } }
  if s.fld Reg.fabLevel 11 8 < l ∧ l ≤ s.fld Reg.fabLevel 3 0 then
    (upto 36).foldl (fun s p => if s.linkedUp p then (s.announce p l).relevel p else s) (s.putFld Reg.fabLevel 11 8 l)
  else s

/-- A write of FAB.RAISE (R323). -/
def State.raiseWrite (s : State) (v : Word) : State :=
  let s := (s.putFld Reg.fabRaise 35 32 (wfld v 35 32)).putFld Reg.fabRaise 31 0 (wfld v 31 0)
  { s with fab := { s.fab with raiseReq := true } }

/-- FAB_RAISE. -/
def execFabRaise (v : Word) (s : State) : Host.Outcome State Fault Refusal := answer (Instr.wf (.fabRaise v)) s (State.written fun s => s.raiseWrite v)

/-- Transfers of the headboxes that a hold has kept from starting, in the order of their issue. -/
def State.restart (s : State) : State :=
  let waiting := s.cores.flatMap fun p => (p.2.work.hbq.filter fun x => !x.begun && (x.kind == 1 || x.kind == 3)).map fun x => (p.1 / 13, x)
  (sortBy (fun a b => decide (a.2.xid ≤ b.2.xid)) waiting).foldl (fun s w => s.startFab w.1 w.2) s

/-- FAB_HOLD: a write of FAB.HOLD; EN = 0 releases the streams (R346). -/
def State.holdWrite (s : State) (v : Word) : State :=
  let s := (s.putBit Reg.fabHold 63 (wfld v 63 63 = 1)).putFld Reg.fabHold 31 0 (wfld v 31 0)
  if wfld v 63 63 = 0 ∧ s.isHeld then (s.setJob 3).restart.updQuiet else s

/-- FAB_HOLD. -/
def execFabHold (v : Word) (s : State) : Host.Outcome State Fault Refusal := answer (Instr.wf (.fabHold v)) s (State.written fun s => s.holdWrite v)

/-- Is a stream in use in the loaded image? -/
def State.streamUsed (s : State) (st : Nat) : Bool := s.bit (Reg.fabStrCtrl st) 0

/-- The next epoch that a collective marks. -/
def State.nextEpoch (s : State) : Option Nat :=
  s.fab.colls.foldl (fun a k => if s.fld Reg.fabEpoch 31 0 < k.ep then (match a with
    | some x => some (min x k.ep)
    | none => some k.ep) else a) none

/-- EPOCH_BOUNDARY: the device passes the next boundary once every collective that marks it or an earlier one has completed; holds, patches and raises
due there take effect (R345). -/
def State.epoch (s : State) : State :=
  match s.nextEpoch with
  | none => s
  | some n =>
    if s.fld Reg.fabJobstat 2 0 ≠ 3 ∨ s.fab.colls.any (fun k => k.ep != 0 && decide (k.ep ≤ n) && !(s.fab.marked.contains k.id)) then s
    else
      let s := s.put Reg.fabEpoch (BitVec.ofNat 64 n)
      let s := if s.fab.raiseReq ∧ s.fld Reg.fabRaise 31 0 = n then s.applyRaise else s
      let s := if s.fab.patchReq ∧ s.fld Reg.fabPatch 31 0 = n then s.applyPatch else s
      if s.bit Reg.fabHold 63 ∧ s.fld Reg.fabHold 31 0 = n then
        ((upto 16).foldl (fun s st => s.strCause st 7) (s.setJob 4)).updQuiet
      else s

/-- EPOCH_BOUNDARY. -/
def execEpochBoundary (s : State) : Host.Outcome State Fault Refusal := answer (Instr.wf .epochBoundary) s fun s => s.epoch

end Sys2Proof.Machine
end

