-- ==== Sys2Proof/Machine/Measure.lean ====
section
/-! DEFINITION. Measurements and their log, random draws, the Alias key and security events (R456, R475, R476, R481). -/

namespace Sys2Proof.Machine

/-- Event class 0x0A (R456): its kind in D0 and D1 as the kind gives. -/
def State.secEvent (s : State) (kind d1 : Nat) : State := s.post { cls := 0x0A, sev := 1, ukind := 9, uidx := 0, d0 := kind, d1 := d1 }

/-- A 48-byte register of the SEC block at an offset. -/
def State.sixWords (s : State) (off : Nat) : List Byte := (upto 6).flatMap fun w => leBytes 8 (s.raw (off + 8 * w)).toNat

/-- Measurement `n` (R476). -/
def State.meas (s : State) (n : Nat) : List Byte := s.sixWords (Reg.secMeas n 0)

/-- Measurement `n` replaced; a change appends an entry to the measurement log, which keeps its last 256 entries (R476). -/
def State.setMeas (s : State) (n : Nat) (v : List Byte) : State :=
  let v := takePad 0 48 v
  if s.meas n = v then s
  else
    let s := s.putWords (Reg.secMeas n 0) ((upto 6).map fun w => BitVec.ofNat 64 (ofLe ((v.drop (8 * w)).take 8)))
    let log := s.tender.log ++ [(s.tclk, n, v)]
    { s with tender := { s.tender with log := log.drop (log.length - 256) } }

/-- Measurement 5: the MILLID of the loaded image, zero when none is loaded. -/
def State.measMill (s : State) : State :=
  let st := s.fld Reg.fabJobstat 2 0
  s.setMeas 5 (if st = 0 ∨ st = 5 then [] else leBytes 16 s.fab.millId)

/-- Measurement 6: SHA-384 of DEV.FEAT_ACTIVE. -/
def State.measFeat (s : State) : State := s.setMeas 6 (sha384 ((upto 4).flatMap fun w => leBytes 8 (s.raw (Reg.devFeatActive w)).toNat))

/-- Measurement 4: SHA-384 over the records of the active user half. -/
def State.measUser (s : State) : State :=
  s.setMeas 4 (sha384 (((s.activeHalf.map fun (h : Nat × UserHalf) => h.2.live).getD []).flatMap SetRec.bytes))

/-- A random draw made (R481, R493): its number. -/
def State.draw (s : State) : Nat × State := (s.tender.draws, { s with tender := { s.tender with draws := s.tender.draws + 1 } })

/-- The first `n` bytes of a random draw. -/
def drawBytes (d n : Nat) : List Byte := (upto n).map (Config.random d)

/-- A secret number of a random draw, from 1 below the group order. -/
def drawScalar (d : Nat) : Nat := ofBe (drawBytes d 48) % (pN - 1) + 1

/-- SEC.DBGNONCE (R493). -/
def State.dbgNonce (s : State) : List Byte := drawBytes s.tender.nonce 48

/-- A new SEC.DBGNONCE. -/
def State.newNonce (s : State) : State :=
  let (d, s) := s.draw
  { s with tender := { s.tender with nonce := d } }

/-- The secret Alias key (R475): HMAC-SHA-384 of MEAS2 and MEAS7 under the DevID secret, modulo the group order, 0 replaced by 1. -/
def State.aliasSecret (s : State) : Nat :=
  let k := ofBe (hmac384 (beBytes 48 Config.devIdSecret) (s.meas 2 ++ s.meas 7)) % pN
  if k = 0 then 1 else k

/-- A signature by the Alias key, with a fresh random number. -/
def State.aliasSign (s : State) (msg : List Byte) : List Byte × State :=
  let (d, s) := s.draw
  (ecdsaSign s.aliasSecret (drawScalar d) msg, s)

/-- The certificates of slot 0 (R475). -/
def State.certChain (s : State) : List Byte :=
  let pub := ecPublic s.aliasSecret
  if s.bit Reg.secDbg 2 then Config.aliasCert true Config.serial pub (s.meas 7)
  else Config.rootCert ++ Config.deviceCaCert ++ Config.devIdCert ++ Config.aliasCert false Config.serial pub (s.meas 7)

end Sys2Proof.Machine
end

