-- ==== Sys2Proof/Machine/Job.lean ====
section
/-! DEFINITION. The mill job: loading and checking an image, starting and ending the job, substitution and the reload of a stream (R33, R349 to R352,
R355, R431, R489). -/

namespace Sys2Proof.Machine

/-! ### The image (R350 to R352) -/

/-- A field of the image header or directory at an offset. -/
def State.img (s : State) (off n : Nat) : Nat := s.num none (s.fld Reg.fabJobimg 47 0 + off) n

/-- The error of the image's header, digest and signature: 0 when it passes (R350, R352, R489). The directory lies in the part that the digest covers
(log row 186). -/
def State.imgHeader (s : State) : Nat :=
  let base := s.fld Reg.fabJobimg 47 0
  let level := s.img 8 4
  let ndev := s.img 12 4
  let size := s.img 16 8
  let dir := s.img 0x18 4
  if s.img 0 4 ≠ 0x4C494D5A ∨ s.img 4 4 ≠ 1 ∨ level = 0 ∨ 2 < level ∨ ndev = 0 ∨ 2048 < ndev ∨ size < 256 ∨ 2 ^ 41 ≤ size ∨ dir < 256 ∨
    size < dir + 16 * s.img 0x1C 4 ∨ s.img 0x50 176 ≠ 0 then 1
  else if (s.firstBad none base size).isSome ∨ sha384 (s.bytes none (base + 256) (size - 256)) ≠ s.bytes none (base + 0x20) 48 then 2
  else if s.bit Reg.secPolicy 1 ∧ !(s.tender.millAuth.contains (s.img 0x20 16)) then 2
  else 0

/-- The directory entry of a device id and host id: offset and length of its section (R351). -/
def State.imgEntry (s : State) (dev host : Nat) : Option (Nat × Nat) :=
  let d := s.img 0x18 4
  ((upto (s.img 0x1C 4)).find? fun i => s.img (d + 16 * i) 2 == dev && s.img (d + 16 * i + 2) 2 == host).map fun i => (s.img (d + 16 * i + 4) 4, s.img (d + 16 * i + 8) 4)

/-- The device section of a device id and host id, where its entry lies in the image and ends with zeros (R351). -/
def State.imgSection (s : State) (dev host : Nat) : Option Section :=
  (s.imgEntry dev host).bind fun e => if e.1 + e.2 ≤ s.img 16 8 then readSection (s.bytes none (s.fld Reg.fabJobimg 47 0 + e.1) e.2) else none

/-- Are bytes 12 to 15 of every directory entry zero (R351)? -/
def State.imgDirZero (s : State) : Bool := (upto (s.img 0x1C 4)).all fun i => s.img (s.img 0x18 4 + 16 * i + 12) 4 == 0

/-- Has a word no bit set outside a mask? -/
def within (w : Word) (mask : Nat) : Bool := w.toNat &&& mask == w.toNat

/-- Is a route entry as R325 lays it out? -/
def routeOk (w : Word) : Bool := within w 0xBF && (wfld w 7 7 == 0 || decide (wfld w 5 0 < 36))

/-- Is a ream entry as R328 lays it out: ARG a stream, an input port, or zero? -/
def reamOk (w : Word) : Bool :=
  within w 0xFF0F && match wfld w 3 0 with
    | 0 => wfld w 15 8 == 0
    | 1 => decide (wfld w 15 8 < 16)
    | 2 => decide (wfld w 15 8 < 36)
    | _ => false

/-- Has word `i` of the send flows no bit that R334 leaves zero, and has word `i` of the receive flows? -/
def sflowWordOk (i : Nat) (w : Word) : Bool := within w (if i % 2 = 0 then 2 ^ 63 + (2 ^ 60 - 1) else 2 ^ 32 - 1)
def rflowWordOk (i : Nat) (w : Word) : Bool :=
  within w (match i % 4 with
    | 0 => 2 ^ 63 + (2 ^ 60 - 1)
    | 1 => 2 ^ 48 - 1
    | 2 => 2 ^ 64 - 2 ^ 32 + (2 ^ 30 - 1)
    | _ => 0)

/-- Are the flows of a section in range: unnamed bits zero, and a valid flow with 1 to 65,535 slots and a logical core that exists (R334)? -/
def sflowsOk (ws : List Word) : Bool :=
  (upto ws.length).all fun i => let w := ws.getD i 0
    sflowWordOk i w && (i % 2 == 1 || wfld w 63 63 == 0 || wfld (ws.getD (i + 1) 0) 15 0 != 0)
def rflowsOk (ws : List Word) : Bool :=
  (upto ws.length).all fun i => let w := ws.getD i 0
    rflowWordOk i w && (i % 4 != 2 || decide (wfld w 26 16 < 1200)) && (i % 4 != 0 || wfld w 63 63 == 0 || wfld (ws.getD (i + 2) 0) 15 0 != 0)

/-- May partial sums of elements of a format have another (R339)? -/
def accOk (fmt accf : Nat) : Bool := fmt == accf || ((fmt == 1 || fmt == 5) && accf == 0) || (fmt == 0 && accf == 2)

/-- Are the fields of a segment and of a collective in range (R339)? -/
def Seg.inRange (c : Coll) (g : Seg) : Bool :=
  decide (g.off + g.slen ≤ c.len) && decide (g.child.length ≤ 255) && g.child.all (fun d => decide (d < 4096)) && decide (g.parent < 4096) && decide (g.rank < 255)
def Coll.inRange (c : Coll) : Bool :=
  decide (c.id < 4096) && decide (c.typ ≤ 4) && decide (c.fmt ≤ 5) && accOk c.fmt c.accf && decide (c.stream < 16) && decide (c.seqr < 4) && decide (c.ctx < 16) &&
    c.loc.all (fun i => decide (i < 1200)) && (c.typ == 4 || !c.loc.isEmpty) && decide (c.loc.length ≤ 1200) &&
    !c.segs.isEmpty && decide (c.segs.length ≤ 4095) && c.segs.all (Seg.inRange c)

/-- Does a record of a patch set name an entry that exists and a word that its table can hold (R347)? -/
def PatchRec.inRange (colls : List Coll) (r : PatchRec) : Bool :=
  match r.table with
  | 0 => decide (r.index < 4096) && routeOk r.value
  | 1 => decide (r.port < 36) && decide (r.index < 512) && reamOk r.value
  | 2 => decide (r.port < 36) && decide (wfld r.value 21 16 < 36)
  | 3 => decide (r.index < 8192) && sflowWordOk r.index r.value && (r.index % 2 == 0 || wfld r.value 15 0 != 0)
  | 4 => decide (r.index < 16384) && rflowWordOk r.index r.value && (r.index % 4 != 2 || (wfld r.value 15 0 != 0 && decide (wfld r.value 26 16 < 1200)))
  | 5 => decide (r.index < Config.segmentWords colls)
  | _ => false

/-- Are the branch groups of a section in order: none at all, or every cluster in exactly one (R33)? -/
def groupsOk (gs : List Nat) : Bool :=
  decide (gs.length ≤ 16) && gs.all (fun g => decide (g < 2 ^ 100)) && (gs.all (· == 0) || (upto 100).all fun c => (gs.filter (·.testBit c)).length == 1)

/-- Is every field of a section in range (R33, R325, R328, R334, R339, R347, R352)? -/
def Section.inRange (k : Section) : Bool :=
  groupsOk k.groups && k.ports.all (fun w => decide (wfld w 21 16 < 36)) && k.routes.all routeOk && k.reams.all reamOk && sflowsOk k.sflows && rflowsOk k.rflows &&
    k.colls.all Coll.inRange && k.patches.all fun p => p.recs.all (PatchRec.inRange k.colls)

/-- Does every receive flow and scratch region of a section pass the page check (R352)? A scratch region is written and read. -/
def State.sectionPages (s : State) (k : Section) : Bool :=
  let word (f w : Nat) : Word := k.rflows.getD (4 * f + w) 0
  let flow (f : Nat) : Bool :=
    wfld (word f 0) 63 63 == 0 || (s.checkRange none none .write (wfld (word f 1) 47 0) (wfld (word f 0) 31 0 * wfld (word f 2) 15 0)).isNone
  (upto (k.rflows.length / 4)).all flow && k.colls.all fun c =>
    c.scratchLen == 0 || ((s.checkRange none none .write c.scratch c.scratchLen).isNone && (s.checkRange none none .read c.scratch c.scratchLen).isNone)

/-- Does a stream have a flow or a collective in a section? -/
def Section.uses (k : Section) (st : Nat) : Bool :=
  let flow (w : Word) : Bool := wfld w 63 63 == 1 && wfld w 59 56 == st
  (upto (k.sflows.length / 2)).any (fun f => flow (k.sflows.getD (2 * f) 0)) || (upto (k.rflows.length / 4)).any (fun f => flow (k.rflows.getD (4 * f) 0)) ||
    k.colls.any fun c => c.stream == st

/-- A send flow word as it is loaded: the sender holds every slot of the receiver. -/
def loadSflow (i : Nat) (w : Word) : Word := if i % 2 = 1 then wsetFld w 31 16 (wfld w 15 0) else w

/-- A receive flow word as it is loaded: no message completed. -/
def loadRflow (i : Nat) (w : Word) : Word := if i % 4 = 2 then wsetFld w 63 32 0 else w

/-- Routes, reams, expected peers and flows of a section put into the tables. -/
def State.loadTables (s : State) (k : Section) : State :=
  let s := (upto 4096).foldl (fun s d => s.put (Reg.fabRoute d) (k.routes.getD d 0)) s
  let s := (upto (36 * 512)).foldl (fun s i => s.put (Reg.fabPReam (i / 512) (i % 512)) (k.reams.getD i 0)) s
  let s := (upto 8192).foldl (fun s i => s.put (Reg.fabSflow 0 0 + 8 * i) (loadSflow i (k.sflows.getD i 0))) s
  let s := (upto 16384).foldl (fun s i => s.put (Reg.fabRflow 0 0 + 8 * i) (loadRflow i (k.rflows.getD i 0))) s
  let peers := (upto 36).foldl (fun m p => Sparse.set zeroWord m p (k.ports.getD p 0)) []
  { s with fab := { s.fab with peers := peers, enabled := k.portEn } }

/-- A device section loaded whole (R351, R33). -/
def State.loadSection (s : State) (k : Section) : State :=
  let s := s.loadTables k
  let groups := if k.groups.all (· == 0) then [2 ^ 100 - 1] else k.groups
  let s := (upto 16).foldl (fun s st => s.putBit (Reg.fabStrCtrl st) 0 (k.uses st)) s
  { s with fab := { s.fab with
      groups := groups, colls := k.colls, patches := k.patches, inForce := [], occNext := [], doneOcc := [], recvIdx := [], held := [], marked := [], runs := [], parts := [] } }

/-- A section that only a spare in standby has: ports, routes and reams alone (R351). -/
def Section.standby (k : Section) : Bool := k.groups.isEmpty && k.sflows.isEmpty && k.rflows.isEmpty && k.colls.isEmpty && k.patches.isEmpty

/-- FAB.JOBSTAT.ERR. -/
def State.jobErr (s : State) (code : Nat) : State := s.putFld Reg.fabJobstat 15 8 code

/-- A load that fails sets the error and loads nothing (R352). -/
def State.loadFail (s : State) (code : Nat) : State := ((s.jobErr code).setJob 5).measMill

/-- FAB_JOBCTL_LOAD: the image at FAB.JOBIMG is read, checked and loaded; while a job is started the write is ignored. A spare whose LMAX lies below the
job level fails here (R436), any other device at its start (R323). -/
def State.jobLoad (s : State) : State :=
  let st := s.fld Reg.fabJobstat 2 0
  if st = 2 ∨ st = 3 ∨ st = 4 then s
  else
    let e := s.imgHeader
    if e ≠ 0 then s.loadFail e
    else
      let id := s.fld Reg.fabMyid 11 0
      if !s.fab.myIdSet ∨ (s.imgEntry id id).isNone then s.loadFail 3
      else if !s.imgDirZero then s.loadFail 5
      else
        match s.imgSection id id with
        | none => s.loadFail 5
        | some k =>
          if k.standby ∧ s.fld Reg.fabLevel 3 0 < max (s.img 8 4) (s.fld Reg.fabLevel 11 8) then s.loadFail 4
          else if !k.inRange then s.loadFail 5
          else if !(s.sectionPages k) then s.loadFail 6
          else
            let s := (s.loadSection k).put Reg.fabEpoch 0
            let s := { s with fab := { s.fab with millId := s.img 0x20 16, jobLevel := s.img 8 4, hostId := id } }
            ((s.jobErr 0).setJob (if k.standby then 6 else 1)).peersCheck.updQuiet.measMill

/-- FAB_JOBCTL_LOAD. -/
def execFabJobctlLoad (s : State) : Host.Outcome State Fault Refusal := answer (Instr.wf .fabJobctlLoad) s (State.written fun s => s.jobLoad)

/-- FAB_JOBCTL_START: the MILLID goes out on every port that the image enables, and only what the peers answer from now on counts (R323, R352). -/
def State.jobStart (s : State) : State :=
  let st := s.fld Reg.fabJobstat 2 0
  if st ≠ 1 ∧ st ≠ 6 then s
  else if s.fld Reg.fabLevel 3 0 < s.fab.jobLevel then (s.jobErr 4).setJob 5
  else
    let s := (s.putFld Reg.fabLevel 11 8 s.fab.jobLevel).setJob 2
    let s := (upto 36).foldl (fun s p => s.modPort p fun x => { x with peerLevel := s.fab.jobLevel, peerMill := 0 }) s
    (s.fab.enabled.foldl State.askPeer s).joinJob.updQuiet

/-- FAB_JOBCTL_START. -/
def execFabJobctlStart (s : State) : Host.Outcome State Fault Refusal := answer (Instr.wf .fabJobctlStart) s (State.written fun s => s.jobStart)

/-- The fabric transfers that headboxes hold. -/
def State.fabXfers (s : State) : List Nat := (s.cores.flatMap fun p => p.2.work.hbq.filter fun x => x.kind != 0).map (·.xid)

/-- FAB_JOBCTL_STOP: the job ends; every transfer and contribution still queued counts once and moves no further data (R431). The flows and collectives
of the image are gone. A port in service stays so: its link goes on (R316; log row 92). -/
def State.jobStop (s : State) : State :=
  let st := s.fld Reg.fabJobstat 2 0
  if st ≠ 2 ∧ st ≠ 3 ∧ st ≠ 4 then s
  else
    let s := (s.fabXfers.foldl (fun s x => s.xferDone x) s).unpatchAll
    let s := { s with fab := { s.fab with queues := [], ins := [], runs := [], parts := [], colls := [], patches := [], inForce := [], recvIdx := [], held := [], patchReq := false
                                          raiseReq := false, occNext := [], doneOcc := [] } }
    let s := (upto 8192).foldl (fun s i => s.put (Reg.fabSflow 0 0 + 8 * i) 0) s
    let s := (upto 16384).foldl (fun s i => s.put (Reg.fabRflow 0 0 + 8 * i) 0) s
    let s := (upto 16).foldl (fun s st => s.putBit (Reg.fabStrCtrl st) 0 false) s
    ((s.putBit Reg.fabPatch 63 false).setJob 0).updQuiet.measMill

/-- FAB_JOBCTL_STOP. -/
def execFabJobctlStop (s : State) : Host.Outcome State Fault Refusal := answer (Instr.wf .fabJobctlStop) s (State.written fun s => s.jobStop)

/-- FAB_SUBST: a spare in standby takes a failed id: its section, MYID, and the link-up exchange on every port (R349). The checks of R352 belong to
JOBCTL.LOAD; the groups of the section taken here are loaded as they stand (log row 167). -/
def State.subst (s : State) (v : Word) : State :=
  let id := wfld v 11 0
  if wfld v 63 63 = 0 ∨ s.fld Reg.fabJobstat 2 0 ≠ 6 ∨ !s.noCells then s
  else
    match s.imgSection id s.fab.hostId with
    | none => s.jobErr 3
    | some k =>
      let s := (s.loadSection k).putFld Reg.fabMyid 11 0 id
      ((upto 36).foldl (fun s p => if s.linkedUp p then s.askPeer p else s) s).peersCheck.updQuiet

/-- FAB_SUBST. -/
def execFabSubst (v : Word) (s : State) : Host.Outcome State Fault Refusal := answer (Instr.wf (.fabSubst v)) s (State.written fun s => s.subst v)

/-- Does a stream hold a transfer (R355)? -/
def State.streamBusy (s : State) (st : Nat) : Bool :=
  s.fab.queues.any (fun i => i.stream == st) || s.fab.runs.any (fun r => ((s.collOf r.coll).map (·.stream)) == some st) ||
    s.fab.ins.any (fun i => ((s.collOf i.coll).map (·.stream)) == some st) ||
    s.cores.any fun p => s.groupOf (p.1 / 13) == st && p.2.work.hbq.any fun x => x.kind != 0

/-- The records in force on flows and segments put again into tables that a reload has filled: sets stay in force until the job ends (R348). -/
def State.repatch (s : State) : State := s.fab.inForce.foldl (fun s u => if 3 ≤ u.set.table then s.patchOne u.set else s) s

/-- Flows and collectives of a stream put in from a section, with EN of the stream, and under the patch sets in force (R355, R358). -/
def State.reloadFrom (s : State) (st : Nat) (k : Section) : State :=
  let sw (f w : Nat) : Word := k.sflows.getD (2 * f + w) 0
  let rw' (f w : Nat) : Word := k.rflows.getD (4 * f + w) 0
  let s := (upto 4096).foldl (fun s f =>
    let s := if s.sflow f 59 56 = st ∨ wfld (sw f 0) 59 56 = st then
        (upto 2).foldl (fun s w => s.put (Reg.fabSflow f w) (loadSflow w (sw f w))) s else s
    if s.rflow f 59 56 = st ∨ wfld (rw' f 0) 59 56 = st then
      (upto 4).foldl (fun s w => s.put (Reg.fabRflow f w) (loadRflow w (rw' f w))) s else s) s
  let gone := (s.fab.colls.filter fun c => c.stream == st).map (·.id)
  let colls := (s.fab.colls.filter fun c => c.stream != st) ++ k.colls.filter fun c => c.stream == st
  let s := s.putBit (Reg.fabStrCtrl st) 0 (k.uses st)
  ({ s with fab := { s.fab with
      colls := colls, occNext := s.fab.occNext.filter (fun x => !(gone.contains (x.1 / 2048))), doneOcc := s.fab.doneOcc.filter fun x => !(gone.contains x.1) } }).repatch

/-- The reload of a stream, once it holds no transfer. -/
def State.streamReload (s : State) (st : Nat) : State :=
  if s.streamBusy st then s.wait .busy
  else
    match s.imgSection (s.fld Reg.fabMyid 11 0) s.fab.hostId with
    | none => s
    | some k => s.reloadFrom st k

/-- FAB_STR_CTRL_RELOAD. -/
def execFabStrCtrlReload (st : Nat) (s : State) : Host.Outcome State Fault Refusal :=
  answer (Instr.wf (.fabStrCtrlReload st)) s (State.written fun s => s.streamReload st)

end Sys2Proof.Machine
end

