-- ==== Sys2Proof/Machine/Host.lean ====
section
/-! DEFINITION. Host attachment: host accesses to the window, command queues and their commands, features, windows, doorbells, MSI-X vectors and
resets of the link (R359 to R381). -/

namespace Sys2Proof.Machine

/-! ### Features (R364 to R366) -/

/-- The features that the firmware enables, while it runs (R366). -/
def State.featOffer (s : State) : Word := if s.sys.fwRuns then Config.fwFeatures.zeroExtend 64 else 0

/-- Is a feature in force? -/
def State.feature (s : State) (n : Nat) : Bool := s.bit (Reg.devFeatActive 0) n

/-- Does a register bit of one of the first `n` units stand at 1? -/
def State.anyBit (s : State) (n : Nat) (reg : Nat → Nat) (i : Nat) : Bool := (upto n).any fun k => s.bit (reg k) i

/-- DEV_FEATCTL_COMMIT: FEAT_ACTIVE becomes FEAT_ACCEPT and OFFER, or ERR is set (R365). Without bit 5 the host holds no line of the window (R369). -/
def State.featCommit (s : State) : State :=
  let next := s.cur (Reg.devFeatAccept 0) &&& s.featOffer
  let was := s.cur (Reg.devFeatActive 0)
  let changes (i : Nat) : Bool := wfld next i i != wfld was i i
  if !(s.bit (Reg.devFeatAccept 0) 0) || s.anyBit 16 Reg.hifQCtrl 63 || (changes 2 && s.anyBit 8 Reg.hifHwinCfg 3) ||
      ((changes 1 || changes 5) && s.bit Reg.hifHdmctl 0) then s.putBit Reg.devFeatctl 1 true
  else
    let s := s.put (Reg.devFeatActive 0) next
    let s := if wfld next 5 5 = 1 then s else { s with hif := { s.hif with snoop := [], biWait := [] } }
    ([1, 2, 3].foldl (fun s w => s.put (Reg.devFeatActive w) 0) s).measFeat

/-- DEV_FEATCTL_COMMIT. -/
def execDevFeatctlCommit (s : State) : Host.Outcome State Fault Refusal := answer (Instr.wf .devFeatctlCommit) s fun s => s.featCommit

/-! ### The HDM window (R367 to R369) -/

/-- HIF_HDMCTL_EN: a write of HIF.HDMCTL. EN = 1 is taken with feature bit 1 in force and the window below capacity (R366, R367). -/
def State.hdmctlWrite (s : State) (v : Word) : State :=
  let s := if wfld v 1 1 = 1 then s.putBit Reg.hifHdmctl 1 false else s
  if wfld v 0 0 = 0 then s.putBit Reg.hifHdmctl 0 false
  else if !(s.feature 1) then s
  else if s.capBytes < (s.fld Reg.hifHdmbase 40 28 + s.fld Reg.hifHdmsize 40 28) * 2 ^ 28 then s.putBit Reg.hifHdmctl 1 true
  else s.putBit Reg.hifHdmctl 0 true

/-- HIF_HDMCTL_EN. -/
def execHifHdmctlEn (v : Word) (s : State) : Host.Outcome State Fault Refusal := answer (Instr.wf (.hifHdmctlEn v)) s (State.written fun s => s.hdmctlWrite v)

/-- The reel address that a host physical address of the decoder range names (R367). -/
def State.windowAddr (s : State) (hpa len : Nat) : Option Nat :=
  let h := hpa - s.hif.decoder
  if s.bit Reg.hifHdmctl 0 ∧ s.hif.decoder ≤ hpa ∧ h + len ≤ s.fld Reg.hifHdmsize 40 28 * 2 ^ 28 then some (h + s.fld Reg.hifHdmbase 40 28 * 2 ^ 28) else none

/-- The size code of HIF.BADADDR (R377). -/
def sizeCode (n : Nat) : Nat := if n = 1 then 1 else if n = 2 then 2 else if n = 4 then 3 else if n = 8 then 4 else 5

/-- A line of the window that the host now holds enters the snoop filter; when that is full, its oldest entry is back-invalidated (R369). -/
def State.trackLine (s : State) (line : Nat) : State :=
  if line ∈ s.hif.snoop then s
  else
    match s.hif.snoop with
    | [] => { s with hif := { s.hif with snoop := [line] } }
    | old :: rest =>
      if s.hif.snoop.length < 131072 then { s with hif := { s.hif with snoop := s.hif.snoop ++ [line] } }
      else
        (({ s with hif := { s.hif with snoop := rest ++ [line], biWait := addNew s.hif.biWait old } }).emit (.snoop old)).bump Reg.hifSnpfull 1

/-- The agent of host accesses in event class 0x02. -/
def hostWho : Who := { agent := 6 }

/-- HOST_MEM_ACCESS (R368): a read or a write of the host through CXL.mem. A write invalidates every device copy of its lines (R292). -/
def State.hostAccess (s : State) (write : Bool) (hpa len : Nat) (data : List Byte) : State :=
  let n := if write then data.length else len
  let refused (s : State) : State := s.badAccess 3 write (sizeCode n) hpa
  match s.windowAddr hpa n with
  | none => (refused s).emit (if write then .memDone else .memData (List.replicate n 0xFF) false)
  | some a =>
    if s.capBytes < a + n ∨ (s.checkRange none none (if write then .write else .read) a n).isSome then
      (refused s).emit (if write then .memDone else .memData (List.replicate n 0xFF) false)
    else if write then
      let snoop := s.hif.snoop
      let waits := s.hif.biWait
      let s := ({ s with hif := { s.hif with snoop := [], biWait := [] } }.agentStore hostWho none true a data).1
      { s with hif := { s.hif with snoop := snoop, biWait := waits } }.emit .memDone
    else
      let r := s.readMeets hostWho none a n
      let s := if r.1.feature 5 then (linesOf a n).foldl State.trackLine r.1 else r.1
      s.emit (.memData (s.bytes none a n) r.2)

/-- HOST_MEM_ACCESS. -/
def execHostMemAccess (write : Bool) (hpa len : Nat) (data : List Byte) (s : State) : Host.Outcome State Fault Refusal :=
  answer (Instr.wf (.hostMemAccess write hpa len data)) s fun s => s.hostAccess write hpa len data

/-! ### Queues (R372 to R374) -/

/-- The sizes of the submission and the completion queue. -/
def State.sqSize (s : State) (n : Nat) : Nat := 2 ^ s.fld (Reg.hifQCtrl n) 3 0
def State.cqSize (s : State) (n : Nat) : Nat := 2 ^ s.fld (Reg.hifQCtrl n) 7 4

def State.qBusy (s : State) (n : Nat) (b : Bool) : State := s.putBit (Reg.hifQStat n) 0 b

/-- A queue stops: QSTAT.ERR and HIF.EVT.QERR (R374, R381). -/
def State.stopQueue (s : State) (n code : Nat) : State :=
  let s := ((s.putFld (Reg.hifQStat n) 15 8 code).qBusy n false).hostEvent 4
  s.setQueue n { s.queueAt n with cmd := none, ready := false, stopped := true }

/-- A command with the status and the result that it ends with. -/
def State.ends (s : State) (n status result : Nat) : State := s.setQueue n { s.queueAt n with status := status, result := result, ready := true }

/-- Bits of a command. -/
def cmdFld (ws : List Word) (i hi lo : Nat) : Nat := wfld (ws.getD i 0) hi lo
def cmdArg (ws : List Word) (i : Nat) : Nat := (ws.getD i 0).toNat
def cmdOpc (ws : List Word) : Nat := cmdFld ws 0 7 0

/-- Reserved fields and opcodes of a command (R374). -/
def cmdReserved (ws : List Word) : Bool :=
  cmdFld ws 0 63 32 != 0 || cmdFld ws 0 15 8 != 0 || decide (6 < cmdOpc ws) || (ws.drop 4).any (· != 0)

/-- A core started: no restore is taken until every group has been stopped (R429). -/
def State.startCore (s : State) (pos s0 : Nat) : State :=
  let s := s.resetEntry pos s0
  { s with snap := { s.snap with started := true } }

/-- Cores started by a command: the stop of a branch group whose cores have all stopped is over, and one that still waits for a couch point stays wanted
(R35). Clusters that a scan had stopped run again (R494; log row 129). -/
def State.startCores (s : State) (ids : List Nat) (s0 : Nat) : State :=
  let free := (ids.map fun i => s.groupOf (i / 12)).filter s.groupIdle
  let s := { s with groupStop := s.groupStop.filter (fun g => !free.contains g)
                    sys := { s.sys with scanned := s.sys.scanned.filter fun c => !(ids.any fun i => i / 12 == c) } }
  ids.foldl (fun s i => match s.posOf i with | some p => s.startCore p s0 | none => s) s

/-- Cores entering reset entry for a command, which ends when all have: queued transfers are discarded at once, and a transfer that has begun is
waited for (R374, R526). -/
def State.enterAll (s : State) (n : Nat) (ids : List Nat) (s0 : Nat) : State :=
  if ids.any s.begunOf then ids.foldl (fun s i => s.dropQueued i) s else (s.startCores ids s0).ends n 0 0

/-- CORE_START (R374). -/
def State.coreStart (s : State) (n : Nat) (ws : List Word) : State :=
  let first := cmdArg ws 1
  let count := cmdArg ws 2
  if 1200 < first + count then s.ends n 2 0
  else
    let ids := (upto count).map (first + ·)
    let ok (i : Nat) : Bool :=
      match s.posOf i with
      | some p => s.atRest p
      | none => false
    if !ids.all ok then s.ends n 5 0
    else s.enterAll n ids 0

/-- GROUP_STOP asked for (R35): cores that stand at a couch point stop at once, running cores at their next couch point. -/
def State.groupStopWanted (s : State) (n g : Nat) : State :=
  if s.fab.groups.length ≤ g then s.ends n 2 0
  else
    let s := { s with groupStop := addNew s.groupStop g }
    (s.groupIds g).foldl (fun s i => match s.posOf i with | some p => if s.stateOf p = 2 ∨ (s.stateOf p = 1 ∧ (s.coreAt p).arch.flow.atCouch) then s.setStateOf p 6 else s | none => s) s

/-- GROUP_RESTART (R374, R375): the stopped cores of the group enter reset entry. A core that no CORE_START has started stays as it is (R122, R401; log row 107). -/
def State.groupRestart (s : State) (n g : Nat) : State :=
  let ids := (s.groupIds g).filter fun i => match s.posOf i with | some p => s.stateOf p == 6 | none => false
  if s.fab.groups.length ≤ g then s.ends n 2 0
  else if !s.groupIdle g ∨ ids.isEmpty then s.ends n 5 0
  else s.enterAll n ids 1

/-- The part of a command that takes effect when the device reads it. -/
def State.beginCmd (s : State) (n : Nat) (ws : List Word) : State :=
  if cmdReserved ws then s.ends n 1 0
  else
    match cmdOpc ws with
    | 0 => s.ends n 0 0
    | 3 => s.coreStart n ws
    | 4 => s.groupStopWanted n (cmdArg ws 1)
    | 6 => s.groupRestart n (cmdArg ws 1)
    | _ => s

/-- The next command of a queue read and begun, when one waits and none is at work (R372, R374). -/
def State.readCmd (s : State) (n : Nat) : State :=
  let q := s.queueAt n
  let head := s.fld (Reg.hifQSqhead n) 15 0
  if !(s.bit (Reg.hifQCtrl n) 63) || q.stopped || q.cmd.isSome || head == s.fld (Reg.hifQSqtail n) 15 0 then s
  else if !s.hif.linkUp then s.stopQueue n 1
  else
    let base := s.fld (Reg.hifQSqbase n) 63 12 * 4096 + 64 * head
    let ws := (upto 8).map fun i => BitVec.ofNat 64 (ofLe ((upto 8).map fun k => s.byteAt (.host 0 (base + 8 * i + k))))
    ((s.setQueue n { q with cmd := some ws, status := 0, result := 0, ready := false }).qBusy n true).beginCmd n ws

/-- HIF_Q_SQTAIL: a value below the size is stored, and the device reads commands up to it (R372, R377). -/
def State.sqtailWrite (s : State) (n : Nat) (v : Word) : State :=
  if s.sqSize n ≤ wfld v 15 0 then s else (s.putFld (Reg.hifQSqtail n) 15 0 (wfld v 15 0)).readCmd n

/-- HIF_Q_SQTAIL. -/
def execHifQSqtail (n : Nat) (v : Word) (s : State) : Host.Outcome State Fault Refusal :=
  answer (Instr.wf (.hifQSqtail n v)) s (State.written fun s => s.sqtailWrite n v)

/-- HIF_Q_CTRL_EN: a write of HIF.Qn.CTRL (R377); `sel` holds the bits that the access addresses. Enabling resets the heads (R374). -/
def State.queueCtrl (s : State) (n sel : Nat) (v : Word) : State :=
  let off := Reg.hifQCtrl n
  let was := s.bit off 63
  let fields := (fieldsAt off).filter fun f => f.lo ≠ 63
  let old := s.raw off
  let s := s.put off (BitVec.ofNat 64 (writeWord (fun _ _ => true) fields sel v.toNat old.toNat) ||| (old &&& BitVec.ofNat 64 (2 ^ 63)))
  if !sel.testBit 63 then s
  else if wfld v 63 63 = 0 then
    ((s.putBit off 63 false).qBusy n false).setQueue n { s.queueAt n with cmd := none, ready := false, stopped := false }
  else if s.fld off 12 8 = 0 then s.putFld (Reg.hifQStat n) 15 8 3
  else if !(s.bit Reg.hifCtrl 0) then s
  else
    let s := (s.putBit off 63 true).putFld (Reg.hifQStat n) 15 8 0
    if was then s
    else
      let s := (s.putFld (Reg.hifQSqhead n) 15 0 (s.fld (Reg.hifQSqtail n) 15 0)).putFld (Reg.hifQCqhead n) 15 0 0
      s.setQueue n { hostQReset n with stopped := false }

/-- HIF_Q_CTRL_EN. -/
def execHifQCtrlEn (n : Nat) (v : Word) (s : State) : Host.Outcome State Fault Refusal :=
  answer (Instr.wf (.hifQCtrlEn n v)) s (State.written fun s => s.queueCtrl n (2 ^ 64 - 1) v)

/-! ### Commands that end later -/

/-- The first byte of a range whose unit of protection holds an uncorrectable error; with `merge`, a unit that the range covers whole does not
count, since a write replaces it. -/
def State.firstBadByte (s : State) (merge : Bool) (a n : Nat) : Option Nat :=
  (upto n).find? fun i =>
    match s.unitAt none (a + i) with
    | none => false
    | some u =>
      let x := a + i - (a + i) % unitLen u
      s.isBad u && !(merge && decide (a ≤ x) && decide (x + unitLen u ≤ a + n))

/-- COPY_IN (R374). -/
def State.copyIn (s : State) (n : Nat) (ws : List Word) : State :=
  let host := cmdArg ws 1
  let dev := cmdArg ws 2
  let len := cmdArg ws 3
  if 2 ^ 64 < host + len then s.ends n 2 0
  else if (s.checkRange none none .write dev len).isSome then s.ends n 3 0
  else
    let bs (k : Nat) : List Byte := (upto k).map fun i => s.byteAt (.host 0 (host + i))
    match s.firstBadByte true dev len with
    | none => ((s.agentStore hostWho none false dev (bs len)).1).ends n 0 len
    | some k =>
      let s := (s.agentStore hostWho none false dev (bs k)).1
      let s := match s.unitAt none (dev + k) with
        | some u => (s.metBad hostWho.agent hostWho.lcid u).tagLost u
        | none => s
      s.ends n 4 k

/-- Bytes stored to host memory. -/
def State.hostStore (s : State) : Nat → List Byte → State
  | _, [] => s
  | a, b :: bs => (s.setByteAt 0xE b (.host 0 a)).hostStore (a + 1) bs

/-- COPY_OUT (R374). -/
def State.copyOut (s : State) (n : Nat) (ws : List Word) : State :=
  let dev := cmdArg ws 1
  let host := cmdArg ws 2
  let len := cmdArg ws 3
  if 2 ^ 64 < host + len then s.ends n 2 0
  else if (s.checkRange none none .read dev len).isSome then s.ends n 3 0
  else
    let k := (s.firstBadByte false dev len).getD len
    let s := (s.readMeets hostWho none dev (if k = len then len else k + 1)).1
    (s.hostStore host (s.bytes none dev k)).ends n (if k = len then 0 else 4) k

/-- The status of a program section for a group, 0 when it passes (R375). -/
def State.sectionStatus (s : State) (g a : Nat) : Nat :=
  let w (o n : Nat) : Nat := s.num none (a + o) n
  let entry := w 0x10 8
  let base := w 0x18 8
  let len := w 0x20 8
  let image := if w 0x28 8 = 0 then s.fld Reg.fabJobimg 47 0 else w 0x28 8
  let im := s.put Reg.fabJobimg (BitVec.ofNat 64 image)
  let id := s.fld Reg.fabMyid 11 0
  if a % 4096 ≠ 0 ∨ feltBase ≤ a then 2
  else if (s.checkRange none none .read a 256).isSome then 3
  else if (s.firstBad none a 256).isSome then 4
  else if s.capBytes < base + len ∨ (s.checkRange none none .read base len).isSome ∨ (s.checkRange none none .fetch base len).isSome then 3
  else if w 0 4 ≠ 0x53474C48 ∨ w 4 4 ≠ 1 ∨ w 0xC 4 ≠ 0 ∨ entry / 2 ^ 43 ≠ 0 ∨ w 0x60 160 ≠ 0 then 1
  else if w 8 4 ≠ g ∨ base % 32 ≠ 0 ∨ len % 32 ≠ 0 ∨ 32 * entry < base ∨ base + len ≤ 32 * entry then 2
  else if (s.firstBad none base len).isSome then 4
  else if sha384 (s.bytes none base len) ≠ s.bytes none (a + 0x30) 48 then 2
  else if image % 4096 ≠ 0 ∨ im.imgHeader ≠ 0 ∨ !s.fab.myIdSet ∨ ((im.imgSection id id).map Section.inRange).getD false = false then 2
  else 0

/-- GROUP_RELOAD (R375): program entry, program stores, and the flows and collectives of the group's stream from the section that the check has found, once
the stream holds no transfer (R355). -/
def State.groupReload (s : State) (n g a : Nat) : State :=
  if s.fab.groups.length ≤ g then s.ends n 2 0
  else if !s.groupIdle g then s.ends n 5 0
  else
    let st := s.sectionStatus g a
    if st ≠ 0 then s.ends n st 0
    else if s.streamBusy g then s.wait .busy
    else
      let entry := s.num none (a + 0x10) 8
      let image := if s.num none (a + 0x28) 8 = 0 then s.fld Reg.fabJobimg 47 0 else s.num none (a + 0x28) 8
      let clus := (upto 100).filter fun c => s.groupOf c == g
      let s := clus.foldl (fun s c => (s.putFld (Reg.cluRstpc c) 42 0 entry).modClu c fun k => { k with cal := { k.cal with hold := true } }) s
      let s := clus.foldl (fun s c => (upto 13).foldl (fun s p => s.psInvalidate (13 * c + p)) s) s
      let id := s.fld Reg.fabMyid 11 0
      match (s.put Reg.fabJobimg (BitVec.ofNat 64 image)).imgSection id id with
      | none => s
      | some k => (s.reloadFrom g k).ends n 0 0

/-- The part of a command that is left when it is asked whether it has ended. -/
def State.finishCmd (s : State) (n : Nat) (ws : List Word) : State :=
  match cmdOpc ws with
  | 1 => s.copyIn n ws
  | 2 => s.copyOut n ws
  | 3 => s.coreStart n ws
  | 6 => s.groupRestart n (cmdArg ws 1)
  | 4 =>
    if s.groupIdle (cmdArg ws 1) then
      let all := (upto s.fab.groups.length).all s.groupIdle
      ({ s with snap := { s.snap with started := s.snap.started && !all } }).ends n 0 0
    else s
  | 5 => s.groupReload n (cmdArg ws 1) (cmdArg ws 2)
  | _ => s

/-- A completion written, its vector raised, and the next command read (R372 to R374). A full completion queue waits. -/
def State.writeCompletion (s : State) (n : Nat) (ws : List Word) : State :=
  let q := s.queueAt n
  let size := s.cqSize n
  if (q.head + 1) % size = s.fld (Reg.hifQCqhead n) 15 0 then s
  else if !s.hif.linkUp then s.stopQueue n 2
  else
    let head := (s.fld (Reg.hifQSqhead n) 15 0 + 1) % s.sqSize n
    let w0 := cmdFld ws 0 31 16 + n * 2 ^ 16 + head * 2 ^ 32 + b2n q.phase * 2 ^ 48 + q.status * 2 ^ 56
    let s := s.hostStore (s.fld (Reg.hifQCqbase n) 63 12 * 4096 + 16 * q.head) (leBytes 8 w0 ++ leBytes 8 q.result)
    let s := (s.putFld (Reg.hifQSqhead n) 15 0 head).qBusy n false
    let s := s.setQueue n { q with cmd := none, ready := false, head := (q.head + 1) % size, phase := if q.head + 1 = size then !q.phase else q.phase }
    (s.msix (s.fld (Reg.hifQCtrl n) 12 8)).readCmd n

/-- COMMAND_COMPLETION: the command at work in a queue ends, when it can. -/
def State.completion (s : State) (n : Nat) : State :=
  match (s.queueAt n).cmd with
  | none => s.readCmd n
  | some ws =>
    let s := if (s.queueAt n).ready then s else s.finishCmd n ws
    if (s.queueAt n).ready then s.writeCompletion n ws else s

/-- COMMAND_COMPLETION. -/
def execCommandCompletion (n : Nat) (s : State) : Host.Outcome State Fault Refusal :=
  answer (Instr.wf (.commandCompletion n)) s fun s => s.completion n

/-- HIF_Q_CQHEAD: a value below the size is stored, and a command that waits for a free completion entry ends (R372, R377). -/
def State.cqheadWrite (s : State) (n : Nat) (v : Word) : State :=
  if s.cqSize n ≤ wfld v 15 0 then s
  else
    let s := s.putFld (Reg.hifQCqhead n) 15 0 (wfld v 15 0)
    match (s.queueAt n).cmd with
    | some ws => if (s.queueAt n).ready then s.writeCompletion n ws else s
    | none => s

/-- HIF_Q_CQHEAD. -/
def execHifQCqhead (n : Nat) (v : Word) (s : State) : Host.Outcome State Fault Refusal :=
  answer (Instr.wf (.hifQCqhead n v)) s (State.written fun s => s.cqheadWrite n v)

/-! ### Host windows (R371, R377) -/

/-- A write to a register of host window `n`: the fields of an enabled window ignore it, and EN = 1 needs HIF.CTRL.EN and feature bit 2. -/
def State.hwinWrite (s : State) (n off sel : Nat) (v : Word) : State :=
  let on := s.bit (Reg.hifHwinCfg n) 3
  let old := s.raw off
  let new := BitVec.ofNat 64 (writeWord (fun _ _ => true) (fieldsAt off) sel v.toNat old.toNat)
  if off ≠ Reg.hifHwinCfg n then (if on then s else s.put off new)
  else if on then s.putBit off 3 (wfld new 3 3 = 1)
  else if wfld new 3 3 = 1 ∧ (!(s.bit Reg.hifCtrl 0) ∨ !(s.feature 2)) then s.put off (wsetFld new 3 3 0)
  else s.put off new

/-! ### Doorbells (R376) -/

/-- The bits of logical ids in doorbell word `w`. -/
def cdbMask (w : Nat) : Word := if w = 18 then 0xFFFFFFFFFFFF else 0xFFFFFFFFFFFFFFFF

/-- HIF_CDB: with feature bit 4 in force each 1 sets a doorbell. -/
def State.cdbWrite (s : State) (w : Nat) (v : Word) : State :=
  if s.feature 4 then s.put (Reg.hifCdb w) (s.raw (Reg.hifCdb w) ||| (v &&& cdbMask w)) else s

/-- HIF_CDB. -/
def execHifCdb (w : Nat) (v : Word) (s : State) : Host.Outcome State Fault Refusal := answer (Instr.wf (.hifCdb w v)) s (State.written fun s => s.cdbWrite w v)

/-- HIF_CDBC: each 1 clears a doorbell. -/
def State.cdbcWrite (s : State) (w : Nat) (v : Word) : State := s.put (Reg.hifCdb w) (s.raw (Reg.hifCdb w) &&& ~~~v)

/-- HIF_CDBC. -/
def execHifCdbc (w : Nat) (v : Word) (s : State) : Host.Outcome State Fault Refusal := answer (Instr.wf (.hifCdbc w v)) s fun s => s.cdbcWrite w v

/-! ### MSI-X (R378) -/

/-- MSIX_UNMASK: a vector unmasked fires when it is pending. -/
def State.unmask (s : State) (vec : Nat) : State :=
  let was := s.hif.pend.getLsbD vec
  let bit : BitVec 32 := 1#32 <<< vec
  let s := { s with hif := { s.hif with mask := s.hif.mask &&& ~~~bit, pend := s.hif.pend &&& ~~~bit } }
  if was then s.emit (.msix vec) else s

/-- MSIX_UNMASK. -/
def execMsixUnmask (vec : Nat) (s : State) : Host.Outcome State Fault Refusal := answer (Instr.wf (.msixUnmask vec)) s fun s => s.unmask vec

/-! ### BAR2 and configuration space (R361) -/

/-- Word `d` of BAR2, by 4 bytes: each vector's entry holds its address, low half first, its data and its mask bit, as PCI Express lays them out, and the
pending bits stand at 0x800 (log row 8). -/
def State.bar2Word (s : State) (d : Nat) : Nat :=
  if d < 128 then (if d % 4 = 3 then b2n (s.hif.mask.getLsbD (d / 4)) else (Sparse.get zeroWord s.hif.table d).toNat)
  else if d = 0x200 then s.hif.pend.toNat
  else 0

/-- A write of a word of BAR2; clearing a mask bit lets a pending vector fire. The pending bits are read only. -/
def State.bar2Write (s : State) (d v : Nat) : State :=
  if 128 ≤ d then s
  else if d % 4 ≠ 3 then { s with hif := { s.hif with table := Sparse.set zeroWord s.hif.table d (BitVec.ofNat 64 (v % 2 ^ 32)) } }
  else if v % 2 = 0 then s.unmask (d / 4)
  else { s with hif := { s.hif with mask := s.hif.mask ||| 1#32 <<< (d / 4) } }

/-- Word `d` of configuration space. -/
def State.confRead (s : State) (d : Nat) : Nat :=
  ((Config.confWord d &&& ~~~(Config.confMask d)) ||| (BitVec.ofNat 32 (Sparse.get zeroWord s.hif.conf d).toNat &&& Config.confMask d)).toNat

/-- A write of a word of configuration space: the writable bits take it, and the HDM decoder follows its capability (R367). -/
def State.confWrite (s : State) (d v : Nat) : State :=
  let conf := Sparse.set zeroWord s.hif.conf d (BitVec.ofNat 64 (v % 2 ^ 32))
  { s with hif := { s.hif with conf := conf, decoder := Config.hdmDecoder conf } }

/-- May an access be made to BAR2 or to configuration space: 4 or 8 bytes, aligned (log row 8)? -/
def wordAccess (off size : Nat) : Bool := (size == 4 || size == 8) && off % size == 0

/-- A read there, answered with zero where no access can be made. -/
def State.functionRead (s : State) (word : State → Nat → Nat) (off size : Nat) : State :=
  if wordAccess off size then
    s.emit (.csrData (BitVec.ofNat 64 (word s (off / 4) + (if size = 8 then word s (off / 4 + 1) * 2 ^ 32 else 0))))
  else s.emit (.csrData 0)

/-- A write there, in 4-byte words, the lower one first. -/
def State.functionWrite (s : State) (write : State → Nat → Nat → State) (off size : Nat) (v : Word) : State :=
  if !wordAccess off size then s
  else
    let s := write s (off / 4) (wfld v 31 0)
    if size = 8 then write s (off / 4 + 1) (wfld v 63 32) else s

/-! ### The link (R381) -/

/-- Does an address lead to host memory? -/
def State.isHost (s : State) (a : Nat) : Bool :=
  match s.locate none a with
  | .host _ _ => true
  | _ => false

/-- LINK_RESET: the link leaves L0 or is reset (R381). Loads in flight that only host memory could serve fail, enabled queues stop, and the host holds no line
any more. -/
def State.linkDown (s : State) : State :=
  let s := { s with hif := { s.hif with linkUp := false, snoop := [], biWait := [] } }
  let lost (p : Nat) (o : OutLoad) : OutLoad := if s.hostLost (some p) o.addr then { o with bad := true } else o
  let cores := Sparse.mapAll coreReset (fun p c => { c with work := { c.work with loads := c.work.loads.map (lost p) } }) s.cores
  let s := { s with cores := cores }
  (upto 16).foldl (fun s n => if s.bit (Reg.hifQCtrl n) 63 && !(s.queueAt n).stopped then s.stopQueue n 1 else s) s

/-- LINK_RESET. -/
def execLinkReset (s : State) : Host.Outcome State Fault Refusal := answer (Instr.wf .linkReset) s fun s => s.linkDown

/-- CXL_RESET: as a link reset, and HIF and DEV.FEAT_ACTIVE return to their reset values. -/
def State.cxlReset (s : State) : State :=
  let s := s.linkDown
  let s := { s with csr := s.csr.filter fun x => !(decide (0x100000 ≤ x.1) && decide (x.1 < 0x200000)) && !(decide (0x80 ≤ x.1) && decide (x.1 < 0xA0)) }
  ({ s with hif := { s.hif with queues := [], latch := none } }).measFeat

/-- CXL_RESET. -/
def execCxlReset (s : State) : Host.Outcome State Fault Refusal := answer (Instr.wf .cxlReset) s fun s => s.cxlReset

/-- LINK_RETURN_TO_L0. -/
def execLinkReturnToL0 (s : State) : Host.Outcome State Fault Refusal :=
  answer (Instr.wf .linkReturnToL0) s fun s => { s with hif := { s.hif with linkUp := true } }

end Sys2Proof.Machine
end

