-- ==== Sys2Proof/Machine/Attest.lean ====
section
/-! DEFINITION. SPDM over the DOE mailbox, and the keys of the IDE stream (R379, R380, R475, R477). The order in which SPDM 1.2 wants its messages is
presumed (log row 30); their layouts are free values. -/

namespace Sys2Proof.Machine

/-- A response: message number, what the manual has it carry, and the request. -/
def State.spdmReply (s : State) (msg : Nat) (data body : List Byte) : State :=
  let (n, s) := s.freeDraw
  s.emit (.spdm (Config.spdmBody msg data body n))

/-- A message that the connection takes in its present state; otherwise it is refused. -/
def State.spdmStep (s : State) (ok : Bool) (next msg : Nat) (data body : List Byte) : State :=
  if ok then ({ s with hif := { s.hif with spdm := next } }).spdmReply msg data body else s.spdmReply 0 [] body

/-- The same with a signature by the Alias key over the request and the data. -/
def State.spdmSigned (s : State) (ok : Bool) (next msg : Nat) (data body : List Byte) : State :=
  let (sig, s) := s.aliasSign (body ++ data)
  s.spdmStep ok next msg (data ++ sig) body

/-- GET_VERSION: the connection starts anew. -/
def execGetVersion (body : List Byte) (s : State) : Host.Outcome State Fault Refusal := answer (Instr.wf (.getVersion body)) s fun s =>
    ({ s with hif := { s.hif with sess := none } }).spdmStep true 1 1 [] body

/-- GET_CAPABILITIES. -/
def execGetCapabilities (body : List Byte) (s : State) : Host.Outcome State Fault Refusal :=
  answer (Instr.wf (.getCapabilities body)) s fun s => s.spdmStep (s.hif.spdm == 1) 2 2 [] body

/-- NEGOTIATE_ALGORITHMS. -/
def execNegotiateAlgorithms (body : List Byte) (s : State) : Host.Outcome State Fault Refusal :=
  answer (Instr.wf (.negotiateAlgorithms body)) s fun s => s.spdmStep (s.hif.spdm == 2) 3 3 [] body

/-- GET_DIGESTS. -/
def execGetDigests (body : List Byte) (s : State) : Host.Outcome State Fault Refusal :=
  answer (Instr.wf (.getDigests body)) s fun s => s.spdmStep (decide (3 ≤ s.hif.spdm)) s.hif.spdm 4 (sha384 s.certChain) body

/-- GET_CERTIFICATE (R475). -/
def execGetCertificate (body : List Byte) (s : State) : Host.Outcome State Fault Refusal :=
  answer (Instr.wf (.getCertificate body)) s fun s => s.spdmStep (decide (3 ≤ s.hif.spdm)) s.hif.spdm 5 s.certChain body

/-- CHALLENGE. -/
def execChallenge (body : List Byte) (s : State) : Host.Outcome State Fault Refusal :=
  answer (Instr.wf (.challenge body)) s fun s => s.spdmSigned (decide (3 ≤ s.hif.spdm)) s.hif.spdm 6 (sha384 s.certChain) body

/-- GET_MEASUREMENTS (R477): measurements 1 to 7. -/
def execGetMeasurements (body : List Byte) (s : State) : Host.Outcome State Fault Refusal :=
  answer (Instr.wf (.getMeasurements body)) s fun s =>
    s.spdmSigned (decide (3 ≤ s.hif.spdm)) s.hif.spdm 7 ((upto 7).flatMap fun i => s.meas (i + 1)) body

/-- KEY_EXCHANGE: an ephemeral ECDHE share against that of the requester, and the keys of the session that it opens (R380). A share that is no point of the
curve is refused. -/
def State.keyExchange (s : State) (body : List Byte) : State :=
  let (d, s) := s.draw
  let share := ecPublic (drawScalar d)
  match (if 3 ≤ s.hif.spdm then ecdh (drawScalar d) (Config.spdmShare body) else none) with
  | none => s.spdmReply 0 [] body
  | some z =>
    let trans := body ++ share
    let key (k : Nat) : List Byte := Config.spdmKey z trans k
    let x : SpdmSess := ⟨trans, key 0, (key 1).take 32 ++ (key 3).take 12, (key 2).take 32 ++ (key 4).take 12, 0, 0⟩
    ({ s with hif := { s.hif with sess := some x } }).spdmSigned true 4 8 share body

/-- KEY_EXCHANGE. -/
def execKeyExchange (body : List Byte) (s : State) : Host.Outcome State Fault Refusal := answer (Instr.wf (.keyExchange body)) s fun s => s.keyExchange body

/-- Does the proof of a FINISH hold: HMAC-SHA-384 under the finish key over the digest of the transcript? -/
def SpdmSess.proves (x : SpdmSess) (body : List Byte) : Bool := Config.spdmProof body == hmac384 x.finKey (sha384 x.trans)

/-- FINISH: the handshake ends, and the session is secured, when the proof holds. -/
def execFinish (body : List Byte) (s : State) : Host.Outcome State Fault Refusal :=
  answer (Instr.wf (.finish body)) s fun s => s.spdmStep (s.hif.spdm == 4 && (s.hif.sess.map fun x => x.proves body).getD false) 5 9 [] body

/-- The nonce of record `n` from a nonce base. -/
def spdmNonce (base : List Byte) (n : Nat) : List Byte := List.zipWith (· ^^^ ·) base (leBytes 12 n)

/-- A request of a secured session opened with AES-256-GCM under the request key (R380); none when no session is secured or its tag fails. -/
def State.spdmOpen (s : State) (body : List Byte) : Option (State × List Byte) :=
  match s.hif.spdm, s.hif.sess with
  | 5, some x =>
    (gcmOpen (x.reqKey.take 32) (spdmNonce (x.reqKey.drop 32) x.reqSeq) body).map fun p =>
      ({ s with hif := { s.hif with sess := some { x with reqSeq := x.reqSeq + 1 } } }, p)
  | _, _ => none

/-- A response of a secured session, sealed under the response key. -/
def State.spdmSealed (s : State) (msg : Nat) (body : List Byte) : State :=
  let (n, s) := s.freeDraw
  let plain := Config.spdmBody msg [] body n
  match s.hif.sess with
  | none => s.emit (.spdm plain)
  | some x =>
    ({ s with hif := { s.hif with sess := some { x with rspSeq := x.rspSeq + 1 } } }).emit
      (.spdm (gcmSeal (x.rspKey.take 32) (spdmNonce (x.rspKey.drop 32) x.rspSeq) plain))

/-- END_SESSION: the session and its keys are gone. -/
def State.endSession (s : State) (body : List Byte) : State :=
  match s.spdmOpen body with
  | none => s.spdmReply 0 [] body
  | some (s, p) =>
    let s := s.spdmSealed 10 p
    { s with hif := { s.hif with spdm := 3, sess := none } }

/-- END_SESSION. -/
def execEndSession (body : List Byte) (s : State) : Host.Outcome State Fault Refusal := answer (Instr.wf (.endSession body)) s fun s => s.endSession body

/-- IDE_KM (R366, R379): keys of the link IDE stream, within a secured session and with feature bit 3 in force. -/
def State.ideKeyMessage (s : State) (body : List Byte) : State :=
  match (if s.feature 3 then s.spdmOpen body else none) with
  | none => s.spdmReply 0 [] body
  | some (s, p) => ({ s with hif := { s.hif with ideKeys := some p } }).spdmSealed 11 p

/-- IDE_KM. -/
def execIdeKm (body : List Byte) (s : State) : Host.Outcome State Fault Refusal := answer (Instr.wf (.ideKm body)) s fun s => s.ideKeyMessage body

end Sys2Proof.Machine
end

