-- ==== Sys2Proof/Machine/Tiers.lean ====
section
/-! DEFINITION. The felt and reel tiers: updates of the page table (PAT), scrubbing, retraining, row remapping, the broke log, channel states
and map-out (R239 to R276). -/

namespace Sys2Proof.Machine

/-! ### Page table (PAT) (R242 to R244) -/

/-- MEM_PATVAL_WRITE: the entry that MEM.PATIDX names takes a value (R243). -/
def State.patvalWrite (s : State) (v : Word) : State :=
  let x := s.fld Reg.memPatidx 19 0
  let a := s.patBase + 8 * x
  if s.bit Reg.memPatidx 63 then s
  else if s.capBytes < a + 8 then s.putBit Reg.memPatctl 1 true
  else
    let old := s.tableEntry x
    let users := (s.clusters.filter fun k => k.2.pat.contains x).map (·.1)
    let s := (s.agentStore { agent := 0 } none false a (leBytes 8 v.toNat)).1
    ({ s with mem := { s.mem with patBusy := some ⟨x, old, users⟩ } }).putBit Reg.memPatidx 63 true

/-- MEM_PATVAL_WRITE. -/
def execMemPatvalWrite (v : Word) (s : State) : Host.Outcome State Fault Refusal := answer (Instr.wf (.memPatvalWrite v)) s (State.written fun s => s.patvalWrite v)

/-- PAT_UPDATE_DONE: every cached copy of the entry has been replaced (R243). -/
def State.patDone (s : State) : State := ({ s with mem := { s.mem with patBusy := none } }).putBit Reg.memPatidx 63 false

/-- PAT_UPDATE_DONE. -/
def execPatUpdateDone (s : State) : Host.Outcome State Fault Refusal := answer (Instr.wf .patUpdateDone) s fun s => s.patDone

/-- MEM_PATCTL_EN: a write of MEM.PATCTL (R242, R275). -/
def State.patctlWrite (s : State) (v : Word) : State :=
  let s := if wfld v 1 1 = 1 then s.putBit Reg.memPatctl 1 false else s
  let was := s.patEn
  let s := if was then s else s.putFld Reg.memPatctl 47 21 (wfld v 47 21)
  if wfld v 0 0 = 0 then s.putBit Reg.memPatctl 0 false
  else if s.patBase + patBytes ≤ s.capBytes then
    let s := s.putBit Reg.memPatctl 0 true
    if was then s else { s with clusters := Sparse.mapAll clusterReset (fun _ k => { k with pat := [] }) s.clusters }
  else s.putBit Reg.memPatctl 1 true

/-- MEM_PATCTL_EN. -/
def execMemPatctlEn (v : Word) (s : State) : Host.Outcome State Fault Refusal := answer (Instr.wf (.memPatctlEn v)) s (State.written fun s => s.patctlWrite v)

/-! ### Bank queues (R256) -/

/-- BANK_GRANT: the oldest request of a bank queue has been served, and the entry goes to the next waiting cluster. -/
def State.bankGrant (s : State) (ch bank : Nat) : State :=
  let b := ch * 48 + bank
  match (s.bankAt b).queue with
  | [] => State.bankGrants b (s.bankAt b).waiting.length s
  | id :: _ => if s.bit (Reg.memChStat ch) 4 then s else s.bankServed (some (b, id))

/-- BANK_GRANT. -/
def execBankGrant (ch bank : Nat) (s : State) : Host.Outcome State Fault Refusal := answer (Instr.wf (.bankGrant ch bank)) s fun s => s.bankGrant ch bank

/-! ### Scrubbing (R247, R253) -/

/-- A unit read by a scrubber: a corrected unit is written back, an uncorrectable one stays as it stands. -/
def State.scrub (s : State) (a : Nat) (err : ErrKind) : State :=
  let s := s.plant (.tier a) err
  match (Loc.tier a).unit with
  | none => s
  | some u =>
    if s.isBad u then s.metBad 7 0x7FF u
    else if s.errAt u = 1 then ((s.metCorrected 0x7FF u).setErr u 0).rewritten u
    else s

/-- SCRUB_PASS: the scrubber of a reel controller reads one sector. -/
def execScrubPass (addr : Nat) (err : ErrKind) (s : State) : Host.Outcome State Fault Refusal :=
  answer (Instr.wf (.scrubPass addr err)) s fun s => if s.mem.isOpen ∧ addr < s.capBytes then s.scrub addr err else s

/-- FELT_SCRUB: the scrubber of a felt die reads one word. -/
def execFeltScrub (addr : Nat) (err : ErrKind) (s : State) : Host.Outcome State Fault Refusal :=
  answer (Instr.wf (.feltScrub addr err)) s fun s => if s.mem.isOpen ∧ isFelt addr then s.scrub addr err else s

/-! ### Broke log (R271 to R273) -/

/-- Is there room for `n` records of the broke log: the firmware runs, or the 64-record queue of the MRAM controller takes them (R461)? What would append more
waits (log row 190). -/
def State.logRoom (s : State) (n : Nat) : Bool := s.sys.fwRuns || decide (s.tender.qlog.length + n ≤ 64)

/-- A record appended; while the firmware does not run it waits in the queue of the MRAM controller (R461). -/
def State.broke (s : State) (w : Nat) : State :=
  if s.sys.fwRuns then s.appendLog (BitVec.ofNat 64 w)
  else { s with tender := { s.tender with qlog := s.tender.qlog ++ [BitVec.ofNat 64 w] } }

/-! ### Channel states (R262, R263) -/

def State.chState (s : State) (ch : Nat) : Nat := s.fld (Reg.memChStat ch) 2 0

/-- An event of class 0x07 (R456). -/
def State.chEvent (s : State) (ch old new cause kind : Nat) : State :=
  s.post { cls := 7, sev := 1, ukind := 4, uidx := ch, d0 := old + new * 2 ^ 4 + cause * 2 ^ 8 + kind * 2 ^ 12, d1 := s.fld Reg.memCapacity 31 0 }

/-- A transition of a channel. -/
def State.setChState (s : State) (ch new cause : Nat) : State :=
  let old := s.chState ch
  (s.putFld (Reg.memChStat ch) 2 0 new).chEvent ch old new cause 0

/-- A channel in service becomes SUSPECT, queued for surrender behind those that came before it (R262, R263, R272). -/
def State.toSuspect (s : State) (ch cause : Nat) : State :=
  if s.chState ch ≠ 0 then s
  else
    let s := (s.putFld (Reg.memChStat ch) 11 8 cause).setChState ch 1 cause
    let s := { s with mem := { s.mem with suspects := s.mem.suspects ++ [ch] } }
    s.broke (3 + ch * 2 ^ 8 + cause * 2 ^ 43)

/-- A channel sent to SUSPECT by an operator is withdrawn (R262). Answers whether the state allowed it. -/
def State.withdraw (s : State) (ch : Nat) : State × Bool :=
  if s.chState ch ≠ 1 ∨ s.fld (Reg.memChStat ch) 11 8 ≠ 5 then (s, false)
  else
    let s := if s.bit Reg.memSurreq 63 ∧ s.fld Reg.memSurreq 58 48 = ch then s.putBit Reg.memSurreq 63 false else s
    let s := s.setChState ch 0 5
    let s := { s with mem := { s.mem with suspects := s.mem.suspects.filter (· ≠ ch) } }
    (s.broke (7 + ch * 2 ^ 8), true)

/-! ### Retraining (R257, R258) -/

/-- RETRAINING_WINDOW_START: one channel of a stack at a time, and only one that serves units. -/
def State.windowStart (s : State) (ch : Nat) : State :=
  if 1 < s.chState ch ∨ ((upto 64).any fun i => s.bit (Reg.memChStat (ch / 64 * 64 + i)) 4) then s
  else (s.putBit (Reg.memChStat ch) 4 true).bump (Reg.memChRetrains ch) 1

/-- RETRAINING_WINDOW_START. -/
def execRetrainingWindowStart (ch : Nat) (s : State) : Host.Outcome State Fault Refusal :=
  answer (Instr.wf (.retrainingWindowStart ch)) s fun s => s.windowStart ch

/-- RETRAINING_WINDOW_END: a second failure in a row makes the channel SUSPECT with cause 4. -/
def State.windowEnd (s : State) (ch : Nat) (ok : Bool) : State :=
  if !(s.bit (Reg.memChStat ch) 4) then s
  else if !ok && s.mem.rtTry.contains ch && !(s.logRoom 1) then s.wait .busy
  else
    let s := s.putBit (Reg.memChStat ch) 4 false
    if ok then { s with mem := { s.mem with rtTry := s.mem.rtTry.filter (· ≠ ch) } }
    else if s.mem.rtTry.contains ch then ({ s with mem := { s.mem with rtTry := s.mem.rtTry.filter (· ≠ ch) } }).toSuspect ch 4
    else { s with mem := { s.mem with rtTry := s.mem.rtTry ++ [ch] } }

/-- RETRAINING_WINDOW_END. -/
def execRetrainingWindowEnd (ch : Nat) (ok : Bool) (s : State) : Host.Outcome State Fault Refusal :=
  answer (Instr.wf (.retrainingWindowEnd ch ok)) s fun s => s.windowEnd ch ok

/-! ### Row remapping (R259 to R261) -/

/-- A valid remap entry (R261). -/
def remapWord (count rank bank row spare : Nat) : Word :=
  wsetFld (wsetFld (wsetFld (wsetFld (wsetFld (wsetFld 0 63 63 1) 61 60 count) 23 22 rank) 21 18 bank) 17 4 row) 3 0 spare

/-- The key of a spare row. -/
def spareKey (ch rank bank spare : Nat) : Nat := ((ch * 3 + rank) * 16 + bank) * 16 + spare

/-- The lowest unused spare row of a bank (R260). -/
def State.freeSpare (s : State) (ch rank bank : Nat) : Option Nat :=
  (upto 16).find? fun p =>
    !(s.mem.retired.contains (spareKey ch rank bank p)) &&
      !((upto 256).any fun e => let w := s.remapAt ch e; wfld w 63 63 == 1 && wfld w 23 22 == rank && wfld w 21 18 == bank && wfld w 3 0 == p)

/-- A sector met by a copy of agent `agent`: corrected, or moved as read. Answers whether it was uncorrectable. -/
def State.copySector (s : State) (agent u : Nat) : State × Bool :=
  if s.isBad u then ((s.metBad agent 0x7FF u).asRead u, true)
  else if s.errAt u = 1 then ((s.metCorrected 0x7FF u).setErr u 0, false)
  else (s, false)

/-- The reel sectors with errors whose placement satisfies `p`. -/
def State.badSectors (s : State) (p : Nat → Bool) : List Nat := (s.mem.errs.map (·.1)).filter fun u => decide (u < feltBase) && p u

/-- A row copied onto spare row `p`, with entry `e` of the remap table; `old` tells whether the entry already served the row (R260, R261). -/
def State.moveRow (s : State) (ch rank bank row e p count : Nat) (old : Bool) : State :=
  let key := rowKey ⟨ch, rank, bank, row, 0⟩
  let inRow (u : Nat) : Bool := rowKey (s.place u) == key
  let prev := wfld (s.remapAt ch e) 3 0
  let s := (s.badSectors inRow).foldl (fun s u => (s.copySector 10 u).1) s
  let gone := if old then s.mem.retired ++ [spareKey ch rank bank prev] else s.mem.retired
  let table := Sparse.set zeroRemap s.mem.remap (ch * 256 + e) (remapWord (count + 1) rank bank row p)
  let s := { s with mem := { s.mem with
      ceSectors := s.mem.ceSectors.filter (fun x => !inRow x.u), rowFails := s.mem.rowFails.filter (· ≠ key), retired := gone, remap := table } }
  let s := s.broke (1 + ch * 2 ^ 8 + rank * 2 ^ 19 + bank * 2 ^ 21 + row * 2 ^ 25 + p * 2 ^ 39 + (count + 1) * 2 ^ 43)
  if old then s.broke (2 + ch * 2 ^ 8 + rank * 2 ^ 19 + bank * 2 ^ 21 + prev * 2 ^ 39)
  else s.putFld (Reg.memChStat ch) 47 39 (s.fld (Reg.memChStat ch) 47 39 + 1)

/-- The entry that a row takes in its channel's remap table: its own one, else the lowest free one (R261). -/
def State.entryForRow (s : State) (ch rank bank row : Nat) : Option Nat :=
  match s.remapFind ch rank bank row with
  | some e => some e
  | none => (upto 256).find? fun e => wfld (s.remapAt ch e) 63 63 == 0

/-- How often a row has been remapped. -/
def State.remapCount (s : State) (ch rank bank row : Nat) : Nat :=
  match s.remapFind ch rank bank row with
  | some e => wfld (s.remapAt ch e) 61 60
  | none => 0

/-- ROW_REMAP: a row that has failed is remapped onto a spare row, or its channel becomes SUSPECT. -/
def State.rowRemap (s : State) (ch rank bank row : Nat) : State :=
  let key := rowKey ⟨ch, rank, bank, row, 0⟩
  if !(s.mem.rowFails.contains key) ∨ s.chState ch = 3 then s
  else if !(s.logRoom (if (s.remapFind ch rank bank row).isSome then 2 else 1)) then s.wait .busy
  else
    let s := { s with mem := { s.mem with rowFails := s.mem.rowFails.filter (· ≠ key) } }
    if 2 ≤ s.remapCount ch rank bank row then s.toSuspect ch 1
    else
      match s.freeSpare ch rank bank with
      | none => s.toSuspect ch 2
      | some p =>
        match s.entryForRow ch rank bank row with
        | none => s.toSuspect ch 3
        | some e => s.moveRow ch rank bank row e p (s.remapCount ch rank bank row) (s.remapFind ch rank bank row).isSome

/-- ROW_REMAP. -/
def execRowRemap (ch rank bank row : Nat) (s : State) : Host.Outcome State Fault Refusal :=
  answer (Instr.wf (.rowRemap ch rank bank row)) s fun s => s.rowRemap ch rank bank row

/-! ### Surrender and map-out (R263 to R270) -/

/-- SURRENDER_REQUEST: the SUSPECT channel that came first asks for its range, unless a map-out is under way or 32 channels are out. -/
def State.surrender (s : State) : State :=
  if s.bit Reg.memSurreq 63 ∨ s.mem.mig.isSome then s
  else
    match s.mem.suspects with
    | [] => s
    | ch :: rest =>
      if 32 ≤ s.fld Reg.memCapacity 39 32 then
        let c := s.fld (Reg.memChStat ch) 11 8
        ({ s with mem := { s.mem with suspects := rest } }).chEvent ch 1 1 c 1
      else
        let s := s.put Reg.memSurreq (BitVec.ofNat 64 (2 ^ 63 + ch * 2 ^ 48 + 577 * 2 ^ 32 + (s.fld Reg.memCapacity 31 0 - 577)))
        ({ s with mem := { s.mem with late := false } }).hostEvent 0

/-- SURRENDER_REQUEST. -/
def execSurrenderRequest (s : State) : Host.Outcome State Fault Refusal := answer (Instr.wf .surrenderRequest) s fun s => s.surrender

/-- SURRENDER_DEADLINE (R264): it passes once for each request. -/
def State.surrenderLate (s : State) : State :=
  if !(s.bit Reg.memSurreq 63) ∨ s.mem.late then s
  else
    let ch := s.fld Reg.memSurreq 58 48
    let st := s.chState ch
    (({ s with mem := { s.mem with late := true } }).putBit Reg.memSurstat 1 true).chEvent ch st st (s.fld (Reg.memChStat ch) 11 8) 2

/-- SURRENDER_DEADLINE. -/
def execSurrenderDeadline (s : State) : Host.Outcome State Fault Refusal := answer (Instr.wf .surrenderDeadline) s fun s => s.surrenderLate

/-- Does the host-visible window reach at or above a reel address (R370)? -/
def State.windowAbove (s : State) (a : Nat) : Bool :=
  s.bit Reg.hifHdmctl 0 && decide (a < (s.fld Reg.hifHdmbase 40 28 + s.fld Reg.hifHdmsize 40 28) * 2 ^ 28)

/-- The check of R265 on the range from page `first` on. -/
def State.rangeFree (s : State) (first : Nat) : Bool :=
  (upto 577).all (fun i => wfld (s.pageEntry none (first + i) 0) 0 0 == 0 && !(s.inTable ((first + i) * 2 ^ 21))) && !(s.windowAbove (first * 2 ^ 21))

/-- MEM_SURACK: a write of 577 gives up the range when nothing of it is in use (R265, R370). -/
def State.surack (s : State) (v : Word) : State :=
  if v ≠ 577 ∨ !(s.bit Reg.memSurreq 63) then s
  else
    let first := s.fld Reg.memSurreq 31 0
    let ch := s.fld Reg.memSurreq 58 48
    if !(s.rangeFree first) then s.putBit Reg.memSurstat 0 true
    else
      let pages := s.fld Reg.memCapacity 31 0
      let mig : Migration := { ch := ch, oldDead := s.mem.dead, oldPages := pages }
      let s := { s with mem := { s.mem with mig := some mig, dead := s.mem.dead ++ [ch], suspects := s.mem.suspects.filter (· ≠ ch) } }
      let s := ((s.putFld Reg.memCapacity 31 0 (pages - 577)).putBit Reg.memSurreq 63 false).putBit Reg.memSurstat 2 true
      let s := s.setChState ch 2 (s.fld (Reg.memChStat ch) 11 8)
      if s.snap.prot.any fun p => decide (pages - 577 ≤ p) && decide (p < pages) then s.snapFail 8 else s

/-- MEM_SURACK. -/
def execMemSurack (v : Word) (s : State) : Host.Outcome State Fault Refusal := answer (Instr.wf (.memSurack v)) s (State.written fun s => s.surack v)

/-- Units at an interleave position below a capacity in pages. -/
def unitsAt (pages q : Nat) : Nat := let c := pages * 4096; c / 1280 + (if q < c % 1280 then 1 else 0)

/-- The units that a migration moves: those whose placement after it differs from that before it (R268). Only units that stand at mapped-out
positions can. -/
def movedUnits (old new : List Nat) (oldPages newPages : Nat) : Nat :=
  (((upto 1280).filter fun q => new.contains (imap q)).map fun q =>
    ((upto (unitsAt newPages q)).filter fun l =>
      let a := (l * 1280 + q) * 512
      placeWith old oldPages a ≠ placeWith new newPages a).length).foldl (· + ·) 0

/-- DEGRADED when 8 channels of one stack or 32 of the device are mapped out (R270). -/
def State.degrade (s : State) : State :=
  let out (ch : Nat) : Bool := s.chState ch == 3
  let stack := (upto 20).any fun k => decide (8 ≤ ((upto 64).filter fun i => out (64 * k + i)).length)
  if s.bit Reg.memCapacity 40 ∨ !(stack || decide (32 ≤ s.fld Reg.memCapacity 39 32)) then s
  else
    let s := (s.putBit Reg.memCapacity 40 true).hostEvent 1
    s.post { cls := 7, sev := 1, ukind := 0, uidx := 0, d0 := 3 * 2 ^ 12, d1 := s.fld Reg.memCapacity 31 0, d2 := s.fld Reg.memCapacity 39 32 }

/-- A channel counted as mapped out in MEM.DEADw and MEM.CAPACITY.MAPPED (R275). -/
def State.countOut (s : State) (ch : Nat) : State :=
  let s := s.putBit (Reg.memDead (ch / 64)) (ch % 64) true
  s.putFld Reg.memCapacity 39 32 (s.fld Reg.memCapacity 39 32 + 1)

/-- MIGRATION_DONE: the units of the draining channel have moved (R268 to R270). -/
def State.migrationDone (s : State) : State :=
  match s.mem.mig with
  | none => s
  | some m =>
    let pages := s.fld Reg.memCapacity 31 0
    let moves (u : Nat) : Bool := decide (u < pages * 2 ^ 21) && decide (placeWith m.oldDead m.oldPages u ≠ placeWith s.mem.dead pages u)
    if !(s.logRoom (((s.badSectors moves).filter s.isBad).length + 1)) then s.wait .busy
    else
    let s := (s.badSectors moves).foldl (fun s u =>
      let r := s.copySector 8 u
      if r.2 then r.1.broke (5 + m.ch * 2 ^ 8 + u / 512 * 2 ^ 32) else r.1) s
    let s := s.bump Reg.memMigbytes (512 * movedUnits m.oldDead s.mem.dead m.oldPages pages)
    let s := { s with mem := { s.mem with mig := none, ceSectors := s.mem.ceSectors.filter fun x => !(moves x.u) } }
    let s := (s.broke (4 + m.ch * 2 ^ 8)).putBit Reg.memSurstat 2 false
    ((s.setChState m.ch 3 (s.fld (Reg.memChStat m.ch) 11 8)).countOut m.ch).degrade

/-- MIGRATION_DONE. -/
def execMigrationDone (s : State) : Host.Outcome State Fault Refusal := answer (Instr.wf .migrationDone) s fun s => s.migrationDone

end Sys2Proof.Machine
end

