-- ==== Sys2Proof/Machine/Boot.lean ====
section
/-! DEFINITION. The boot ROM, the firmware slots and their activation (R463 to R473). -/

namespace Sys2Proof.Machine

/-! ### Firmware slots (R464, R465) -/

/-- The contents of a firmware slot: 0 A, 1 B. -/
def State.slot (s : State) (n : Nat) : Memory := if n = 0 then s.tender.slotA else s.tender.slotB

def State.setSlot (s : State) (n : Nat) (m : Memory) : State :=
  if n = 0 then { s with tender := { s.tender with slotA := m } } else { s with tender := { s.tender with slotB := m } }

def memNum (m : Memory) (a n : Nat) : Nat := ofLe (memBytes m a n)

/-- Bytes stored in a memory. -/
def memPut (m : Memory) : Nat → List Byte → Memory
  | _, [] => m
  | a, b :: bs => memPut (Sparse.set zeroByte m a b) (a + 1) bs

/-- Fields of a firmware header. -/
def fwVersion (m : Memory) : Nat := memNum m 8 4
def fwSvn (m : Memory) : Nat := memNum m 0xC 4
def fwSize (m : Memory) : Nat := memNum m 0x10 4
def fwLmax (m : Memory) : Nat := memNum m 0x14 1
def fwDigest (m : Memory) : List Byte := memBytes m 0x20 48

/-- A slot passes (R465). -/
def State.slotPasses (s : State) (n : Nat) : Bool :=
  let m := s.slot n
  decide (memNum m 0 4 = 0x46574C48) && decide (memNum m 4 4 = 1) && decide (fwSize m % 256 = 0) && decide (256 ≤ fwSize m) && decide (fwSize m ≤ 1572864) &&
    decide (memNum m 0x15 1 < 2) && decide (memNum m 0x16 10 = 0) && decide (memNum m 0xB0 80 = 0) &&
    decide (s.fld (Reg.secArb 0) 31 0 ≤ fwSvn m) && decide (sha384 (memBytes m 0x100 (fwSize m - 256)) = fwDigest m) &&
    ecdsaVerify (Config.fwKey (memNum m 0x15 1)) (memBytes m 0 0x50) (memBytes m 0x50 96)

/-- The slot that is not ACTIVE. -/
def State.otherSlot (s : State) : Nat := 1 - s.tender.boot.active

/-- SEC.BOOT shows the boot record; an activation is held for a READY slot alone (R496; log row 194). -/
def State.showBoot (s : State) : State :=
  let b := s.tender.boot
  (((s.putFld Reg.secBoot 0 0 b.active).putBit Reg.secBoot 1 (s.bit Reg.secBoot 1 && b.ready)).putBit Reg.secBoot 2 b.ready).putBit Reg.secBoot 3 b.trial

/-! ### Restarts (R472) -/

/-- A restart of the tender: its firmware stops and every session closes; the boot ROM runs next. -/
def State.restartTender (s : State) : State :=
  ({ s with sys := { s.sys with fwRuns := false }, tender := { s.tender with sessions := [], pending := [] } }).putFld Reg.secSess 7 0 0

/-- SEC.ARBk shows counter `k` (R467). -/
def State.showArb (s : State) (k : Nat) : State := s.putFld (Reg.secArb k) 31 0 (s.arbValue k)

/-- The pending advance of a counter applied to its four rows (R467, R468). A counter never decreases. -/
def State.applyAdvance (s : State) : State :=
  match s.tender.boot.advance with
  | none => s
  | some (k, v) =>
    let ok := if k = 0 then (s.slotPasses 0 && decide (v ≤ fwSvn (s.slot 0))) || (s.slotPasses 1 && decide (v ≤ fwSvn (s.slot 1))) else true
    let s := s.setBoot { s.tender.boot with advance := none }
    if ok then (s.setArb k (max v (s.arbValue k))).showArb k else s

/-- Records that waited for the firmware go into the broke log (R461). -/
def State.flushLog (s : State) : State :=
  let q := s.tender.qlog
  q.foldl State.appendLog { s with tender := { s.tender with qlog := [] } }

/-- A firmware slot fails its check; the record follows once the tender runs (R465). -/
def State.badSlot (s : State) : State := { s with tender := { s.tender with badSlots := s.tender.badSlots + 1 } }

/-- The records of the slots that have failed. -/
def State.postBadSlots (s : State) : State :=
  (upto s.tender.badSlots).foldl (fun s _ => s.secEvent 1 0) { s with tender := { s.tender with badSlots := 0 } }

/-- The port serves again: STORE requests that came during the restart get status 4, and nothing is stored (R495). Their sessions have closed with their keys,
so the TAG is zero (log row 193). -/
def State.answerStores (s : State) : State :=
  s.tender.storeAsks.foldl (fun s x => s.emit (.datagram (datagram none 1 x.1 x.2 0x23 4 []))) { s with tender := { s.tender with storeAsks := [] } }

/-- The firmware of a slot starts. -/
def State.startFirmware (s : State) (n : Nat) : State :=
  let m := s.slot n
  let s := (s.setMeas 1 Config.romDigest).setMeas 2 (fwDigest m)
  let s := ((s.putFld Reg.secBoot 63 32 (fwVersion m)).putFld Reg.secBoot 23 16 (fwLmax m)).putBit Reg.secBoot 4 false
  let s := (s.put Reg.devFwver (BitVec.ofNat 64 (Config.romVersion.toNat * 2 ^ 32 + fwVersion m))).putFld Reg.fabLevel 3 0 (fwLmax m)
  (({ s with sys := { s.sys with fwRuns := true } }).flushLog).postBadSlots.answerStores

/-- BOOT_ROM_RUN (R463 to R468): the check of the MRAM, the counter advance, the ACTIVE slot, else the other one, else recovery. The manual does not say
what follows when the layout header or the boot record fails its check; here the device stays in recovery (log row 150). -/
def State.bootRom (s : State) : State :=
  if s.sys.fwRuns ∨ s.sys.held ∨ !s.sys.clockRuns then s
  else if !s.tender.boot.ok then s.putBit Reg.secBoot 4 true
  else
    let s := s.applyAdvance
    let a := s.tender.boot.active
    if s.slotPasses a then (s.startFirmware a).showBoot
    else if s.slotPasses (1 - a) then
      let s := s.setBoot { s.tender.boot with active := 1 - a, ready := false, trial := false }
      (s.badSlot.startFirmware (1 - a)).showBoot
    else s.badSlot.badSlot.putBit Reg.secBoot 4 true

/-- BOOT_ROM_RUN. -/
def execBootRomRun (s : State) : Host.Outcome State Fault Refusal := answer (Instr.wf .bootRomRun) s fun s => s.bootRom

/-- CONFIRM (R473): firmware on trial is confirmed. -/
def State.confirm (s : State) : State :=
  if s.sys.fwRuns ∧ s.tender.boot.trial then
    ((s.setBoot { s.tender.boot with trial := false }).showBoot).secEvent 6 0
  else s

/-- CONFIRM. -/
def execConfirm (s : State) : Host.Outcome State Fault Refusal := answer (Instr.wf .confirm) s fun s => s.confirm

/-- TRIAL_TIMEOUT (R473): firmware on trial has not been confirmed, and the tender restarts in the former slot, which SEC.BOOT shows when its firmware starts
(R472). -/
def State.trialTimeout (s : State) : State :=
  if s.sys.fwRuns ∧ s.tender.boot.trial then
    let s := s.setBoot { s.tender.boot with active := s.otherSlot, trial := false, ready := false }
    (s.secEvent 6 1).restartTender
  else s

/-- TRIAL_TIMEOUT. -/
def execTrialTimeout (s : State) : Host.Outcome State Fault Refusal := answer (Instr.wf .trialTimeout) s fun s => s.trialTimeout

/-! ### Activation (R471) -/

/-- Does a job run (R429, R471)? -/
def State.jobRuns (s : State) : Bool := let j := s.fld Reg.fabJobstat 2 0; j == 2 || j == 3 || j == 4

/-- The READY slot becomes ACTIVE on trial, and the tender restarts; SEC.BOOT follows when the new firmware starts (R472). -/
def State.activate (s : State) : State :=
  let b := s.tender.boot
  (s.setBoot { b with active := 1 - b.active, ready := false, trial := true }).restartTender

/-- The status with which the state of the device forbids an activation, 0 when it allows one: no READY slot or a phase other than 7 and 8; a STORE or an ERASE
that is busy, a pending surrender, a channel that is DRAINING, a restore. -/
def State.activationBar (s : State) : Nat :=
  if (s.phase ≠ 7 ∧ s.phase ≠ 8) ∨ !s.tender.boot.ready then 5
  else if s.bit Reg.cfgStore 2 ∨ s.bit Reg.memSurreq 63 ∨ s.bit Reg.memSurstat 2 ∨ s.snap.restore.isSome then 4
  else 0

/-- PENDING_ACTIVATION (R471): the held activation is carried out once no job runs and nothing else forbids it. -/
def State.pendingActivation (s : State) : State :=
  if s.sys.fwRuns ∧ s.bit Reg.secBoot 1 ∧ s.activationBar = 0 ∧ !s.jobRuns then s.activate else s

/-- PENDING_ACTIVATION. -/
def execPendingActivation (s : State) : Host.Outcome State Fault Refusal := answer (Instr.wf .pendingActivation) s fun s => s.pendingActivation

end Sys2Proof.Machine
end

