-- ==== Sys2Proof/Machine/Calender.lean ====
section
/-! DEFINITION. The calender unit, its step queue and recipes, and NUM: norm contexts, clip factor and sizing exponents (R217 to R235). -/

namespace Sys2Proof.Machine

/-- The calender of a cluster changed. -/
def State.modCal (s : State) (c : Nat) (f : Cal → Cal) : State := s.modClu c fun k => { k with cal := f k.cal }

def State.calAt (s : State) (c : Nat) : Cal := (s.cluAt c).cal
def State.calPhase (s : State) (c : Nat) : Nat := s.fld (Reg.calStatus c) 2 0
def State.setPhase (s : State) (c v : Nat) : State := s.putFld (Reg.calStatus c) 2 0 v
def State.calBase (s : State) (c : Nat) : Nat := s.fld (Reg.calQbase c) 47 0
/-- The count of entries handed over (R218). -/
def State.calTail (s : State) (c : Nat) : Nat := s.num none (s.calBase c) 8

/-! ### Entries (R220) -/

/-- The first word and the address of an entry slot, read as numbers when they are needed. -/
structure CalEntry where
  words : List Nat
  deriving DecidableEq, Repr

def CalEntry.w (e : CalEntry) (i : Nat) : Nat := e.words.getD i 0
def CalEntry.op (e : CalEntry) : Nat := fld (e.w 0) 3 0
def CalEntry.recipe (e : CalEntry) : Nat := fld (e.w 0) 7 4
def CalEntry.group (e : CalEntry) : Nat := fld (e.w 0) 13 8
def CalEntry.gfmt (e : CalEntry) : Nat := fld (e.w 0) 14 14
def CalEntry.mfmt (e : CalEntry) : Nat := fld (e.w 0) 16 15
def CalEntry.vfmt (e : CalEntry) : Nat := fld (e.w 0) 18 17
def CalEntry.wfmt (e : CalEntry) : Nat := fld (e.w 0) 20 19
def CalEntry.wm (e : CalEntry) : Bool := fld (e.w 0) 21 21 = 1
def CalEntry.count (e : CalEntry) : Nat := fld (e.w 0) 63 32
/-- Address word `i` of an entry, 1 MASTER to 5 WORK. -/
def CalEntry.addr (e : CalEntry) (i : Nat) : Nat := fld (e.w i) 47 0
def CalEntry.tid (e : CalEntry) : Nat := fld (e.w 8) 63 32
def CalEntry.usesVar (e : CalEntry) : Bool := e.recipe == 1 || e.recipe == 2
/-- An FP32 operand in half `hi` of word `i`. -/
def CalEntry.f32 (e : CalEntry) (i : Nat) (hi : Bool) : Num := fp32.unpack (if hi then fld (e.w i) 63 32 else fld (e.w i) 31 0)

/-- The address of the slot of entry `i` (R218). -/
def State.calSlot (s : State) (c i : Nat) : Nat := s.calBase c + 0x800 + 0x80 * (i % 16)

/-- The entry with index DONE. -/
def State.calEntry (s : State) (c : Nat) : CalEntry :=
  ⟨(upto 16).map fun k => s.num none (s.calSlot c (s.calAt c).done + 8 * k) 8⟩

/-- Bytes of a state element: W48, FP32 or BF16 (R220). -/
def stBytes (m : Nat) : Nat := if m = 0 then 6 else if m = 1 then 4 else 2
def stFmt (m : Nat) : Fmt := if m = 0 then w48 else if m = 1 then fp32 else bf16
def workFmt (m : Nat) : Fmt := if m = 0 then bf16 else if m = 1 then fp16 else e4m3

/-- A range of an entry: first byte, bytes of an element, read, written. -/
structure CalRange where
  base : Nat
  sz : Nat
  rd : Bool
  wr : Bool
  deriving DecidableEq, Repr

/-- The ranges that an entry uses (R220, R229), in the order of its address words. -/
def CalEntry.ranges (e : CalEntry) : List CalRange :=
  let gs := if e.gfmt = 0 then 4 else 2
  if e.op = 1 then [⟨e.addr 2, gs, true, false⟩]
  else
    [⟨e.addr 1, 6, true, true⟩, ⟨e.addr 2, gs, true, false⟩, ⟨e.addr 3, stBytes e.mfmt, true, true⟩] ++
      (if e.usesVar then [⟨e.addr 4, stBytes e.vfmt, true, true⟩] else []) ++
      (if e.wfmt = 3 then [] else [⟨e.addr 5, if e.wfmt = 2 then 1 else 2, false, true⟩])

/-- Error 2 of R223: reserved codes and reserved fields that are not zero (R220), the reserved fields in every entry and bits [63:48] in the address words that the
entry reads (log row 179). -/
def CalEntry.reserved (e : CalEntry) : Bool :=
  let bad := e.op = 0 || decide (4 < e.op) || fld (e.w 0) 31 22 ≠ 0 || e.w 11 ≠ 0 || e.w 12 ≠ 0 || e.w 13 ≠ 0 || e.w 14 ≠ 0 || e.w 15 ≠ 0
  let high (i : Nat) : Bool := fld (e.w i) 63 48 ≠ 0
  if e.op = 1 then bad || high 2
  else if e.op = 3 then
    bad || decide (3 < e.recipe) || e.mfmt = 3 || (e.usesVar && e.vfmt = 3) || high 1 || high 2 || high 3 || (e.usesVar && high 4) ||
      (e.wfmt ≠ 3 && high 5)
  else bad

/-- Error 3 of R223: an entry out of the order of R221. -/
def State.calOutOfOrder (s : State) (c op : Nat) : Bool :=
  if op = 1 ∨ op = 2 then s.calPhase c ≠ 0 else s.calPhase c = 0

/-- Does a range lie wholly in the felt tier, the mapped reel tier or one of the global LDM windows (R222)? -/
def State.calInside (s : State) (a n : Nat) : Bool :=
  decide (a + n ≤ s.capBytes) || (decide (feltBase ≤ a) && decide (a + n ≤ feltBase + 2 ^ 32)) ||
    (decide (physBase ≤ a) && decide (a + n ≤ physBase + 1300 * 2 ^ 18)) ||
    (decide (logBase ≤ a) && decide (a + n ≤ logBase + 1200 * 2 ^ 18))

/-- Do two ranges of an entry of `n` elements share a byte? -/
def CalRange.meets (x y : CalRange) (n : Nat) : Bool := decide (x.base < y.base + y.sz * n) && decide (y.base < x.base + x.sz * n)

/-- Error 4 of R223: a check of R222 fails. -/
def State.calBadRange (s : State) (c : Nat) (e : CalEntry) : Bool :=
  let rs := e.ranges
  let n := e.count
  let one (r : CalRange) : Bool :=
    r.base % (if e.wm then 4096 else 64) ≠ 0 || !(s.calInside r.base (r.sz * n)) ||
      (r.rd && (s.checkRange (some c) none .read r.base (r.sz * n)).isSome) ||
      (r.wr && (s.checkRange (some c) none .write r.base (r.sz * n)).isSome)
  let clash (i : Nat) : Bool :=
    let r := rs.getD i ⟨0, 0, false, false⟩
    r.wr && (upto rs.length).any fun j => i ≠ j && r.meets (rs.getD j ⟨0, 0, false, false⟩) n
  (e.wm && n % 4096 ≠ 0) || rs.any one || (upto rs.length).any clash

/-- The page checks of an entry's ranges (R222, R244). -/
def State.calPages (s : State) (c : Nat) (e : CalEntry) : State :=
  e.ranges.foldl (fun s r => s.touchRange c none r.base (r.sz * e.count)) s

/-- May the calender of a cluster take its next entry: a queue, an entry handed over, no error, no entry waiting to complete, and the
branch group not stopped or reloaded without a queue reset (R219, R223, R233)? A stop still asked for holds nothing. -/
def State.calReady (s : State) (c : Nat) : Bool :=
  let k := s.calAt c
  s.calBase c ≠ 0 && s.calPhase c ≠ 5 && s.calPhase c ≠ 3 && !k.ran && !k.hold && !(s.clusterStopped c) && s.calTail c ≠ k.done

/-- The calender of a cluster as the agent of an access. -/
def calWho (c : Nat) : Who := { agent := 3, clu := c }

/-- What the reads of TAIL and of the entry at DONE meet, and the error of the checks that need no data (R218, R223). Of several errors the first in the order of
the checks is reported (log row 180). -/
def State.calCheck (s : State) (c : Nat) : State × Nat :=
  let d := (s.calAt c).done
  let t := s.calTail c
  let q := s.readMeets (calWho c) none (s.calBase c) 8
  let s := q.1
  if q.2 then (s, 5)
  else if t < d ∨ d + 16 < t then (s, 1)
  else
    let r := s.readMeets (calWho c) none (s.calSlot c d) 128
    if r.2 then (r.1, 5)
    else
      let e := s.calEntry c
      (r.1, if e.reserved then 2 else if s.calOutOfOrder c e.op then 3 else 0)

/-- The current entry has run, with an error code or 0. -/
def State.calRan (s : State) (c err : Nat) : State := s.modCal c fun k => { k with ran := true, err := err }

/-! ### Data (R223, R229) -/

/-- The read of the block of 64 bytes that begins in element `e` of a range; answers whether data is uncorrectable. -/
def State.calMeet (s : State) (c : Nat) (r : CalRange) (n e : Nat) : State × Bool :=
  let a := r.base + r.sz * e
  let k := cdiv a 64 * 64
  if k < a + r.sz then s.readMeets (calWho c) none k (min 64 (r.base + r.sz * n - k)) else (s, false)

/-- Element `e` of a range. -/
def State.calElem (s : State) (r : CalRange) (e : Nat) : Nat := s.num none (r.base + r.sz * e) r.sz

/-- A write of the calender: coherent with the caches and counted by the calipers (R211, R217). Answers whether it failed. -/
def State.calStore (s : State) (c a : Nat) (bs : List Byte) : State × Bool :=
  let r := s.agentStore (calWho c) none false a bs
  (r.1.count a bs, !r.2.isEmpty)

/-- The watermarks of the blocks of a chunk of 4,096 elements of a range, each checked as it is read (R222, R442); answers error 6, error 5 where a
shadow word cannot be corrected, or 0. -/
def State.calWmCheck (s : State) (c : Nat) (r : CalRange) (e : Nat) : State × Nat :=
  (upto r.sz).foldl (fun (acc : State × Nat) b =>
    if acc.2 ≠ 0 then acc
    else
      let a := r.base + r.sz * e + 4096 * b
      let q := acc.1.wmCheck (calWho c) acc.1.wins none a
      match q.2 with
      | .pass => (q.1, 0)
      | .bad => (q.1, 5)
      | .miss stored comp => (q.1.wmMiss 0x7FF 6 c a stored comp 4, 6)) (s, 0)

/-- New watermarks for the blocks of a chunk that the entry has written; answers error 5 where the write of a shadow word fails (R520), or 0. -/
def State.calWmWrite (s : State) (c : Nat) (r : CalRange) (e : Nat) : State × Nat :=
  (upto r.sz).foldl (fun (acc : State × Nat) b =>
    let a := r.base + r.sz * e + 4096 * b
    let q := acc.1.wmStore (calWho c) acc.1.wins a (watermark (acc.1.bytes none a 4096))
    (q.1, if q.2.isSome then 5 else acc.2)) (s, 0)

/-- Elements `e` to `e + n − 1`, until one answers an error. -/
def calLoop (f : State → Nat → State × Nat) : Nat → Nat → State → State × Nat
  | 0, _, s => (s, 0)
  | n + 1, e, s =>
    let r := f s e
    if r.2 = 0 then calLoop f n (e + 1) r.1 else r

/-- The reads of an element with their checks: error 6 at the first element of a chunk of a watermarked entry, else error 5. -/
def State.calReads (s : State) (c : Nat) (en : CalEntry) (e : Nat) : State × Nat :=
  let rs := en.ranges.filter (·.rd)
  let m := if en.wm && e % 4096 = 0 then rs.foldl (fun (acc : State × Nat) r => if acc.2 ≠ 0 then acc else acc.1.calWmCheck c r e) (s, 0)
           else (s, 0)
  if m.2 ≠ 0 then m
  else
    let b := rs.foldl (fun (acc : State × Bool) r => let x := acc.1.calMeet c r en.count e; (x.1, acc.2 || x.2)) (m.1, false)
    (b.1, if b.2 then 5 else 0)

/-! ### NORM (R224) -/

/-- floor(x² × 2^160) of an element of magnitude below 2^64, none for another one. -/
def normTerm (x : Num) : Option Nat :=
  match x with
  | .fin _ m e =>
    if m = 0 then some 0
    else if 64 ≤ numLog m e then none
    else
      let sh := 2 * e + 160
      some (if 0 ≤ sh then (m * m) <<< sh.toNat else (m * m) >>> (-sh).toNat)
  | _ => none

/-- One term added to the norm accumulator, saturating. -/
def Cal.addTerm (k : Cal) (t : Option Nat) : Cal :=
  match t with
  | none => { k with nf := true }
  | some t => if 2 ^ 320 ≤ k.norm + t then { k with norm := 2 ^ 320 - 1, ovf := true } else { k with norm := k.norm + t }

/-- One gradient element of a NORM entry. -/
def State.normElem (c : Nat) (en : CalEntry) (s : State) (e : Nat) : State × Nat :=
  let r := s.calReads c en e
  if r.2 ≠ 0 then r
  else
    let g := r.1.calElem (en.ranges.getD 0 ⟨0, 0, true, false⟩) e
    (r.1.modCal c fun k => k.addTerm (normTerm ((if en.gfmt = 0 then fp32 else bf16).unpack g)), 0)

/-- NORM: the entry at DONE runs when it is one. -/
def State.norm (s : State) (c : Nat) : State :=
  if !(s.calReady c) ∨ (s.calEntry c).op ≠ 1 then s
  else
    let r := s.calCheck c
    let en := s.calEntry c
    if r.2 ≠ 0 then r.1.calRan c r.2
    else if en.count = 0 then r.1.calRan c 0
    else if s.calBadRange c en then (r.1.calPages c en).calRan c 4
    else
      let x := calLoop (State.normElem c en) en.count 0 (r.1.calPages c en)
      x.1.calRan c x.2

/-- NORM. -/
def execNorm (c : Nat) (s : State) : Host.Outcome State Fault Refusal := answer (Instr.wf (.norm c)) s fun s => s.norm c

/-! ### CONTRIB (R221, R225) -/

/-- CONTRIB: the accumulator is contributed, and the unit waits for the clip factor. -/
def State.contrib (s : State) (c : Nat) : State :=
  if !(s.calReady c) ∨ (s.calEntry c).op ≠ 2 then s
  else
    let r := s.calCheck c
    if r.2 ≠ 0 then r.1.calRan c r.2
    else ((r.1.modCal c fun k => { k with contributed := true, clip := none }).setPhase c 1).calRan c 0

/-- CONTRIB. -/
def execContrib (c : Nat) (s : State) : Host.Outcome State Fault Refusal := answer (Instr.wf (.contrib c)) s fun s => s.contrib c

/-! ### UPDATE (R228, R229) -/

/-- A value with the flags raised on the way to it. -/
abbrev NF := Num × FFlags

def nfMul (x y : NF) : NF := let r := Num.mul x.1 y.1; (r.1, x.2 ||| y.2 ||| r.2)
def nfAdd (x y : NF) : NF := let r := Num.add .near x.1 y.1; (r.1, x.2 ||| y.2 ||| r.2)
def nfSub (x y : NF) : NF := nfAdd x (y.1.negate, y.2)
def nfDiv (x y : NF) : NF := let r := Num.div x.1 y.1; (r.1, x.2 ||| y.2 ||| r.2)
def nfSqrt (x : NF) : NF := let r := Num.sqrt x.1; (r.1, x.2 ||| r.2)

/-- rw(y) of R228: the value, and the flags raised so far by the recipe. -/
def rw48 (acc : FFlags) (y : NF) : Num × FFlags :=
  let r := roundRes w48 .near false y
  (w48.unpack r.1, acc ||| r.2)

/-- The operands of an entry and of one element. -/
structure CalOps where
  recipe : Nat
  c : Num
  lam : Num
  wd : Num
  b1 : Num
  b2 : Num
  eps : Num
  c1 : Num
  c2 : Num
  w : Num
  g : Num
  m : Num
  v : Num
  deriving DecidableEq, Repr

/-- The value 1. -/
def numOne : Num := .fin false 1 0

/-- The steps of a recipe (R228): new w, m and v, and the flags. -/
def CalOps.run (o : CalOps) : Num × Num × Num × FFlags :=
  let x (n : Num) : NF := (n, 0)
  let nb1 := nfSub (x numOne) (x o.b1)
  let nb2 := nfSub (x numOne) (x o.b2)
  let (g, f) := rw48 0 (nfMul (x o.c) (x o.g))
  match o.recipe with
  | 0 =>
    let (g, f) := rw48 f (nfAdd (x g) (nfMul (x o.wd) (x o.w)))
    let (m, f) := rw48 f (nfAdd (nfMul (x o.b1) (x o.m)) (x g))
    let (w, f) := rw48 f (nfSub (x o.w) (nfMul (x o.lam) (x m)))
    (w, m, o.v, f)
  | 3 =>
    let (u, f) := rw48 f (nfAdd (nfMul (x o.b1) (x o.m)) (nfMul nb1 (x g)))
    let sg : Num := if u.isNan then .nan false else if u.isZero then .fin false 0 0 else .fin u.negative 1 0
    let (w, f) := rw48 f (nfSub (x o.w) (nfMul (x o.lam) (nfAdd (x sg) (nfMul (x o.wd) (x o.w)))))
    let (m, f) := rw48 f (nfAdd (nfMul (x o.b2) (x o.m)) (nfMul nb2 (x g)))
    (w, m, o.v, f)
  | r =>
    let (g, f) := if r = 1 then rw48 f (nfAdd (x g) (nfMul (x o.wd) (x o.w))) else (g, f)
    let (m, f) := rw48 f (nfAdd (nfMul (x o.b1) (x o.m)) (nfMul nb1 (x g)))
    let (v, f) := rw48 f (nfAdd (nfMul (x o.b2) (x o.v)) (nfMul (nfMul nb2 (x g)) (x g)))
    let (p, f) := rw48 f (nfMul (x o.c1) (x m))
    let (q, f) := rw48 f (nfMul (x o.c2) (x v))
    let (q, f) := rw48 f (nfSqrt (x q))
    let (q, f) := rw48 f (nfAdd (x q) (x o.eps))
    let (p, f) := rw48 f (nfDiv (x p) (x q))
    let d := if r = 1 then x p else nfAdd (x p) (nfMul (x o.wd) (x o.w))
    let (w, f) := rw48 f (nfSub (x o.w) (nfMul (x o.lam) d))
    (w, m, v, f)

/-- A state value in its stored format, with the flags of the rounding; BF16 rounds stochastically (R206, R229). -/
def calState (fmt : Nat) (x : Num) (r : Nat) : Nat × FFlags :=
  match fmt with
  | 0 => w48.round .near false x
  | 1 => fp32.round .near false x
  | _ => bf16.roundSr x r

/-- A value times a power of two. -/
def Num.scale (x : Num) (z : Int) : Num :=
  match x with
  | .fin n m e => .fin n m (e + z)
  | y => y

/-- The writes of an element, in the order of the address words; answers whether one failed. -/
def calWrites (c : Nat) : List (Nat × List Byte) → State → State × Bool
  | [], s => (s, false)
  | (a, bs) :: ws, s =>
    let r := s.calStore c a bs
    if r.2 then r else calWrites c ws r.1

/-- One parameter of an UPDATE entry: its reads, its recipe and its store stage. -/
def State.updateElem (c : Nat) (en : CalEntry) (clip : Nat) (s : State) (e : Nat) : State × Nat :=
  let r := s.calReads c en e
  if r.2 ≠ 0 then r
  else
    let s := r.1
    let at' (i sz : Nat) : Nat := en.addr i + sz * e
    let rd (i sz : Nat) : Nat := s.num none (at' i sz) sz
    let ms := stBytes en.mfmt
    let vs := stBytes en.vfmt
    let z := sext 8 (s.fld (Reg.numGctrl en.group) 39 32)
    let o : CalOps :=
      { recipe := en.recipe, c := fp64.unpack clip, lam := (en.f32 6 false).scale z, wd := en.f32 6 true, b1 := en.f32 7 false, b2 := en.f32 7 true
        eps := en.f32 8 false, c1 := en.f32 9 false, c2 := en.f32 9 true, w := w48.unpack (rd 1 6)
        g := if en.gfmt = 0 then fp32.unpack (rd 2 4) else bf16.unpack (rd 2 2), m := (stFmt en.mfmt).unpack (rd 3 ms)
        v := if en.usesVar then (stFmt en.vfmt).unpack (rd 4 vs) else .fin false 0 0 }
    let (w, m, v, f) := o.run
    let seed := (s.cur Reg.numSeed).toNat
    let step := (s.cur (Reg.calStep c)).toNat
    let tid := en.tid
    let idx := (en.w 10 + e) % 2 ^ 64
    let (mb, fm) := calState en.mfmt m (srBits seed step tid idx)
    let (vb, fv) := calState en.vfmt v (srBits seed step ((tid + 1) % 2 ^ 32) idx)
    let (kb, fk) := (workFmt en.wfmt).round .near false w
    let wsz := if en.wfmt = 2 then 1 else 2
    let fl := f ||| fm ||| (if en.usesVar then fv else 0) ||| (if en.wfmt = 3 then 0 else fk)
    let s := s.put (Reg.calFlags c) (s.raw (Reg.calFlags c) ||| BitVec.ofNat 64 fl.toNat)
    let x := calWrites c
      ((if en.wfmt = 3 then [] else [(at' 5 wsz, leBytes wsz kb)]) ++ [(at' 1 6, leBytes 6 (w48.round .near false w).1), (at' 3 ms, leBytes ms mb)] ++
        (if en.usesVar then [(at' 4 vs, leBytes vs vb)] else [])) s
    if x.2 then (x.1, 5)
    else
      let s := x.1.bump (Reg.calParams c) 1
      if en.wm && e % 4096 = 4095 then
        (en.ranges.filter (·.wr)).foldl (fun (acc : State × Nat) r => if acc.2 ≠ 0 then acc else acc.1.calWmWrite c r (e - 4095)) (s, 0)
      else (s, 0)

/-- UPDATE: the entry at DONE runs when it is one; it waits for the clip factor, and a skipped step touches nothing (R221, R227). -/
def State.update (s : State) (c : Nat) : State :=
  if !(s.calReady c) ∨ (s.calEntry c).op ≠ 3 then s
  else
    let r := s.calCheck c
    let en := s.calEntry c
    if r.2 ≠ 0 then r.1.calRan c r.2
    else if en.count = 0 then r.1.calRan c 0
    else
      match (s.calAt c).clip with
      | none => s
      | some (clip, skip) =>
        if skip then r.1.calRan c 0
        else if s.calBadRange c en then (r.1.calPages c en).calRan c 4
        else
          let x := calLoop (State.updateElem c en clip) en.count 0 (r.1.calPages c en)
          x.1.calRan c x.2

/-- UPDATE. -/
def execUpdate (c : Nat) (s : State) : Host.Outcome State Fault Refusal := answer (Instr.wf (.update c)) s fun s => s.update c

/-! ### END and the completion of entries (R219, R223, R230) -/

/-- END: CAL.STEP advances and the end of the step is reported to NUM. The entry waits for the clip factor of its step. -/
def State.endEntry (s : State) (c : Nat) : State :=
  if !(s.calReady c) ∨ (s.calEntry c).op ≠ 4 then s
  else
    let r := s.calCheck c
    if r.2 ≠ 0 then r.1.calRan c r.2
    else if (s.calAt c).clip.isNone then s
    else ((r.1.bump (Reg.calStep c) 1).modCal c fun k => { k with ended := true }).setPhase c 3

/-- END. -/
def execEndEntry (c : Nat) (s : State) : Host.Outcome State Fault Refusal := answer (Instr.wf (.endEntry c)) s fun s => s.endEntry c

/-- The queue stops on an error: ERR in memory, CAL.STATUS, PHASE 5 (R218, R223). -/
def State.calStop (s : State) (c code : Nat) : State :=
  let d := (s.calAt c).done
  let s := (s.calStore c (s.calBase c + 0x10) (leBytes 8 (code + d % 2 ^ 48 * 2 ^ 16))).1
  ((s.putFld (Reg.calStatus c) 15 8 code).setPhase c 5).modCal c fun k => { k with ran := false, err := code }

/-- DONE advances past the entry (R219). A write of DONE that fails stops the queue with code 5 (R520). -/
def State.calDone (s : State) (c : Nat) : State :=
  let d := (s.calAt c).done + 1
  let r := s.calStore c (s.calBase c + 8) (leBytes 8 d)
  if r.2 then r.1.calStop c 5 else r.1.modCal c fun k => { k with ran := false, err := 0, done := d }

/-- CALENDER_ENTRY_DONE: an entry that has run completes or stops the queue; one that runs no command of its own does so too (a wrong or empty
entry). -/
def State.calEntryDone (s : State) (c : Nat) : State :=
  let k := s.calAt c
  if k.ran then (if k.err = 0 then s.calDone c else s.calStop c k.err)
  else if !(s.calReady c) then s
  else
    let r := s.calCheck c
    let e := s.calEntry c
    if r.2 ≠ 0 then r.1.calStop c r.2
    else if e.count = 0 ∧ (e.op = 1 ∨ e.op = 3) then r.1.calDone c
    else s

/-- CALENDER_ENTRY_DONE. -/
def execCalenderEntryDone (c : Nat) (s : State) : Host.Outcome State Fault Refusal :=
  answer (Instr.wf (.calenderEntryDone c)) s fun s => s.calEntryDone c

/-- A queue reset (R234): DONE and ERR written 0, PHASE 0, the accumulator cleared, TAIL counted anew. -/
def State.calReset (s : State) (c : Nat) : State :=
  let b := s.calBase c
  let s := if b = 0 then s else ((s.calStore c (b + 8) (leBytes 8 0)).1.calStore c (b + 0x10) (leBytes 8 0)).1
  ((s.putFld (Reg.calStatus c) 15 8 0).setPhase c 0).modCal c fun _ => Cal.reset

/-- CAL_CTRL_QRESET. -/
def execCalCtrlQreset (c : Nat) (s : State) : Host.Outcome State Fault Refusal := answer (Instr.wf (.calCtrlQreset c)) s (State.written fun s => s.calReset c)

/-- A write of CAL.QBASE or CAL.STEP (R233, R234). -/
def State.calQwrite (s : State) (c : Nat) (step : Bool) (v : Word) : State :=
  let idle := (s.calBase c = 0 || s.calTail c = (s.calAt c).done) && s.calPhase c = 0
  if !idle then s.putBit (Reg.calStatus c) 16 true
  else if step then s.put (Reg.calStep c) v
  else if wfld v 47 0 % 4096 = 0 then s.putFld (Reg.calQbase c) 47 0 (wfld v 47 0)
  else s

/-- CAL_QBASE_STEP_WRITE. -/
def execCalQbaseStepWrite (c : Nat) (step : Bool) (v : Word) (s : State) : Host.Outcome State Fault Refusal :=
  answer (Instr.wf (.calQbaseStepWrite c step v)) s (State.written fun s => s.calQwrite c step v)

/-! ### NUM (R225 to R232) -/

/-- The clusters of context `b` (R225). -/
def State.clustersOf (s : State) (b : Nat) : List Nat := (upto 100).filter fun c => (s.fab.groups.getD b 0).testBit c

/-- The groups of sizing that a context serves. -/
def State.groupsOf (s : State) (b : Nat) : List Nat := (upto 64).filter fun g => s.fld (Reg.numGctrl g) 4 1 = b

/-- The record as nine cells (R225). -/
def cellsOf (words : List Nat) : List (BitVec 2048) := (upto 9).map fun i => BitVec.ofNat 2048 (ofLe (((words.drop (32 * i)).take 32).flatMap (leBytes 8)))

/-- Word `i` of a record. -/
def recWord (cells : List (BitVec 2048)) (i : Nat) : Nat := fld (cells.getD (i / 32) 0).toNat (64 * (i % 32) + 63) (64 * (i % 32))

/-- The five words of a 320-bit number. -/
def normWords (g : Nat) : List Nat := (upto 5).map fun i => (g >>> (64 * i)) % 2 ^ 64

/-- The sum of a record. -/
def recG (cells : List (BitVec 2048)) : Nat := (upto 5).foldl (fun a i => a + recWord cells i <<< (64 * i)) 0

/-- The combination of two records (R225). -/
def combine (x y : List (BitVec 2048)) : List (BitVec 2048) :=
  let g := recG x + recG y
  let spill := decide (2 ^ 320 ≤ g)
  let flags := recWord x 5 ||| recWord y 5
  cellsOf (normWords (min g (2 ^ 320 - 1)) ++ [if spill then flags ||| 2 else flags] ++ List.replicate 26 0 ++
    (upto 256).map fun i => min (recWord x (32 + i) + recWord y (32 + i)) (2 ^ 64 - 1))

/-- The census datagrams of a device record (R491). -/
def State.census (s : State) (b : Nat) (cells : List (BitVec 2048)) : State :=
  let bytes := cells.flatMap fun c => leBytes 256 c.toNat
  let step := match s.clustersOf b with
    | c :: _ => (s.cur (Reg.calStep c)).toNat
    | [] => 0
  let part (i : Nat) : List Byte := [BitVec.ofNat 8 b, BitVec.ofNat 8 i] ++ List.replicate 6 0 ++ leBytes 8 step ++ (bytes.drop (1152 * i)).take 1152
  if !s.sys.fwRuns then s
  else
    let r := s.tender.sessions.foldl (fun (acc : State × List Sess) x =>
      if x.census then
        let (s1, x1) := acc.1.sendSeries x 3 (part 0)
        let (s2, x2) := s1.sendSeries x1 3 (part 1)
        (s2, acc.2 ++ [x2])
      else (acc.1, acc.2 ++ [x])) (s, [])
    { r.1 with tender := { r.1.tender with sessions := r.2 } }

/-- The context that a register of the NUM block belongs to: its own one, or that of its group. -/
def State.numOwner (s : State) (off : Nat) : Nat :=
  if off < Reg.numGctrl 0 then (off - Reg.numCtx 0) / 0x80 else s.fld (Reg.numGctrl ((off - Reg.numGctrl 0) / 0x10)) 4 1

/-- The fields of a register that a write of the bits `sel` replaces (R13). -/
def State.writeFields (s : State) (off sel : Nat) (v : Word) : State :=
  s.put off (BitVec.ofNat 64 (writeWord (fun _ _ => true) (fieldsAt off) sel v.toNat (s.raw off).toNat))

/-- A write of a context or group register: between CONTRIB and END of its context it is held, with the bits that it addresses, until the next record is
formed (R233). A later write is made at once, and the held one takes effect after it (log row 181). -/
def State.numWrite (s : State) (off sel : Nat) (v : Word) : State :=
  let b := s.numOwner off
  if (s.clustersOf b).any (fun c => (s.calAt c).contributed) then
    { s with numHeld := s.numHeld ++ [⟨b, off, sel, v⟩] }
  else s.writeFields off sel v

/-- The held writes of a context take effect. -/
def State.numApply (s : State) (b : Nat) : State :=
  let s' := { s with numHeld := s.numHeld.filter fun h => h.ctx != b }
  (s.numHeld.filter fun h => h.ctx == b).foldl (fun s h => s.writeFields h.off h.sel h.v) s'

/-- DEVICE_RECORD: the record of a context in use once every cluster of it has run its CONTRIB (R225). Without MILL it is the total. -/
def State.deviceRecord (s : State) (b : Nat) : State :=
  let cs := s.clustersOf b
  let ready (c : Nat) : Bool := let k := s.calAt c; k.contributed && k.clip.isNone
  if cs.isEmpty ∨ !(s.bit (Reg.numCtxCtrl b) 0) ∨ !(cs.all ready) ∨ s.numRecs.any (fun r => r.ctx == b) then s
  else
    let s := s.numApply b
    let sum := cs.foldl (fun n c => n + (s.calAt c).norm) 0
    let nf := cs.any fun c => (s.calAt c).nf
    let ovf := (cs.any fun c => (s.calAt c).ovf) || decide (2 ^ 320 ≤ sum)
    let s := cs.foldl (fun s c => s.modCal c fun k => { k with norm := 0, nf := false, ovf := false }) s
    let r := (upto 64).foldl (fun (acc : State × List Nat) g =>
      if acc.1.bit (Reg.numGctrl g) 0 ∧ acc.1.fld (Reg.numGctrl g) 4 1 = b then
        let j := acc.1.fld (Reg.numGctrl g) 15 8
        (acc.1.clearSlot j, acc.2 ++ [0, 1, 3, 4].map fun i => (acc.1.raw (Reg.numSlotCnt j i)).toNat)
      else (acc.1, acc.2 ++ [0, 0, 0, 0])) (s, [])
    let cells := cellsOf (normWords (min sum (2 ^ 320 - 1)) ++ [b2n nf + 2 * b2n ovf] ++ List.replicate 26 0 ++ r.2)
    let s := { r.1 with numRecs := r.1.numRecs ++ [({ ctx := b, total := !(r.1.bit (Reg.numCtxCtrl b) 1), cells := cells } : NumRec)] }
    s.census b cells

/-- DEVICE_RECORD. -/
def execDeviceRecord (b : Nat) (s : State) : Host.Outcome State Fault Refusal := answer (Instr.wf (.deviceRecord b)) s fun s => s.deviceRecord b

/-- The clip factor: CLIPMAX / √(G × 2^−160), rounded to FP64 (R227). The quotient is squared before the root is taken, so that one rounding
remains. -/
def clipFactor (clipmax g : Nat) : Nat :=
  let one := (fp64.round .near false numOne).1
  match fp64.unpack clipmax with
  | .nan _ => fp64.nanBits
  | .inf neg => if neg then fp64.infBits true else one
  | .fin neg m e =>
    if m = 0 then one
    else if g = 0 then (if neg then fp64.infBits true else one)
    else if !neg ∧ Num.cmp (.fin false g (-160)) (.fin false (m * m) (2 * e)) ≠ .gt then one
    else
      let d := divMag (m * m) (2 * e) g (-160)
      let r := sqrtMag d.1 d.2
      (fp64.round .near false (.fin neg r.1 r.2)).1

/-- The sizing rule of one group on its counts (R231): ZNEXT and CALM. -/
def sizing (zcur calm elems zeros sat nonfin satlim zerolim raise' : Nat) (zmin zmax : Int) : Int × Nat :=
  let z := sext 8 zcur
  if elems = 0 then (z, calm)
  else if 0 < nonfin then (max (z - 2) zmin, 0)
  else if elems * satlim < sat * 65536 then (max (z - 1) zmin, 0)
  else if elems * zerolim < zeros * 65536 then (z, 0)
  else if raise' ≤ calm + 1 then (min (z + 1) zmax, 0)
  else (z, calm + 1)

/-- R231 applied to a group with the total of its context. -/
def State.sizeGroup (s : State) (cells : List (BitVec 2048)) (g : Nat) : State :=
  let n (i : Nat) : Nat := recWord cells (32 + 4 * g + i)
  let l := s.cur (Reg.numGlim g)
  let r := sizing (s.fld (Reg.numGctrl g) 39 32) (s.fld (Reg.numGctrl g) 63 48) (n 0) (n 1) (n 2) (n 3) (wfld l 15 0) (wfld l 31 16) (wfld l 47 32)
    (sext 8 (wfld l 55 48)) (sext 8 (wfld l 63 56))
  (s.putFld (Reg.numGctrl g) 47 40 (toBits 8 r.1)).putFld (Reg.numGctrl g) 63 48 (min r.2 65535)

/-- MILL_TOTAL_RETURN: NUM computes norm, clip factor and sizing exponents from a total that has arrived, and sends the clip factor to every
calender unit of the context (R227, R231). -/
def State.totalReturn (s : State) (b : Nat) : State :=
  match s.numRecs.find? (fun r => r.ctx == b && r.total) with
  | none => s
  | some r =>
    let g := recG r.cells
    let skip := decide (recWord r.cells 5 % 4 ≠ 0)
    let s := { s with numRecs := s.numRecs.filter fun x => x.ctx ≠ b }
    let s := (upto 5).foldl (fun s i => s.put (Reg.numCtxG b i) (BitVec.ofNat 64 (recWord r.cells i))) s
    let s := s.putBit (Reg.numCtxCtrl b) 2 skip
    let c := if skip then 0 else clipFactor (s.cur (Reg.numCtxClipmax b)).toNat g
    let s := s.put (Reg.numCtxClip b) (BitVec.ofNat 64 c)
    let s :=
      if skip then s.countUp (Reg.numCtxSkips b)
      else
        let n := if g = 0 then (0, (0 : Int)) else sqrtMag g (-160)
        s.put (Reg.numCtxNorm b) (BitVec.ofNat 64 (fp64.round .near false (.fin false n.1 n.2)).1)
    let s := (s.groupsOf b).foldl (fun s g => s.sizeGroup r.cells g) s
    (s.clustersOf b).foldl (fun s k =>
      let s := if s.calPhase k = 1 then s.setPhase k 2 else s
      if (s.calAt k).contributed then s.modCal k fun x => { x with clip := some (c, skip) } else s) s

/-- MILL_TOTAL_RETURN. -/
def execMillTotalReturn (b : Nat) (s : State) : Host.Outcome State Fault Refusal := answer (Instr.wf (.millTotalReturn b)) s fun s => s.totalReturn b

/-- STEP_END: when every cluster of a context has reported END, ZCUR takes ZNEXT and the END entries complete (R230). -/
def State.stepEnd (s : State) (b : Nat) : State :=
  let cs := s.clustersOf b
  if cs.isEmpty ∨ !(cs.all fun c => (s.calAt c).ended) then s
  else
    let s := (s.groupsOf b).foldl (fun s g => s.putFld (Reg.numGctrl g) 39 32 (s.fld (Reg.numGctrl g) 47 40)) s
    cs.foldl (fun s c =>
      let s := (s.modCal c fun k => { k with ended := false, contributed := false, clip := none }).setPhase c 0
      let s := { s with snap := { s.snap with ended := addNew s.snap.ended c } }
      s.calDone c) s

/-- STEP_END. -/
def execStepEnd (b : Nat) (s : State) : Host.Outcome State Fault Refusal := answer (Instr.wf (.stepEnd b)) s fun s => s.stepEnd b

/-! ### Writes of NUM registers (R210, R233, R235) -/

/-- A write of NUM.SLOTj.CTRL: the clear comes after the other fields. -/
def State.slotWrite (s : State) (j : Nat) (v : Word) : State :=
  let off := Reg.numSlotCtrl j
  let s := s.put off (BitVec.ofNat 64 (writeWord (fun _ _ => true) (fieldsAt off) (2 ^ 64 - 1) v.toNat (s.raw off).toNat))
  if wfld v 63 63 = 1 then s.clearSlot j else s

/-- NUM_SLOT_CTRL_CLR. -/
def execNumSlotCtrlClr (j : Nat) (v : Word) (s : State) : Host.Outcome State Fault Refusal :=
  answer (Instr.wf (.numSlotCtrlClr j v)) s (State.written fun s => s.slotWrite j v)

/-- NUM_CONTEXT_OR_GROUP_WRITE. -/
def execNumContextOrGroupWrite (off : Nat) (v : Word) (s : State) : Host.Outcome State Fault Refusal :=
  answer (Instr.wf (.numContextOrGroupWrite off v)) s (State.written fun s => s.numWrite off (2 ^ 64 - 1) v)

end Sys2Proof.Machine
end

