-- ==== Sys2Proof/Machine/Collective.lean ====
section
/-! DEFINITION. Collective sequencers: the start of an occurrence, the combination of its chunks in fixed order, and its end (R338 to R343, R444). -/

namespace Sys2Proof.Machine

/-! ### Elements (R339, R340) -/

/-- The floating format of a collective format code; integers have none. -/
def collFmt (f : Nat) : Option Fmt :=
  match f with
  | 0 => some fp32
  | 1 => some bf16
  | 2 => some fp64
  | 5 => some fp16
  | _ => none

/-- The NV of a signalling NaN (R196). -/
def snanNV (x : Num) : FFlags := if x.isSnan then fNV else 0

/-- A contribution's element in the format of the partial sums: an exact conversion, with the NV of a signalling NaN (R196). -/
def toAcc (fmt accf x : Nat) : Nat × FFlags :=
  if fmt = accf then (x, 0)
  else
    match collFmt fmt, collFmt accf with
    | some f, some a => let r := a.round .near false (f.unpack x); (r.1, r.2 ||| snanNV (f.unpack x))
    | _, _ => (x, 0)

/-- One addition of partial sums, with its flags. -/
def accAdd (accf x y : Nat) : Nat × FFlags :=
  match collFmt accf with
  | some a => roundRes a .near false (Num.add .near (a.unpack x) (a.unpack y))
  | none => ((x + y) % 2 ^ (8 * collBytes accf), 0)

/-- The result of a partial sum, rounded also where the formats agree, with its flags. -/
def fromAcc (fmt accf x : Nat) : Nat × FFlags :=
  match collFmt fmt, collFmt accf with
  | some f, some a => let r := f.round .near false (a.unpack x); (r.1, r.2 ||| snanNV (a.unpack x))
  | _, _ => (x, 0)

/-- The elements of size `sz` that bytes hold. -/
def elemsOf (sz : Nat) (bs : List Byte) : List Nat := (upto (bs.length / sz)).map fun i => ofLe ((bs.drop (i * sz)).take sz)

/-- Two rows of partial sums added element by element. -/
def accRows (accf : Nat) : List Nat → List Nat → List Nat × FFlags
  | x :: xs, y :: ys =>
    let r := accAdd accf x y
    let t := accRows accf xs ys
    (r.1 :: t.1, r.2 ||| t.2)
  | _, _ => ([], 0)

/-- Rows combined in their order (R340). -/
def accAll (accf : Nat) : List (List Nat) → List Nat × FFlags
  | [] => ([], 0)
  | r :: rs => rs.foldl (fun (a : List Nat × FFlags) y => let x := accRows accf a.1 y; (x.1, a.2 ||| x.2)) (r, 0)

/-! ### Occurrences and chunks -/

/-- Chunks of a segment: 4 KiB of a contribution each. -/
def Seg.chunks (g : Seg) : Nat := cdiv g.slen 4096

/-- Does a segment run up the tree here, and does its result come down to here (R340)? -/
def Coll.goesUp (k : Coll) (g : Seg) : Bool := if k.typ = 2 ∨ k.typ = 3 then g.root else true
def Coll.comesDown (k : Coll) (g : Seg) : Bool := if k.typ = 1 then false else !g.root

/-- Every (segment, chunk) of a collective for which `p` holds of the segment. -/
def Coll.parts (k : Coll) (p : Seg → Bool) : List (Nat × Nat) :=
  (upto k.segs.length).flatMap fun i =>
    match k.segs[i]? with
    | some g => if p g then (upto g.chunks).map fun j => (i, j) else []
    | none => []

/-- Cell `idx` of a slot of a collective taken for its sequencer, when it has come: the payload, from the scratch region for a partial, and whether the read
met uncorrectable data. A later partial for the same place then goes there. -/
def State.takeCell (s : State) (k : Coll) (slot idx : Nat) : Option (State × BitVec 2048 × Bool) :=
  let key : PartCell := ⟨k.id, slot, idx, 0⟩
  match s.fab.parts.findIdx? key.meets with
  | none => none
  | some i =>
    let rest := dropAt s.fab.parts i
    let s' : State := { s with fab := { s.fab with parts := rest } }
    if slot = 0xFF then some (s', (s.fab.parts[i]?.map (·.data)).getD 0, false)
    else
      let r := s'.readMeets seqWho none (k.scratchAt slot idx) 256
      let d := BitVec.ofNat 2048 (r.1.num none (k.scratchAt slot idx) 256)
      some ((match rest.find? key.meets with
        | some c => r.1.putPart k c
        | none => r.1), d, r.2)

/-- Cells `idx` to `idx + m − 1` of a slot. -/
def State.takeCells (k : Coll) (slot : Nat) : Nat → Nat → State → Option (State × List (BitVec 2048) × Bool)
  | 0, _, s => some (s, [], false)
  | m + 1, idx, s =>
    match s.takeCell k slot idx with
    | none => none
    | some (s, d, bad) =>
      match State.takeCells k slot m (idx + 1) s with
      | none => none
      | some (s, ds, bad') => some (s, d :: ds, bad || bad')

/-- The cells of every child slot in order. -/
def State.takeChildren (k : Coll) (idx m : Nat) : List Nat → State → Option (State × List (List (BitVec 2048)) × Bool)
  | [], s => some (s, [], false)
  | slot :: slots, s =>
    match State.takeCells k slot m idx s with
    | none => none
    | some (s, ds, bad) =>
      match State.takeChildren k idx m slots s with
      | none => none
      | some (s, rest, bad') => some (s, ds :: rest, bad || bad')

/-- Bytes of cells. -/
def cellBytes (cs : List (BitVec 2048)) : List Byte := cs.flatMap fun c => leBytes 256 c.toNat

/-- Bytes cut into cells, the last one filled with zeros. -/
def cutCells (bs : List Byte) : List (BitVec 2048) := (upto (cdiv bs.length 256)).map fun i => BitVec.ofNat 2048 (ofLe ((bs.drop (256 * i)).take 256))

/-- The contributions of an occurrence in LOCAL order. -/
def State.inputs (s : State) (k : Coll) (occ : Nat) : List CollIn :=
  k.loc.filterMap fun l => s.fab.ins.find? fun i => i.coll == k.id && i.occ == occ && i.lcid == l

/-- A run of a collective replaced. -/
def State.modRun (s : State) (coll occ : Nat) (f : CollRun → CollRun) : State :=
  { s with fab := { s.fab with runs := s.fab.runs.map fun r => if r.coll = coll ∧ r.occ = occ then f r else r } }

/-- The occurrence stops on this device (R444). -/
def State.stopRun (s : State) (k : Coll) (occ : Nat) : State := (s.modRun k.id occ fun r => { r with stopped := true }).strCause k.stream 5

/-- The read of `n` bytes of a contribution with the checks of R341; false when a check fails or data is uncorrectable. -/
def State.seqRead (s : State) (k : Coll) (i : CollIn) (o n : Nat) : State × Bool :=
  let a := i.src + o
  let r := s.readMeets seqWho none a n
  if r.2 then (r.1, false)
  else if k.wm then
    let q := r.1.wmCheck seqWho i.wins none a
    match q.2 with
    | .pass => (q.1, true)
    | .bad => (q.1, false)
    | .miss stored comp => (q.1.wmMiss 0x7FF 8 k.seqr a stored comp (6 + k.stream * 2 ^ 16), false)
  else (r.1, true)

/-- A result written at the destinations of the contributors that take one; false when a write fails (R341, R520). A destination whose page is no longer
mapped gets nothing, and the stream cause 9 (R327). -/
def State.seqWrite (s : State) (k : Coll) (ins : List CollIn) (o : Nat) (bs : List Byte) : State × Bool :=
  ins.foldl (fun (acc : State × Bool) i =>
    let a := i.dst + o
    if i.dst = 0 then acc
    else if (acc.1.checkPage none none .write a).isSome then
      ((State.discardOwn (s.fld Reg.fabMyid 11 0) (cdiv bs.length 256) acc.1).strCause k.stream 9, acc.2)
    else
      let r := acc.1.agentStore seqWho none i.strm a bs
      let s := r.1.count a bs
      let m := if k.wm then s.wmStore seqWho i.wins a (watermark bs) else (s, none)
      (m.1, acc.2 && r.2.isEmpty && m.2.isNone)) (s, true)

/-- Cells of a chunk queued for a device of the tree. -/
def State.seqSend (s : State) (k : Coll) (dev slot idx : Nat) (cells : List (BitVec 2048)) (last : Bool) : State :=
  match s.portOf dev with
  | none => State.discardOwn dev cells.length s
  | some p =>
    s.enqueue { stream := k.stream, port := p, typ := 2, dst := dev, flow := k.id, idx := 0, cells := cells.length, src := 0, data := cells
                wm := false, wins := [], aux := slot * 2 ^ 24 + idx, xid := none, last := last }

/-- A result sent down to every child. -/
def State.seqDown (s : State) (k : Coll) (g : Seg) (idx : Nat) (cells : List (BitVec 2048)) (last : Bool) : State :=
  g.child.foldl (fun s d => s.seqSend k d 0xFF idx cells last) s

/-- Flags of combinations (R340). -/
def State.seqFlags (s : State) (st : Nat) (f : FFlags) : State := s.put (Reg.fabStrFlags st) (s.raw (Reg.fabStrFlags st) ||| BitVec.ofNat 64 f.toNat)

/-- Has a contributor what makes it count: the result due to it written, or, where none is due, its contribution read (R340, R341)? -/
def CollRun.isDue (r : CollRun) (k : Coll) (i : CollIn) : Bool :=
  let upDone := (k.parts k.goesUp).all r.up.contains
  if i.dst = 0 ∨ (k.typ = 1 ∧ k.segs.all fun g => !g.root) then upDone
  else if k.typ = 1 then (k.parts (·.root)).all r.up.contains
  else upDone && (k.parts k.comesDown).all r.down.contains

/-- Contributors that have what is due to them count, and an occurrence that is complete ends (R341, R345). A contribution stays until then: segments
that are still to go up read it (R340, R343). -/
def State.settleRun (s : State) (k : Coll) (occ : Nat) : State :=
  match s.fab.runs.find? (fun r => r.coll == k.id && r.occ == occ) with
  | none => s
  | some r =>
    let mine (i : CollIn) : Bool := i.coll == k.id && i.occ == occ
    let ready (i : CollIn) : Bool := mine i && !i.counted && r.isDue k i
    let counted := s.fab.ins.filter ready
    let s := { s with fab := { s.fab with ins := s.fab.ins.map fun i => if ready i then { i with counted := true } else i } }
    let s := counted.foldl (fun s i => s.xferDone i.xid) s
    if (k.parts k.goesUp).all r.up.contains && (k.parts k.comesDown).all r.down.contains then
      let m := if k.ep = 0 then s.fab.marked else addNew s.fab.marked k.id
      ({ s with fab := { s.fab with runs := s.fab.runs.filter (fun x => !(x.coll == k.id && x.occ == occ)), ins := s.fab.ins.filter (fun i => !(mine i))
                                    marked := m } }).strDone k.stream
    else s

/-- COLLECTIVE_START: occurrence `n` starts when every local contributor has queued it; a record collective when NUM has its record (R339, R342). -/
def State.collStart (s : State) (n : Nat) : State :=
  match s.collOf n with
  | none => s
  | some k =>
    let occ := Sparse.get zeroNat s.fab.doneOcc n
    let ready :=
      if k.typ = 4 then s.numRecs.any (fun r => r.ctx == k.ctx && !r.total) && !(s.fab.runs.any fun r => r.coll == n)
      else k.loc.all fun l => s.fab.ins.any fun i => i.coll == n && i.occ == occ && i.lcid == l
    if s.fld Reg.fabJobstat 2 0 ≠ 3 ∨ !ready then s
    else
      let s := (s.inputs k occ).foldl (fun s i => s.modXfer i.xid fun x => { x with begun := true }) s
      let run : CollRun := { coll := n, occ := occ, up := [], down := [], stopped := false, record := [] }
      let s := { s with fab := { s.fab with runs := s.fab.runs ++ [run], doneOcc := Sparse.set zeroNat s.fab.doneOcc n (occ + 1) } }
      s.settleRun k occ

/-- COLLECTIVE_START. -/
def execCollectiveStart (n : Nat) (s : State) : Host.Outcome State Fault Refusal := answer (Instr.wf (.collectiveStart n)) s fun s => s.collStart n

/-! ### One chunk (R340) -/

/-- Where a chunk lies: offset and bytes in a contribution, and whether it is the last of its segment. -/
structure CollChunk where
  seg : Nat
  j : Nat
  off : Nat
  len : Nat
  last : Bool
  deriving DecidableEq, Repr

def Seg.chunk (g : Seg) (i j : Nat) : CollChunk := ⟨i, j, g.off + 4096 * j, min 4096 (g.slen - 4096 * j), decide (g.chunks ≤ j + 1)⟩

def State.markUp (s : State) (k : Coll) (occ : Nat) (c : CollChunk) : State := s.modRun k.id occ fun r => { r with up := r.up ++ [(c.seg, c.j)] }
def State.markDown (s : State) (k : Coll) (occ : Nat) (c : CollChunk) : State := s.modRun k.id occ fun r => { r with down := r.down ++ [(c.seg, c.j)] }

/-- A result chunk at a device: written for its contributors, sent to its children. -/
def State.result (s : State) (k : Coll) (g : Seg) (occ : Nat) (c : CollChunk) (bs : List Byte) : State × Bool :=
  let r := s.seqWrite k (s.inputs k occ) c.off bs
  if !r.2 then (r.1.stopRun k occ, false)
  else (if k.typ = 1 then r.1 else r.1.seqDown k g (c.off / 256) (cutCells bs) c.last, true)

/-- The local rows of a chunk: the contributions in LOCAL order, or LOCAL[0] alone where nothing is combined. -/
def State.readInputs (s : State) (k : Coll) (c : CollChunk) : List CollIn → State × Option (List (List Byte))
  | [] => (s, some [])
  | i :: is =>
    let r := s.seqRead k i c.off c.len
    if !r.2 then (r.1, none)
    else
      let t := r.1.readInputs k c is
      (t.1, t.2.map fun rows => r.1.bytes none (i.src + c.off) c.len :: rows)

/-- A chunk combined upward, when every partial of its children is there. -/
def State.chunkUp (s : State) (k : Coll) (g : Seg) (occ : Nat) (c : CollChunk) : State :=
  let plain := k.typ = 2 ∨ k.typ = 3
  let ratio := collBytes k.accf / collBytes k.fmt
  let idx := c.off * ratio / 256
  match (if plain then some (s, [], false) else State.takeChildren k idx (cdiv (c.len * ratio) 256) (upto g.child.length) s) with
  | none => s
  | some (s0, kids, bad) =>
    let ins := s.inputs k occ
    let r := s0.readInputs k c (if plain then ins.take 1 else ins)
    match (if bad then none else r.2) with
    | none => r.1.stopRun k occ
    | some rows =>
      if plain then
        let x := r.1.result k g occ c (rows.headD [])
        if x.2 then (x.1.markUp k occ c).settleRun k occ else x.1
      else
        let own := rows.map fun b => (elemsOf (collBytes k.fmt) b).map (toAcc k.fmt k.accf)
        let acc := accAll k.accf ((own.map fun row => row.map (·.1)) ++ kids.map fun cs => elemsOf (collBytes k.accf) ((cellBytes cs).take (c.len * ratio)))
        let s := r.1.seqFlags k.stream (acc.2 ||| own.flatten.foldl (fun f x => f ||| x.2) 0)
        if g.root then
          let out := acc.1.map (fromAcc k.fmt k.accf)
          let s := s.seqFlags k.stream (out.foldl (fun f x => f ||| x.2) 0)
          let x := s.result k g occ c (out.flatMap fun x => leBytes (collBytes k.fmt) x.1)
          if x.2 then (x.1.markUp k occ c).settleRun k occ else x.1
        else
          let bs := acc.1.flatMap (leBytes (collBytes k.accf))
          ((s.seqSend k g.parent g.rank idx (cutCells bs) c.last).markUp k occ c).settleRun k occ

/-- A chunk's result arrived from the parent: written, and sent on down. -/
def State.chunkDown (s : State) (k : Coll) (g : Seg) (occ : Nat) (c : CollChunk) : State :=
  match State.takeCells k 0xFF (cdiv c.len 256) (c.off / 256) s with
  | none => s
  | some (s, cs, _) =>
    let x := s.result k g occ c ((cellBytes cs).take c.len)
    if x.2 then (x.1.markDown k occ c).settleRun k occ else x.1

/-- The total of a context stands in NUM (R342). -/
def State.setTotal (s : State) (b : Nat) (cells : List (BitVec 2048)) : State :=
  { s with numRecs := s.numRecs.map fun r => if r.ctx = b then { r with total := true, cells := cells } else r }

/-- The record of a device combined with those of its children under R225. -/
def State.recordUp (s : State) (k : Coll) (g : Seg) (occ : Nat) (c : CollChunk) : State :=
  match s.numRecs.find? (fun r => r.ctx == k.ctx), State.takeChildren k 0 9 (upto g.child.length) s with
  | some _, some (s, _, true) => s.stopRun k occ
  | some own, some (s, kids, false) =>
    let sum := kids.foldl combine own.cells
    if g.root then (((s.setTotal k.ctx sum).seqDown k g 0 sum true).markUp k occ c).settleRun k occ
    else ((s.seqSend k g.parent g.rank 0 sum true).markUp k occ c).settleRun k occ
  | _, _ => s

/-- The total arrived from the parent: handed to NUM and sent on down. -/
def State.recordDown (s : State) (k : Coll) (g : Seg) (occ : Nat) (c : CollChunk) : State :=
  match State.takeCells k 0xFF 9 0 s with
  | none => s
  | some (s, cs, _) =>
    (((s.setTotal k.ctx cs).seqDown k g 0 cs true).markDown k occ c).settleRun k occ

/-- COLLECTIVE_CHUNK: chunk `chunk` of segment `seg` of the oldest occurrence of collective `n` that still needs it. -/
def State.collChunk (s : State) (n seg chunk : Nat) : State :=
  match s.collOf n with
  | none => s
  | some k =>
    match k.segs[seg]? with
    | none => s
    | some g =>
      if g.chunks ≤ chunk then s
      else
        let c := g.chunk seg chunk
        let wantUp (r : CollRun) : Bool := k.goesUp g && !(r.up.contains (seg, chunk))
        let wantDown (r : CollRun) : Bool := k.comesDown g && !(r.down.contains (seg, chunk))
        match s.fab.runs.find? (fun r => r.coll == n && (wantUp r || wantDown r)) with
        | none => s
        | some r =>
          if r.stopped then s
          else if wantUp r then (if k.typ = 4 then s.recordUp k g r.occ c else s.chunkUp k g r.occ c)
          else if k.typ = 4 then s.recordDown k g r.occ c else s.chunkDown k g r.occ c

/-- COLLECTIVE_CHUNK. -/
def execCollectiveChunk (n seg chunk : Nat) (s : State) : Host.Outcome State Fault Refusal :=
  answer (Instr.wf (.collectiveChunk n seg chunk)) s fun s => s.collChunk n seg chunk

end Sys2Proof.Machine
end

