-- ==== Sys2Proof/Machine/Couch.lean ====
section
/-! DEFINITION. The couch: requests, their limit, and the hand-over of a logical core (R409 to R415). -/

namespace Sys2Proof.Machine

/-! ### Requests -/

/-- A couch of a slot to a position requested in a cluster (R409): at most one at a time. -/
def State.requestCouch (s : State) (c slot target why : Nat) : State :=
  (s.putBit (Reg.cluCouch c) 62 true).modClu c fun k => { k with couch := some ⟨slot, target, why, s.cycles c, false⟩ }

/-- A write of CLU.COUCH (R415, R458): SLOT and TARGET take listed values, and GO = 1 requests a couch or reports why not. -/
def State.cluCouchWrite (s : State) (c : Nat) (v : Word) : State :=
  let s := if wfld v 11 8 ≤ 11 then s.putFld (Reg.cluCouch c) 11 8 (wfld v 11 8) else s
  let s := if wfld v 3 0 ≤ 12 then s.putFld (Reg.cluCouch c) 3 0 (wfld v 3 0) else s
  if wfld v 63 63 = 0 then s
  else
    let slot := s.fld (Reg.cluCouch c) 11 8
    let target := s.fld (Reg.cluCouch c) 3 0
    let k := s.cluAt c
    if k.couch.isSome ∨ k.rot.session.isSome then s.putFld (Reg.cluCouch c) 23 16 3
    else if !s.isSpare (13 * c + target) then s.putFld (Reg.cluCouch c) 23 16 1
    else if (s.posOf (12 * c + slot)).isNone then s.putFld (Reg.cluCouch c) 23 16 2
    else (s.putFld (Reg.cluCouch c) 23 16 0).requestCouch c slot target 0

/-- CLU_COUCH_GO. -/
def execCluCouchGo (c : Nat) (v : Word) (s : State) : Host.Outcome State Fault Refusal :=
  answer (Instr.wf (.cluCouchGo c v)) s (State.written fun s => s.cluCouchWrite c v)

/-- Event class 0x08 (R456); slot 15 is none. -/
def State.couchEvent (s : State) (sev c slot from' to' reason waited : Nat) : State :=
  s.post { cls := 8, sev := sev, ukind := 2, uidx := c, lcid := if slot < 12 then 12 * c + slot else 0x7FF, d0 := slot + from' * 2 ^ 4 + to' * 2 ^ 8 + reason * 2 ^ 12, d1 := waited }

/-- Does the core of a slot stand at a couch point: not started, halted, stopped with its group, or at the boundary of a couchpt leaf (R411)? A slot that no
position backs does (R121). -/
def State.standsCouched (s : State) (i : Nat) : Bool :=
  match s.posOf i with
  | none => true
  | some p => let st := s.stateOf p; st = 0 || st = 2 || st = 6 || (st = 1 && (s.coreAt p).arch.flow.atCouch)

/-- COUCH_LIMIT_EXPIRY (R413): a request has waited CLU.COUCHLIM cycles without a couch point. -/
def State.couchLimit (s : State) (c : Nat) : State :=
  match (s.cluAt c).couch with
  | none => s
  | some r =>
    if r.late || s.standsCouched (12 * c + r.slot) then s
    else
      let s := s.runTo c (r.since + s.fld (Reg.cluCouchlim c) 31 0)
      let s := s.modClu c fun k => { k with couch := some { r with late := true } }
      let p := ((s.posOf (12 * c + r.slot)).getD 15) % 13
      (s.bump (Reg.cluLate c) 1).couchEvent 1 c r.slot p (r.target % 13) 3 (s.cycles c - r.since)

/-- COUCH_LIMIT_EXPIRY. -/
def execCouchLimitExpiry (c : Nat) (s : State) : Host.Outcome State Fault Refusal :=
  answer (Instr.wf (.couchLimitExpiry c)) s fun s => s.couchLimit c

/-! ### The hand-over (R410 to R412) -/

/-- Does the core of a position stand at a couch point with nothing in flight (R411)? A core not yet started does. -/
def State.atCouchPoint (s : State) (p : Nat) : Bool :=
  let st := s.stateOf p
  let w := (s.coreAt p).work
  (st = 0 || st = 2 || st = 6 || (st = 1 && (s.coreAt p).arch.flow.atCouch)) && w.loads.isEmpty && w.vq.isEmpty && w.tq.isEmpty

/-- Error marks of the words of one LDM carried over to another with the words. -/
def State.moveErrs (s : State) (p q : Nat) : State :=
  let lo (k : Nat) : Nat := physBase + k * 2 ^ 18
  let inOf (k u : Nat) : Bool := decide (lo k ≤ u) && decide (u < lo k + 2 ^ 18)
  let moved := (s.mem.errs.filter fun e => inOf p e.1).map fun e => (e.1 - lo p + lo q, e.2)
  let kept := s.mem.errs.filter fun e => !inOf p e.1 && !inOf q e.1
  { s with mem := { s.mem with errs := moved.foldl (fun m e => Sparse.set zeroNat m e.1 e.2) kept } }

/-- The state of a logical core moved from position `p` to position `q` (R410, R412). -/
def State.moveCore (s : State) (p q : Nat) : State :=
  let s := s.drainL1 p
  let cp := s.coreAt p
  let cq := s.coreAt q
  let fl := { cp.arch.flow with atCouch := false, prev := none }
  let s := s.setCore q { arch := { cp.arch with flow := fl }, ldm := cp.ldm, caches := cq.caches.emptied
                         work := { Work.reset with hbq := cq.work.hbq ++ cp.work.hbq.filter fun x => !x.begun } }
  let s := s.modCore p fun c => { c with work := { Work.reset with hbq := c.work.hbq.filter (·.begun) } }
  s.moveErrs p q

/-- COUCH (R411): the pending couch of a cluster takes place once the core of its slot stands at a couch point and its target can receive the
slot. -/
def State.couch (s : State) (c : Nat) : State :=
  match (s.cluAt c).couch with
  | none => s
  | some r =>
    let i := 12 * c + r.slot
    match s.posOf i with
    | none => s
    | some p =>
      let q := 13 * c + r.target
      let free := if r.why = 2 then s.stateOf q = 4 else s.isSpare q
      if !free ∨ p = q ∨ !s.atCouchPoint p then s
      else
        let st := s.stateOf p
        let s := ((s.moveCore p q).putBit (Reg.cluPos c) (16 + r.target) false).setStateOf q st
        let s := (s.mapSlot i (some q)).putFld (Reg.coreState p) 26 16 0x7FF
        let s := (s.putBit (Reg.cluCouch c) 62 false).bump (Reg.cluCouches c) 1
        let s := s.modClu c fun k => { k with couch := none }
        match r.why with
        | 0 => (s.makeSpare p).couchEvent 0 c r.slot (p % 13) r.target 1 (s.cycles c - r.since)
        | 1 =>
          (s.setStateOf p 4).modClu c fun k =>
            { k with rot := { k.rot with session := k.rot.session.map fun x => { x with phase := 1 }
                                         ptr := match k.rot.session with
                                           | some x => if x.byTurn then (x.pos % 13 + 1) % 13 else k.rot.ptr
                                           | none => k.rot.ptr } }
        | _ => (s.makeSpare p).sessionPassed q

/-- COUCH. -/
def execCouch (c : Nat) (s : State) : Host.Outcome State Fault Refusal := answer (Instr.wf (.couch c)) s fun s => s.couch c

end Sys2Proof.Machine
end

