-- ==== Sys2Proof/Machine/Matrix.lean ====
section
/-! DEFINITION. Tile registers, accumulator banks and the matrix arrays: configuration, chunks, commits and data errors (R157 to R189,
R198 to R204). -/

namespace Sys2Proof.Machine

/-! ### Tiles and banks -/

def Arch.tile (a : Arch) (t : Nat) : BitVec 32768 := Sparse.get zeroTile a.tiles t
def Arch.setTile (a : Arch) (t : Nat) (v : BitVec 32768) : Arch := { a with tiles := Sparse.set zeroTile a.tiles t v }
def Arch.bank (a : Arch) (b : Nat) : BitVec 32768 := Sparse.get zeroTile a.banks b
def Arch.setBank (a : Arch) (b : Nat) (v : BitVec 32768) : Arch := { a with banks := Sparse.set zeroTile a.banks b v }
def Arch.astatAt (a : Arch) (b : Nat) : Word := Sparse.get zeroWord a.astat b
def Arch.setAstat (a : Arch) (b : Nat) (v : Word) : Arch := { a with astat := Sparse.set zeroWord a.astat b v }
def Arch.tcfgAt (a : Arch) (t : Nat) : Word := Sparse.get zeroWord a.tcfg t
def Arch.setTcfg (a : Arch) (t : Nat) (v : Word) : Arch := { a with tcfg := Sparse.set zeroWord a.tcfg t v }

/-- The fields of a TCFG (R158). -/
def tcState (w : Word) : Bool := wfld w 31 31 = 1
def tcRows (w : Word) : Nat := wfld w 21 16
def tcColb (w : Word) : Nat := wfld w 11 8
def tcFmt (w : Word) : Nat := wfld w 3 0
/-- Row length in bytes (R158). -/
def tcBytes (w : Word) : Nat := 8 * (tcColb w + 1)

/-- A write of TCFGn: ROWS above 32 and FMT above 6 keep their fields, STATE and the tile become empty (R158, R161). -/
def Arch.writeTcfg (a : Arch) (t : Nat) (v : Word) : Arch :=
  let old := a.tcfgAt t
  let rows := if wfld v 21 16 ≤ 32 then wfld v 21 16 else tcRows old
  let fmt := if wfld v 3 0 ≤ 6 then wfld v 3 0 else tcFmt old
  (a.setTcfg t (BitVec.ofNat 64 (rows * 2 ^ 16 + wfld v 11 8 * 2 ^ 8 + fmt))).setTile t 0

/-- STATE set or cleared. -/
def Arch.setTcState (a : Arch) (t : Nat) (b : Bool) : Arch := a.setTcfg t (wsetFld (a.tcfgAt t) 31 31 (b2n b))

/-- Elements in a row of `b` bytes (R159). -/
def rowElems (fmt b : Nat) : Nat :=
  match fmt with
  | 0 | 1 => b / 2
  | 5 => 32
  | 6 => b / 8
  | _ => b

/-- The bit pattern of element `e` of row `r` (R160). -/
def tileElem (t : BitVec 32768) (fmt r e : Nat) : Nat :=
  let base := 1024 * r
  match fmt with
  | 0 | 1 => (t.toNat >>> (base + 16 * e)) % 2 ^ 16
  | 5 => (t.toNat >>> (base + 4 * e)) % 2 ^ 4
  | 6 => (t.toNat >>> (base + 64 * e)) % 2 ^ 64
  | _ => (t.toNat >>> (base + 8 * e)) % 2 ^ 8

/-- The E8M0 scale of a row (R160). -/
def tileScale (t : BitVec 32768) (r : Nat) : Nat := (t.toNat >>> (1024 * r + 128)) % 2 ^ 8

/-- Element `i` of 32 bits of a bank (R163). -/
def bankEl (b : BitVec 32768) (i : Nat) : Nat := (b.toNat >>> (32 * i)) % 2 ^ 32
def setBankEl (b : BitVec 32768) (i v : Nat) : BitVec 32768 := BitVec.ofNat 32768 (setFld b.toNat (32 * i + 31) (32 * i) v)
/-- Element (m, n) of an FP64 result (R163). -/
def bankEl64 (b : BitVec 32768) (m n : Nat) : Nat := (b.toNat >>> (32 * (32 * m + 2 * n))) % 2 ^ 64
def setBankEl64 (b : BitVec 32768) (m n v : Nat) : BitVec 32768 :=
  BitVec.ofNat 32768 (setFld b.toNat (32 * (32 * m + 2 * n) + 63) (32 * (32 * m + 2 * n)) v)

/-! ### Shape (R171, R176, R177) -/

/-- The tile formats that MF allows. -/
def mfAllows (mf fmt : Nat) : Bool :=
  match mf with
  | 0 => fmt = 0
  | 1 => fmt = 1
  | 2 => fmt = 2 || fmt = 3
  | 3 => fmt = 4
  | 4 => fmt = 5
  | _ => fmt = 6

/-- Limits of M, K and N (R171). -/
def mfMaxM (mf : Nat) : Nat := if 5 ≤ mf then 8 else 32
def mfMaxN (mf : Nat) : Nat := if 5 ≤ mf then 16 else 32

/-- Does an activation tile with a weight tile meet a case of R176? A condition counts for tiles whose ROWS is not zero. -/
def shapeFault (mf : Nat) (act wgt : Word) : Bool :=
  let on := decide (tcRows act ≠ 0)
  let won := decide (tcRows wgt ≠ 0)
  let k := rowElems (tcFmt act) (tcBytes act)
  let n := rowElems (tcFmt wgt) (tcBytes wgt)
  (on && !mfAllows mf (tcFmt act)) || (won && !mfAllows mf (tcFmt wgt)) ||
  (on && won && decide (k ≠ tcRows wgt)) ||
  (on && decide (mfMaxM mf < tcRows act)) ||
  (won && decide (mfMaxN mf < n)) ||
  (mf = 4 && ((on && decide (tcColb act ≠ 2)) || (won && (decide (tcColb wgt ≠ 2) || decide (tcRows wgt < 32)))))

/-! ### Chunks (R198 to R204) -/

/-- The exact value of tile element `e` of row `r`, with the scale that applies to it. -/
def tileNum (t : BitVec 32768) (fmt r e scaleRow : Nat) : Num :=
  let x := tileElem t fmt r e
  match fmt with
  | 0 => bf16.unpack x
  | 1 => fp16.unpack x
  | 2 => e4m3.unpack x
  | 3 => e5m2.unpack x
  | 4 => Num.ofInt (sext 8 x)
  | 5 => mxfp4 x (tileScale t scaleRow)
  | _ => fp64.unpack x

/-- A chunk: its value with the flags raised in the products, and TRUNC. -/
structure Chunk where
  c : Num
  fl : FFlags
  trunc : Bool
  deriving DecidableEq, Repr

/-- A signed quantity `q × 2^e`. -/
structure Scaled where
  q : Int
  e : Int
  deriving DecidableEq, Repr

/-- A quantity truncated toward zero to a multiple of `2^u`, as that multiple, and whether bits were lost (R199). -/
def Scaled.trunc (x : Scaled) (u : Int) : Int × Bool :=
  if u ≤ x.e then (x.q * (2 ^ (x.e - u).toNat : Nat), false)
  else
    let k := (u - x.e).toNat
    let m := x.q.natAbs >>> k
    (if x.q < 0 then -(m : Int) else (m : Int), decide (x.q.natAbs % 2 ^ k ≠ 0))

/-- The window: every quantity truncated at `A − 144` and summed exactly (R199, R203). -/
def window (A : Int) (xs : List Scaled) : Num × Bool :=
  let r := xs.foldl (fun (t : Int × Bool) x => let y := x.trunc (A - 144); (t.1 + y.1, t.2 || y.2)) (0, false)
  (.fin (decide (r.1 < 0)) r.1.natAbs (A - 144), r.2)

/-- The first three rows of R200: a NaN, infinities of both signs, or an infinity among the products. -/
def specialChunk (ps : List (Num × FFlags)) : Option Chunk :=
  let fl := ps.foldl (fun f p => f ||| p.2) (0 : FFlags)
  if ps.any (fun p => p.1.isNan) then some ⟨.nan false, fl, false⟩
  else if ps.any (fun p => p.1.isInf) then
    let pos := ps.any fun p => p.1.isInf && !p.1.negative
    let neg := ps.any fun p => p.1.isInf && p.1.negative
    if pos && neg then some ⟨.nan false, fNV, false⟩ else some ⟨.inf neg, 0, false⟩
  else none

/-- The zero of R200: −0 when every product is −0. -/
def zeroChunk (ps : List (Num × FFlags)) : Num := .fin (!ps.isEmpty && ps.all fun p => p.1.negative) 0 0

/-- The chunk of a floating format other than FP64 (R199, R200). -/
def floatChunk (ps : List (Num × FFlags)) : Chunk :=
  match specialChunk ps with
  | some c => c
  | none =>
    let xs : List Scaled := ps.filterMap fun p => match p.1 with
      | .fin n m e => if m = 0 then none else some ⟨Num.sgn n m, e⟩
      | _ => none
    match xs with
    | [] => ⟨zeroChunk ps, 0, false⟩
    | x :: rest =>
      let A := rest.foldl (fun a y => max a (numLog y.q.natAbs y.e)) (numLog x.q.natAbs x.e)
      let w := window A xs
      ⟨if w.1.isZero then (if ps.all (fun p => p.1.isZero) then zeroChunk ps else .fin false 0 0) else w.1, 0, w.2⟩

/-- One pass of the slicing of R201: slices 6 down to 0 of `v`, the lowest first in the answer's tail. -/
def slicePass : Nat → Int → List Int → List Int
  | 0, v, acc => v :: acc
  | n + 1, v, acc =>
    let d := (v + 128) % 256 - 128
    slicePass n ((v - d) / 256) (d :: acc)

/-- slices(x) of a finite non-zero FP64 value (R201): the exponent and d[0] to d[6]. -/
def fp64Slices (neg : Bool) (m : Nat) (e : Int) : Int × List Int :=
  let L := numLog m e
  -- X = |x| × 2^(52 − L), an integer
  let X : Nat := if 0 ≤ e + 52 - L then m <<< (e + 52 - L).toNat else m >>> (L - 52 - e).toNat
  let at' (sh : Nat) : List Int := slicePass 6 (Num.sgn neg (X <<< sh)) []
  let d := at' 2
  if (d.headD 0).natAbs ≤ 127 then (L, d) else (L + 1, at' 1)

/-- The slice products of one k, for the pairs that the mode runs (R202, R203). -/
def slicePairs (exact : Bool) (ea : Int) (da : List Int) (ew : Int) (dw : List Int) : List Scaled :=
  (upto 7).flatMap fun i => (upto 7).filterMap fun j =>
    if exact || decide (i + j ≤ 6) then
      let q := da.getD i 0 * dw.getD j 0
      if q = 0 then none else some ⟨q, ea + ew - 12 - 8 * ((i + j : Nat) : Int)⟩
    else none

/-- The chunk of an FP64 mode (R203, R204). -/
def fp64Chunk (exact : Bool) (ops : List (Num × Num)) : Chunk :=
  let ps := ops.map fun p => Num.mul p.1 p.2
  match specialChunk ps with
  | some c => c
  | none =>
    let cut : List (Int × List Int × Int × List Int) := ops.filterMap fun p => match p.1, p.2 with
      | .fin n1 m1 e1, .fin n2 m2 e2 =>
        if m1 = 0 ∨ m2 = 0 then none
        else
          let x := fp64Slices n1 m1 e1
          let y := fp64Slices n2 m2 e2
          some (x.1, x.2, y.1, y.2)
      | _, _ => none
    match cut with
    | [] => ⟨zeroChunk ps, 0, false⟩
    | c :: rest =>
      let A := rest.foldl (fun a y => max a (y.1 + y.2.2.1)) (c.1 + c.2.2.1) + 1
      let w := window A (cut.flatMap fun y => slicePairs exact y.1 y.2.1 y.2.2.1 y.2.2.2)
      ⟨if w.1.isZero then .fin false 0 0 else w.1, 0, w.2⟩

/-! ### Matrix operations (R172, R173) -/

/-- The ASTAT bits of a floating chunk rounding and bank addition (R164, R195). -/
def addInto (f : Fmt) (acc : Bool) (old : Nat) (k : Chunk) : Nat × Nat :=
  let c := roundRes f .near false (k.c, k.fl)
  let t := b2n k.trunc
  if acc then
    let r := roundRes f .near false (Num.add .near (f.unpack old) (f.unpack c.1))
    (r.1, t ||| astatOf c.2 ||| astatOf r.2)
  else (c.1, t ||| astatOf c.2)

/-- One half of a matrix operation: bank `b` after the products of activation tile `ta` and weight tile `tw`, and the ASTAT bits that it
raises (R172). -/
def Arch.mmulHalf (a : Arch) (mf : Nat) (acc : Bool) (ta tw b : Nat) : BitVec 32768 × Nat :=
  let cfa := a.tcfgAt ta
  let cfw := a.tcfgAt tw
  let ta' := a.tile ta
  let tw' := a.tile tw
  let M := tcRows cfa
  let K := rowElems (tcFmt cfa) (tcBytes cfa)
  let N := rowElems (tcFmt cfw) (tcBytes cfw)
  let opnds (m n : Nat) : List (Num × Num) :=
    (upto K).map fun k => (tileNum ta' (tcFmt cfa) m k m, tileNum tw' (tcFmt cfw) k n n)
  (upto M).foldl (fun (t : BitVec 32768 × Nat) m => (upto N).foldl (fun (t : BitVec 32768 × Nat) n =>
    if mf = 3 then
      let c : Int := (upto K).foldl (fun (x : Int) k => x + sext 8 (tileElem ta' 4 m k) * sext 8 (tileElem tw' 4 k n)) 0
      let sum : Int := (if acc then sext 32 (bankEl t.1 (32 * m + n)) else 0) + c
      (setBankEl t.1 (32 * m + n) (toBits 32 sum), t.2 ||| (if -(2 ^ 31 : Nat) ≤ sum ∧ sum < (2 ^ 31 : Nat) then 0 else 0x20))
    else if 5 ≤ mf then
      let r := addInto fp64 acc (bankEl64 t.1 m n) (fp64Chunk (mf = 6) (opnds m n))
      (setBankEl64 t.1 m n r.1, t.2 ||| r.2)
    else
      let r := addInto fp32 acc (bankEl t.1 (32 * m + n)) (floatChunk ((opnds m n).map fun p => Num.mul p.1 p.2))
      (setBankEl t.1 (32 * m + n) r.1, t.2 ||| r.2)) t) (a.bank b, 0)

/-- A bank and its status written by a commit. -/
def Arch.commitBank (a : Arch) (b : Nat) (r : BitVec 32768 × Nat) : Arch :=
  (a.setBank b r.1).setAstat b (a.astatAt b ||| BitVec.ofNat 64 r.2)

/-! ### The checksum column (R186, R187) -/

/-- Activation rows that enter an array in one slot (R171); the FP64 modes enter all of them in every slot. -/
def mfSlotRows (mf : Nat) : Nat := if mf ≤ 1 then 1 else if mf ≤ 3 then 2 else if mf = 4 then 4 else 8

/-- Does a row take part in the compare of a slot: is it valid, and does it enter with that slot (R171, R179, R202)? -/
def slotRow (mf M slot row : Nat) : Bool :=
  decide (row < M) && (if 5 ≤ mf then decide (slot < if mf = 5 then 28 else 49) else decide (row / mfSlotRows mf = slot))

/-- The non-zero finite part of an exact value. -/
def Num.scaled : Num → Option Scaled
  | .fin n m e => if m = 0 then none else some ⟨Num.sgn n m, e⟩
  | _ => none

/-- The sum of quantities, each truncated to a multiple of `2^u`, as that multiple. -/
def truncSum (u : Int) (xs : List Scaled) : Int := xs.foldl (fun t x => t + (x.trunc u).1) 0

/-- The largest floor(log2) of a list of non-zero quantities. -/
def anchorOf : List Scaled → Option Int
  | [] => none
  | x :: xs => some (xs.foldl (fun a y => max a (numLog y.q.natAbs y.e)) (numLog x.q.natAbs x.e))

/-- A value in a window: a multiple of `2^u`, with the window's anchor. -/
structure Win where
  v : Int
  a : Int
  deriving DecidableEq, Repr

/-- The window of a column from its non-zero products, truncated at `A − 144` (R199). -/
def columnWin (ps : List Scaled) : Option Win := (anchorOf ps).map fun A => ⟨truncSum (A - 144) ps, A⟩

/-- s_k of a floating format: the sum of the weights of array row k in a window of 72 bits whose top bit lies 5 above the largest weight exponent (R186). -/
def checkWeight (ws : List Scaled) : Option Scaled :=
  (anchorOf ws).bind fun E =>
    let u := E + 5 - 71
    let v := truncSum u ws
    if v = 0 then none else some ⟨v, u⟩

def Scaled.mul (x y : Scaled) : Scaled := ⟨x.q * y.q, x.e + y.e⟩

/-- A signed multiple of `2^e` rounded to a multiple of `2^u`, to nearest even. -/
def Scaled.near (x : Scaled) (u : Int) : Int :=
  let r := (roundAt .near (decide (x.q < 0)) x.q.natAbs x.e u).1
  if x.q < 0 then -(r : Int) else (r : Int)

/-- The exact sum of windows, at the lowest unit among them. -/
def sumWins (ws : List Win) : Scaled :=
  match ws with
  | [] => ⟨0, 0⟩
  | w :: rest =>
    let low := rest.foldl (fun a y => min a (y.a - 144)) (w.a - 144)
    ⟨ws.foldl (fun t y => t + y.v * (2 ^ (y.a - 144 - low).toNat : Nat)) 0, low⟩

/-- The compare of a floating row (R187): the checksum window and the data windows, each rounded to a multiple of u, differ by more than 2u. -/
def floatCompare (check : Option Win) (cols : List Win) : Bool :=
  match (check.toList ++ cols) with
  | [] => false
  | w :: rest =>
    let A := rest.foldl (fun a y => max a y.a) w.a
    let u := A - 42
    decide (2 < ((sumWins check.toList).near u - (sumWins cols).near u).natAbs)

/-- A window with a fault of `off` units of its last place; a column without a product lies where the largest anchor of the row lies. -/
def faultyWin (A : Int) (off : Int) : Option Win → Win
  | some w => { w with v := w.v + off }
  | none => ⟨off, A⟩

/-- The compare of one activation row of one slot in which column `col` of the array (32 the checksum column) comes out wrong by `off` (R187): fails or
not. In INT8 and the FP64 modes both sides are exact integers, so any difference fails; a row with an infinite or NaN product is not compared. -/
def Arch.compareRow (a : Arch) (mf ta tw row col : Nat) (off : Int) : Bool :=
  let cfa := a.tcfgAt ta
  let cfw := a.tcfgAt tw
  let K := rowElems (tcFmt cfa) (tcBytes cfa)
  let N := rowElems (tcFmt cfw) (tcBytes cfw)
  let act (k : Nat) : Num := tileNum (a.tile ta) (tcFmt cfa) row k row
  let wgt (k n : Nat) : Num := tileNum (a.tile tw) (tcFmt cfw) k n n
  let special := (upto K).any fun k => (upto N).any fun n => let p := (Num.mul (act k) (wgt k n)).1; p.isNan || p.isInf
  if special ∨ (col ≠ 32 ∧ N ≤ col) then false
  else if mf = 3 ∨ 5 ≤ mf then decide (off ≠ 0)
  else
    let column (ws : Nat → Option Scaled) : Option Win :=
      columnWin ((upto K).filterMap fun k => match (act k).scaled, ws k with
        | some x, some y => some (x.mul y)
        | _, _ => none)
    let cols := (upto N).map fun n => column fun k => (wgt k n).scaled
    let check := column fun k => checkWeight ((upto N).filterMap fun n => (wgt k n).scaled)
    let A := (cols.filterMap id).foldl (fun m w => max m w.a) ((check.map (·.a)).getD (-2000))
    if col = 32 then floatCompare (some (faultyWin A off check)) (cols.filterMap id)
    else floatCompare check ((upto N).filterMap fun n => if n = col then some (faultyWin A off (cols.getD n none)) else cols.getD n none)

/-! ### Tile operations -/

/-- The address of row `r` of a tile or bank transfer (R167). -/
def TJob.rowAddr (j : TJob) (r : Nat) : Nat := toBits 64 ((j.rb : Int) + (r : Int) * j.rs)

/-- The bytes that tile or bank rows hold. -/
def rowBytes (t : BitVec 32768) (r n : Nat) : List Byte := leBytes n (t.toNat >>> (1024 * r))

/-- The rows of an LDM transfer assembled, each in 128 bytes. -/
def State.readRows (s : State) (pos : Nat) (j : TJob) : BitVec 32768 :=
  (upto j.rows).foldl (fun (t : BitVec 32768) r =>
    BitVec.ofNat 32768 (setFld t.toNat (1024 * r + 8 * j.rowb - 1) (1024 * r) (s.num (some pos) (j.rowAddr r) j.rowb))) 0

/-- The first `n` rows of a tile or bank written to LDM with tag 0xE (R44, R169); answers the first address whose merge failed. -/
def State.storeRows (s : State) (pos : Nat) (j : TJob) (t : BitVec 32768) (n : Nat) : State × Option Nat :=
  (upto (min n j.rows)).foldl (fun (acc : State × Option Nat) r =>
    let bs := rowBytes t r j.rowb
    let (s, bad) := acc.1.store (acc.1.coreWho pos) (some pos) 0xE (j.rowAddr r) bs
    (s, match acc.2 with
        | some x => some x
        | none => bad.head?)) (s, none)

/-- What a tile operation's source holds. -/
def Arch.rowSource (a : Arch) (j : TJob) : BitVec 32768 := if j.op = 1 then a.tile j.t else a.bank j.a

/-- Operations of a core abandoned after the tst and ast among them had written `rows` rows in all, in the order of issue: those rows stand, and count nowhere
(R182, R211). -/
def State.abandonRows (pos : Nat) : List TJob → Nat → State → State
  | [], _, s => s
  | j :: js, rows, s =>
    if j.cls = 8 ∧ (j.op = 1 ∨ j.op = 5) then
      State.abandonRows pos js (rows - j.rows) (s.storeRows pos j ((s.coreAt pos).arch.rowSource j) rows).1
    else State.abandonRows pos js rows s

/-- The rows of a tile or bank written at the commit, and counted (R169, R211). -/
def State.writeRows (s : State) (pos : Nat) (j : TJob) (t : BitVec 32768) : State × Option Nat :=
  let r := s.storeRows pos j t j.rows
  ((upto j.rows).foldl (fun s r => s.count (s.countAddr pos (j.rowAddr r)) (rowBytes t r j.rowb)) r.1, r.2)

/-- The first LDM word that tld or ald would read with an uncorrectable error, by the address at which the rows meet it (R188). -/
def State.rowsBad (s : State) (pos : Nat) (j : TJob) : Option (Nat × Nat) :=
  (upto j.rows).findSome? fun r => (upto (cdiv j.rowb 8)).findSome? fun k =>
    let ad := j.rowAddr r + 8 * k
    match (s.locate (some pos) ad).unit with
    | some u => if s.isBad u then some (ad, u) else none
    | none => none

/-- Corrected errors of the words that a transfer reads are reported (R45). -/
def State.rowsMeet (s : State) (pos : Nat) (j : TJob) : State :=
  (upto j.rows).foldl (fun s r => (s.readMeets (s.coreWho pos) (some pos) (j.rowAddr r) j.rowb).1) s

/-- The failure of operation `i` of the tile queue: it and every tile or matrix operation issued after its leaf are abandoned, with `rows` rows of the
tst and ast among them written, and a deferred 0x0C names its leaf (R182, R188). -/
def State.tileFail (s : State) (pos i kind addr rows : Nat) : State :=
  let w := (s.coreAt pos).work
  match w.tq[i]? with
  | none => s
  | some j =>
    let stays (x : TJob) : Bool := decide (x.seq ≤ j.seq)
    let rest := dropAt w.tq i
    (State.abandonRows pos (rest.filter fun x => !stays x) rows (s.setWork pos { w with tq := rest.filter stays })).deferExc pos kind 0 j.leaf addr []

/-- Banks that an operation writes at its commit. -/
def TJob.writesBanks (j : TJob) : List Nat :=
  if j.cls = 9 then (if j.op = 1 then [j.a, j.a1] else [j.a]) else if j.op = 4 ∨ j.op = 6 then [j.a] else []

/-- Does a vaccrd in flight still read a bank that an operation writes (R144)? -/
def Work.readsBank (w : Work) (j : TJob) : Bool := w.vq.any fun (v : VJob) => !v.mem && v.op == 0x1D && j.writesBanks.contains (v.va % 4)

/-- The operation at the front of a core's tile queue commits (R166, R172, R182); one that writes a bank which a vaccrd still reads waits
for it (R144). `rows` tells how many rows the later tst and ast have written when the operation fails. -/
def State.tileCommit (s : State) (pos rows : Nat) : State :=
  let c := s.coreAt pos
  match c.work.tq with
  | [] => s
  | j :: rest =>
    let done (s : State) (a : Arch) : State := (s.setArch pos a).setWork pos { (s.coreAt pos).work with tq := rest }
    let a := c.arch
    if c.work.readsBank j then s
    else if j.cls = 9 then
      if j.op = 0 then done s (a.commitBank j.a (a.mmulHalf j.mf j.acc j.t j.tw j.a))
      else
        let r0 := a.mmulHalf j.mf j.acc j.t j.tw j.a
        let r1 := a.mmulHalf j.mf j.acc j.t1 j.tw j.a1
        done s ((a.commitBank j.a r0).commitBank j.a1 r1)
    else
      match j.op with
      | 0 | 4 =>
        match s.rowsBad pos j with
        | some (ad, u) => (s.metBad 1 (s.lcidOf pos) u).tileFail pos 0 1 ad rows
        | none =>
          let s := s.rowsMeet pos j
          let v := s.readRows pos j
          if j.op = 0 then done s ((a.setTile j.t v).setTcState j.t true) else done s (a.setBank j.a v)
      | 1 | 5 =>
        let r := s.writeRows pos j (a.rowSource j)
        let s := done r.1 (r.1.coreAt pos).arch
        match r.2 with
        | some ad => s.deferExc pos 1 0 j.leaf ad []
        | none => s
      | 2 => done s ((a.setTile j.t 0).setTcState j.t true)
      | 3 => done s ((a.setTile j.t 0).setTcState j.t false)
      | 6 => done s ((a.setBank j.a 0).setAstat j.a 0)
      | 7 =>
        let a' := a.setReg j.t1 ⟨a.astatAt j.a, 0⟩
        done s (if j.acc then a'.setAstat j.a 0 else a')
      | _ => done s (a.setAstat j.a (BitVec.ofNat 64 (j.rb % 64)))

/-- TILE_OP_COMMIT (R182). -/
def execTileOpCommit (pos : Nat) (s : State) : Host.Outcome State Fault Refusal :=
  answer (Instr.wf (.tileOpCommit pos)) s fun s => s.tileCommit pos 0

/-- A faulty column of an array in the oldest matrix operation in flight: when the compare of that row and slot fails, event class 0x04, a suspect
position, and a deferred 0x0C with KIND 3 (R187, R188, R446, R456). A compare that passes reports nothing. -/
def State.compareFail (s : State) (pos array slot row col : Nat) (off : Int) (rows : Nat) : State :=
  let c := s.coreAt pos
  match c.work.tq.findIdx? fun j => j.cls = 9 with
  | none => s
  | some i =>
    match c.work.tq[i]? with
    | none => s
    | some j =>
      let ta := if j.op = 1 ∧ array = 1 then j.t1 else j.t
      let runs := if j.op = 1 then decide (array ≤ 1) else decide (array = j.a / 2)
      if runs && slotRow j.mf (tcRows (c.arch.tcfgAt ta)) slot row && c.arch.compareRow j.mf ta j.tw row col off then
        ((s.post { cls := 4, sev := 2, ukind := 1, uidx := pos, lcid := s.lcidOf pos
                   d0 := array + j.mf * 2 ^ 8 + row * 2 ^ 16 + slot * 2 ^ 24, d1 := j.leaf }).implicate pos).tileFail pos i 3 0 rows
      else s

/-- Does an operation read words of a tile register or a bank (R188, R189)? -/
def TJob.readsFile (j : TJob) : Bool := j.cls == 9 || j.op == 1 || j.op == 5

/-- A word of a tile register or a bank with an error, met by the oldest operation in flight that reads one (R188, R189, R446). -/
def State.tileRegFail (s : State) (pos : Nat) (corrected : Bool) (rows : Nat) : State :=
  match (s.coreAt pos).work.tq.findIdx? TJob.readsFile with
  | none => s
  | some i =>
    if corrected then s.correction 1 pos (s.lcidOf pos) 5 0 0
    else ((s.post { cls := 2, sev := 2, ukind := 1, uidx := pos, lcid := s.lcidOf pos, d0 := 5 + 2 ^ 8 }).implicate pos).tileFail pos i 1 0 rows

/-- An uncorrectable LDM word that the front tld or ald reads (R188). -/
def State.tileLdmFail (s : State) (pos addr rows : Nat) : State :=
  match (s.coreAt pos).work.tq with
  | [] => s
  | j :: _ =>
    if j.cls = 8 ∧ (j.op = 0 ∨ j.op = 4) ∧ (upto j.rows).any (fun r => decide (j.rowAddr r ≤ addr) && decide (addr < j.rowAddr r + j.rowb)) then
      (s.plant (s.locate (some pos) addr) .uncorrectable).tileCommit pos rows
    else s

/-- ARRAY_CHECK_FAULT (R187 to R189). -/
def execArrayCheckFault (pos : Nat) (fault : ArrayFault) (s : State) : Host.Outcome State Fault Refusal :=
  answer (Instr.wf (.arrayCheckFault pos fault)) s fun s =>
    match fault.err with
    | .compare array slot row col off => s.compareFail pos array slot row col off fault.rows
    | .regData corrected => s.tileRegFail pos corrected fault.rows
    | .ldmData addr => s.tileLdmFail pos addr fault.rows

end Sys2Proof.Machine
end

