-- ==== Sys2Proof/Machine/Vector.lean ====
section
/-! DEFINITION. Vector operations: element functions, reductions, mask operations, memory operations, stopping and errors (R123 to
R156). An operation runs when it completes, or in part when an exception stops it; operations of a core run in issue order
(log row 10). -/

namespace Sys2Proof.Machine

/-! ### Shape of an operation in flight -/

/-- The operation as its leaf holds it, for the group functions of the decoder. -/
def VJob.toOp (j : VJob) : Op :=
  { syl := j.syl, cls := if j.mem then 7 else 6, f := j.op * 32 + j.et * 4 + (j.n - 1) / 1024, e1 := (j.n - 1) % 1024
    e2 := j.vd * 32 + j.va, e3 := j.vb * 32 + b2n j.s * 16 + b2n j.me * 8 + j.m, e4 := j.vc * 32 }

/-- A whole operation: it writes its destination only when it completes (R132, R133, R154). -/
def VJob.whole (j : VJob) : Bool :=
  !j.mem && (j.op = 0x18 || j.op = 0x19 || j.op = 0x1A || j.op = 0x1B || j.op = 0x1F || (j.op = 0x1E && (j.vb = 5 || j.vb = 6)))

/-- Does the operation write a scalar register? -/
def VJob.scalarDst (j : VJob) : Bool := !j.mem && (j.op = 0x1F || (j.op = 0x1E && (j.vb = 5 || j.vb = 6)))

/-- Element size of the operation's ET. -/
def VJob.sz (j : VJob) : Nat := etSize j.et

/-- Element size of the vector destination. -/
def VJob.dsz (j : VJob) : Nat :=
  if j.mem then j.sz
  else
    match j.op with
    | 0x12 | 0x13 => etSize j.vb
    | 0x14 | 0x15 => etSize (wideEt j.et)
    | 0x16 => etSize (dotEt j.et)
    | 0x1E => etSize j.m
    | _ => j.sz

/-- Source elements that one destination element takes: 2 or 4 in vdot (R140). -/
def VJob.ratio (j : VJob) : Nat := if !j.mem && j.op = 0x16 then (if etFloat j.et then 2 else 4) else 1

/-- Does the operation write a mask register bit by bit? -/
def VJob.maskDst (j : VJob) : Bool :=
  if j.mem then j.op = 3 else j.op = 0x0F || (j.op = 0x1E && decide (j.vb ≤ 4))

/-- Elements in one slice of the widest operand, counted as N counts (R151, R154). -/
def VJob.perSlice (j : VJob) : Nat :=
  if j.mem then
    if j.op = 3 ∨ j.op = 7 then 1024
    else if j.op = 2 ∨ j.op = 6 then 1024 / max j.sz (if j.s then 64 else 32)
    else 1024 / j.sz
  else
    match j.op with
    | 0x12 => 1024 / max j.sz (etSize j.vb)
    | 0x13 => 1024 / max 8 (etSize j.vb)
    | 0x14 | 0x15 => 1024 / etSize (wideEt j.et)
    | 0x16 => 1024 / j.sz
    | 0x17 => 32
    | 0x1E => if j.vb = 7 then 1024 / etSize j.m else 1024
    | _ => 1024 / j.sz

/-- Is element `i` active (R128, R129)? -/
def VJob.active (j : VJob) (a : Arch) (i : Nat) : Bool :=
  decide (j.start ≤ i) && decide (i < j.n) && (!j.me || j.op = 0x10 || a.mBit j.m i)

/-! ### Scalar operands (R131, R134) -/

def vfmt (et : Nat) : Fmt :=
  match et with
  | 0 => fp64
  | 1 => fp32
  | 2 => bf16
  | _ => fp16

/-- The value of sb as a vector operand, with the flags of its rounding (R131). -/
def VJob.sbVal (j : VJob) : Nat × FFlags :=
  match j.et with
  | 0 => (j.sb.pay.toNat, 0)
  | 2 | 3 => (vfmt j.et).round (modeFrm j.mode) (modeFtz j.mode) (fp32.unpackZ (modeFtz j.mode) (j.sb.pay.toNat % 2 ^ 32))
  | _ => (j.sb.pay.toNat % 2 ^ j.sz, 0)

/-- Flags of rounding sb, when the operation uses sb as an element operand; vcompress and vexpand have no sb, whatever their S (log row 135). -/
def VJob.sbFlags (j : VJob) : FFlags :=
  if j.s && !j.mem && !([0x17, 0x1A, 0x1B, 0x1C, 0x1F].contains j.op) && (j.et = 2 || j.et = 3) then
    (if (fp32.unpack (j.sb.pay.toNat % 2 ^ 32)).isSnan then fNV else 0) ||| j.sbVal.2
  else 0

/-! ### Element functions (R132 to R141) -/

/-- The integer element operations (R132, R136): wrapped to the element size. -/
def vInt (op sz x y z : Nat) : Nat :=
  let sx := sext sz x
  let sy := sext sz y
  match op with
  | 0x00 => (x + y) % 2 ^ sz
  | 0x01 => (x + 2 ^ sz - y) % 2 ^ sz
  | 0x02 => (x * y) % 2 ^ sz
  | 0x03 => (x * y + z) % 2 ^ sz
  | 0x04 => if sx ≤ sy then x else y
  | 0x05 => if sx ≤ sy then y else x
  | 0x08 => x &&& y
  | 0x09 => x ||| y
  | 0x0A => x ^^^ y
  | 0x0B => (x <<< (y % sz)) % 2 ^ sz
  | 0x0C => x >>> (y % sz)
  | _ => toBits sz (sx >>> (y % sz))

/-- The floating element operations (R132, R136). -/
def vFloat (f : Fmt) (md : RMode) (ftz : Bool) (op x y z : Nat) : Nat × FFlags :=
  let a := f.unpackZ ftz x
  let b := f.unpackZ ftz y
  match op with
  | 0x00 => roundRes f md ftz (Num.add md a b)
  | 0x01 => roundRes f md ftz (Num.add md a b.negate)
  | 0x02 => roundRes f md ftz (Num.mul a b)
  | 0x03 => roundRes f md ftz (Num.fma md a b (f.unpackZ ftz z))
  | 0x04 => roundRes f md ftz (Num.minMax false a b)
  | 0x05 => roundRes f md ftz (Num.minMax true a b)
  | 0x06 => roundRes f md ftz (Num.div a b)
  | 0x07 => roundRes f md ftz a.sqrt
  | 0x08 => (x &&& y, 0)
  | 0x09 => (x ||| y, 0)
  | _ => (x ^^^ y, 0)

/-- vcmp (R132): kinds 0 eq, 1 ne, 2 lt, 3 le, 4 ltu, 5 leu, 6 unordered. -/
def vCmp (et : Nat) (ftz : Bool) (kind x y : Nat) : Bool × FFlags :=
  if etFloat et then
    let f := vfmt et
    let a := f.unpackZ ftz x
    let b := f.unpackZ ftz y
    let c := Num.cmp a b
    let sn : FFlags := if a.isSnan || b.isSnan then fNV else 0
    let un : FFlags := if a.isNan || b.isNan then fNV else 0
    match kind with
    | 0 => (decide (c = .eq), sn)
    | 1 => (decide (c ≠ .eq), sn)
    | 2 => (decide (c = .lt), un)
    | 3 => (decide (c = .lt) || decide (c = .eq), un)
    | _ => (decide (c = .un), sn)
  else
    let sx := sext (etSize et) x
    let sy := sext (etSize et) y
    (match kind with
     | 0 => decide (x = y)
     | 1 => decide (x ≠ y)
     | 2 => decide (sx < sy)
     | 3 => decide (sx ≤ sy)
     | 4 => decide (x < y)
     | _ => decide (x ≤ y), 0)

/-- Conversion of an exact value to a destination format code (R126, R137). -/
def vCvtTo (md : RMode) (ftz : Bool) (dst : Nat) (x : Num) : Nat × FFlags :=
  let sn : FFlags := if x.isSnan then fNV else 0
  match fmtOfCode dst with
  | some f =>
    let r := roundRes f md ftz (x, sn)
    r
  | none =>
    let n := etSize dst
    let r := toIntSat md (-(2 ^ (n - 1) : Nat)) ((2 ^ (n - 1) : Nat) - 1) x
    (toBits n r.1, r.2 ||| sn)

/-- The exact value of an element of a type. -/
def vNum (et : Nat) (ftz : Bool) (x : Nat) : Num :=
  if etFloat et then (vfmt et).unpackZ ftz x else Num.ofInt (sext (etSize et) x)

/-- vwmul and vwfma (R140). -/
def vWide (et : Nat) (md : RMode) (ftz : Bool) (x y : Nat) (acc : Option Nat) : Nat × FFlags :=
  if etFloat et then
    let f := vfmt et
    let w := vfmt (wideEt et)
    let a := f.unpackZ ftz x
    let b := f.unpackZ ftz y
    match acc with
    | none => roundRes w md ftz (Num.mul a b)
    | some z => roundRes w md ftz (Num.fma md a b (w.unpackZ ftz z))
  else
    let n := etSize et
    (toBits (2 * n) (sext n x * sext n y + ((acc.getD 0 : Nat) : Int)), 0)

/-- The sum of a destination element of vdot and its active products, formed exactly and rounded once (R140). -/
def vDot (et : Nat) (md : RMode) (ftz : Bool) (acc : Nat) (ps : List (Nat × Nat)) : Nat × FFlags :=
  if etFloat et then
    let f := vfmt et
    let r := ps.foldl (fun (t : Num × FFlags) p =>
      let m := Num.mul (f.unpackZ ftz p.1) (f.unpackZ ftz p.2)
      let u := Num.add md t.1 m.1
      (u.1, t.2 ||| m.2 ||| u.2)) (let z := fp32.unpackZ ftz acc; (z, if z.isSnan then fNV else 0))
    roundRes fp32 md ftz r
  else
    let n := etSize et
    (toBits (etSize (dotEt et)) (ps.foldl (fun t p => t + sext n p.1 * sext n p.2) (acc : Int)), 0)

/-- vsradd (R141, R206, R207): MODE does not apply. -/
def vSr (et : Nat) (acc x r : Nat) : Nat × FFlags :=
  let f := vfmt et
  let s := Num.add .near (f.unpack acc) (fp32.unpack x)
  let o := f.roundSr s.1 r
  if s.2 &&& fNV ≠ 0 then (o.1, s.2) else (o.1, o.2 ||| s.2)

/-- The value and the flags of destination element `i` of an element-wise operation, its operands read from `a` (R132, R133). -/
def VJob.value (j : VJob) (a : Arch) (i : Nat) : Nat × FFlags :=
  let sz := j.sz
  let md := modeFrm j.mode
  let ftz := modeFtz j.mode
  let x := a.vEl j.va sz i
  let y := if j.s then j.sbVal.1 else a.vEl j.vb sz i
  match j.op with
  | 0x0E =>
    let top := 2 ^ (sz - 1)
    if etFloat j.et then (if j.vb = 0 then x ^^^ top else x % top, 0)
    else if j.vb = 0 then ((2 ^ sz - x) % 2 ^ sz, 0)
    else ((sext sz x).natAbs % 2 ^ sz, 0)
  | 0x0F => let r := vCmp j.et ftz (j.vc / 4) x y; (b2n r.1, r.2)
  | 0x10 => (if a.mBit j.m i then x else y, 0)
  | 0x11 => (if j.s then y else x, 0)
  | 0x12 => vCvtTo md ftz j.vb (vNum j.et ftz x)
  | 0x13 => vCvtTo md ftz j.vb ((if j.et = 0 then e4m3 else e5m2).unpackZ ftz (a.vEl j.va 8 i))
  | 0x14 => vWide j.et md ftz x y none
  | 0x15 => vWide j.et md ftz x y (some (a.vEl j.vd j.dsz i))
  | 0x16 =>
    let srcs := ((upto j.ratio).map fun t => i * j.ratio + t).filter fun t => j.active a t
    vDot j.et md ftz (a.vEl j.vd j.dsz i) (srcs.map fun t => (a.vEl j.va sz t, if j.s then j.sbVal.1 else a.vEl j.vb sz t))
  | 0x17 =>
    vSr j.et (a.vEl j.vd sz i) (a.vEl j.va 32 i) (srBits j.seed j.step (j.sc.pay.toNat % 2 ^ 32) ((j.sb.pay.toNat + i) % 2 ^ 64))
  | 0x1C =>
    let k : Int := (i : Int) + j.sb.pay.toInt
    (if 0 ≤ k ∧ k < (j.n : Int) then a.vEl j.va sz k.toNat else 0, 0)
  | 0x1D => (((Sparse.get zeroTile a.banks (j.va % 4)).toNat >>> (32 * i)) % 2 ^ 32, 0)
  | 0x1E =>
    let p := a.mBit (j.va % 8) i
    let q := a.mBit j.m i
    (match j.vb with
     | 0 => b2n (p && q)
     | 1 => b2n (p || q)
     | 2 => b2n (p != q)
     | 3 => b2n (p && !q)
     | 4 => b2n (!p)
     | _ => i % 2 ^ etSize j.m, 0)
  | op =>
    let z := a.vEl j.vc sz i
    if etFloat j.et then vFloat (vfmt j.et) md ftz op x y z else (vInt op sz x y z, 0)

/-- Does the operation write destination element `k`, when it processes source elements below `hi` (R128)? -/
def VJob.writes (j : VJob) (a : Arch) (lo hi k : Nat) : Bool :=
  (upto j.ratio).any fun t => let i := k * j.ratio + t; decide (lo ≤ i) && decide (i < hi) && j.active a i

/-- Elements `lo` to `hi − 1` of an element-wise arithmetic operation: all operands are read from the registers as they stand, then the
destination is written (log row 11). -/
def VJob.runElems (j : VJob) (a : Arch) (lo hi : Nat) : Arch × FFlags :=
  let k0 := lo / j.ratio
  ((upto (cdiv hi j.ratio - k0)).map (k0 + ·)).foldl (fun (acc : Arch × FFlags) k =>
    if j.writes a lo hi k then
      let r := j.value a k
      ((if j.maskDst then acc.1.setMBit (j.vd % 8) k (r.1 = 1) else acc.1.setVEl j.vd j.dsz k r.1), acc.2 ||| r.2)
    else acc) (a, 0)

/-! ### Whole operations (R133, R134, R142, R143) -/

/-- One combination of the reduction tree (R142). -/
def VJob.combine (j : VJob) (p q : Nat) : Nat × FFlags :=
  let md := modeFrm j.mode
  let ftz := modeFtz j.mode
  if j.op = 0x18 then
    if etFloat j.et then vFloat (vfmt j.et) md ftz 0 p q 0 else (vInt 0 j.sz p q 0, 0)
  else
    match j.vb with
    | 0 => if etFloat j.et then vFloat (vfmt j.et) md ftz 5 p q 0 else (vInt 5 j.sz p q 0, 0)
    | 1 => if etFloat j.et then vFloat (vfmt j.et) md ftz 4 p q 0 else (vInt 4 j.sz p q 0, 0)
    | 2 => (max p q, 0)
    | _ => (min p q, 0)

/-- One level of the tree: neighbours combined in pairs, an absent one passing the other (R142). -/
def treeLevel (f : Nat → Nat → Nat × FFlags) : List (Option Nat) → List (Option Nat) × FFlags
  | p :: q :: xs =>
    let r := treeLevel f xs
    match p, q with
    | none, q => (q :: r.1, r.2)
    | p, none => (p :: r.1, r.2)
    | some p, some q => let v := f p q; (some v.1 :: r.1, v.2 ||| r.2)
  | [p] => ([p], 0)
  | [] => ([], 0)

/-- The tree over `k` levels (R142). -/
def treeRun (f : Nat → Nat → Nat × FFlags) : Nat → List (Option Nat) → Option Nat × FFlags
  | 0, xs => ((xs.head?).join, 0)
  | k + 1, xs =>
    let l := treeLevel f xs
    let r := treeRun f k l.1
    (r.1, l.2 ||| r.2)

/-- A value taken out of a vector register for a scalar one, with its flags (R134): BF16 and FP16 are converted exactly, subnormals included whatever MODE.FTZ
(log row 177), and a signalling NaN among them raises NV (R196). FP64 and FP32 move bit for bit (log row 19). -/
def vextVal (et x : Nat) : Tagged × FFlags :=
  match et with
  | 0 => (⟨BitVec.ofNat 64 x, 2⟩, 0)
  | 1 => (⟨BitVec.ofNat 64 x, 3⟩, 0)
  | 2 | 3 =>
    let v := (vfmt et).unpack x
    (⟨BitVec.ofNat 64 (fp32.round .near false v).1, 3⟩, if v.isSnan then fNV else 0)
  | _ => (⟨wordOfInt (sext (etSize et) x), 0⟩, 0)

/-- A reduction's input as a floating operation reads it: the canonical NaN for a NaN, zero for a subnormal under FTZ, and NV for a signalling
NaN (R196, R529). Every other value is itself. -/
def VJob.leafVal (j : VJob) (x : Nat) : Nat × FFlags :=
  if etFloat j.et then
    let f := vfmt j.et
    let v := f.unpackZ (modeFtz j.mode) x
    (if v.isNan || v.isZero then (f.round .near false v).1 else x, if v.isSnan then fNV else 0)
  else (x, 0)

/-- A whole operation. -/
def VJob.runWhole (j : VJob) (a : Arch) : Arch × FFlags :=
  let sz := j.sz
  match j.op with
  | 0x18 | 0x19 =>
    let on := (upto j.n).map fun i => if !j.me || a.mBit j.m i then some (j.leafVal (a.vEl j.va sz i)) else none
    let r := treeRun j.combine (clog2 j.n) (on.map fun x => x.map (·.1))
    (a.setVEl j.vd sz 0 (r.1.getD 0), on.foldl (fun f x => f ||| (x.map (·.2)).getD 0) r.2)
  | 0x1A =>
    let on := (upto j.n).filter fun i => a.mBit j.m i
    ((on.foldl (fun (acc : Arch × Nat) i => (acc.1.setVEl j.vd sz acc.2 (a.vEl j.va sz i), acc.2 + 1)) (a, 0)).1, 0)
  | 0x1B =>
    let on := (upto j.n).filter fun i => a.mBit j.m i
    ((on.foldl (fun (acc : Arch × Nat) i => (acc.1.setVEl j.vd sz i (a.vEl j.va sz acc.2), acc.2 + 1)) (a, 0)).1, 0)
  | 0x1F =>
    let r := vextVal j.et (a.vEl j.va sz j.sb.pay.toNat)
    (a.setReg j.vd r.1, r.2)
  | _ =>
    let bits := (a.mreg (j.va % 8)).toNat % 2 ^ j.n
    let v := if j.vb = 5 then popCount j.n bits else (lowestSet j.n 0 bits).getD j.n
    (a.setReg j.vd ⟨BitVec.ofNat 64 v, 0⟩, 0)

/-! ### Memory operations (R145 to R149) -/

/-- The signed index that element `i` of a gather or scatter takes. -/
def VJob.index (j : VJob) (a : Arch) (i : Nat) : Int :=
  if j.s then sext 64 (a.vEl j.vb 64 i) else sext 32 (a.vEl j.vb 32 i)

/-- The address of element `i` (R146), modulo 2^64; vldm and vstm name the byte that holds the bit. -/
def VJob.addr (j : VJob) (a : Arch) (i : Nat) : Nat :=
  let rb : Int := j.sc.pay.toNat
  let off : Int :=
    match j.op with
    | 0 | 4 => ((i * (j.sz / 8) : Nat) : Int)
    | 1 | 5 => (i : Int) * j.sb.pay.toInt
    | 2 | 6 => j.index a i
    | _ => ((i / 8 : Nat) : Int)
  toBits 64 (rb + off)

/-- Bytes of one element access. -/
def VJob.bytes (j : VJob) : Nat := if j.op = 3 ∨ j.op = 7 then 1 else j.sz / 8

/-- The active elements of a memory operation from `lo` to `hi − 1`. -/
def VJob.actives (j : VJob) (a : Arch) (lo hi : Nat) : List Nat :=
  ((upto (hi - lo)).map (lo + ·)).filter fun i => j.active a i

/-- Bits of one destination element of a load, to number its slices. -/
def VJob.destBits (j : VJob) : Nat := if j.op = 3 then 1 else j.sz

/-- Does an element access go by the dandy path: a strided, gathered or scattered element in the reel tier that no L1 line of the core
holds (R150, R254)? -/
def State.dandy (s : State) (pos : Nat) (j : VJob) (ad : Nat) : Bool :=
  (j.op = 1 || j.op = 2 || j.op = 5 || j.op = 6) && decide (ad < feltBase) && !((s.coreAt pos).caches.l1Has (ad / 64))

/-- An element that goes by the dandy path waits for one of the core's 16 miss registers (R254). -/
def State.dandyWait (s : State) (pos : Nat) (j : VJob) (ad : Nat) : State :=
  if s.dandy pos j ad && decide (16 ≤ (s.coreAt pos).work.misses) then s.wait .busy else s

/-- What a vector load has found so far: the state, the slices that failed, and the address at which the first of them failed. -/
structure LoadFind where
  s : State
  failed : List Nat
  first : Option Nat

/-- One element access of a vector load: caches, corrected errors, and its slice marked as failed when data is uncorrectable; the
device posts one event for each failed slice (R156). -/
def VJob.meet (j : VJob) (pos : Nat) (a : Arch) (x : LoadFind) (i : Nat) : LoadFind :=
  let ad := j.addr a i
  let slice := i * j.destBits / 1024
  let s := x.s.dandyWait pos j ad
  if slice ∈ x.failed ∧ ((s.firstBad (some pos) ad j.bytes).isSome ∨ s.hostLost (some pos) ad) then { x with s := s }
  else
    let r := if s.dandy pos j ad then s.readMeets (s.coreWho pos) (some pos) ad j.bytes else s.coreLoad pos ad j.bytes
    if r.2 then { s := r.1, failed := addNew x.failed slice, first := some (x.first.getD ad) } else { x with s := r.1 }

/-- The registers that a memory operation reads. -/
def VJob.view (j : VJob) (a : Arch) : Arch :=
  match j.alt with
  | some (v, m) => { a with vregs := v, mregs := m }
  | none => a

/-- Elements `lo` to `hi − 1` of a vector load; a failed slice is not written (R156). -/
def State.vLoad (s : State) (pos : Nat) (j : VJob) (lo hi : Nat) : LoadFind :=
  let a := j.view (s.coreAt pos).arch
  let on := j.actives a lo hi
  let x := on.foldl (fun x i => j.meet pos a x i) { s := s, failed := [], first := none }
  let s := x.s
  let out := on.foldl (fun (acc : Arch) i =>
    if i * j.destBits / 1024 ∈ x.failed then acc
    else
      let v := s.num (some pos) (j.addr a i) j.bytes
      if j.op = 3 then acc.setMBit (j.vd % 8) i (bitAt v (i % 8)) else acc.setVEl j.vd j.sz i v) (s.coreAt pos).arch
  { x with s := s.setArch pos out }

/-- The runs of a unit-stride store: consecutive active elements inside one slice move as one write (R291; log row 12). -/
def groupRuns (per : Nat) : List Nat → List (List Nat)
  | [] => []
  | i :: is =>
    match groupRuns per is with
    | (k :: ks) :: rs => if k = i + 1 ∧ i / per = k / per then (i :: k :: ks) :: rs else [i] :: (k :: ks) :: rs
    | rs => [i] :: rs

/-- The bytes that element `i` of a store writes. -/
def VJob.elemBytes (j : VJob) (a : Arch) (i : Nat) : List Byte :=
  if j.op = 7 then [BitVec.ofNat 8 ((a.mreg (j.vd % 8)).toNat >>> (i / 8 * 8))] else leBytes (j.sz / 8) (a.vEl j.vd j.sz i)

/-- Do spans of bytes cover a 64-byte line, so that it needs no fill (R278)? -/
def wholeLine (spans : List (Nat × Nat)) (line : Nat) : Bool := (upto 64).all fun b => spans.any fun x => decide (x.1 ≤ 64 * line + b) && decide (64 * line + b < x.1 + x.2)

/-- Elements `lo` to `hi − 1` of a vector store in ascending order: bytes with tag 0xE, caches, caliper counts, and the lowest element
whose merge fails (R44, R149, R211, R520). A vstm that starts inside a byte writes the whole byte (log row 176). -/
def State.vStore (s : State) (pos : Nat) (j : VJob) (lo hi : Nat) : State × Option Nat :=
  let a := j.view (s.coreAt pos).arch
  let on := j.actives a lo hi
  let on := if j.op = 7 then on.filter fun i => i % 8 = 0 || i = lo else on
  let runs := if j.op = 4 then groupRuns (1024 / j.sz) on else on.map fun i => [i]
  let spans := runs.map fun run => (j.addr a (run.headD 0), run.length * j.bytes)
  runs.foldl (fun (acc : State × Option Nat) run =>
    let i0 := run.headD 0
    let ad := j.addr a i0
    let bs := run.flatMap (j.elemBytes a)
    let s := acc.1.dandyWait pos j ad
    let (s, bad) := if s.dandy pos j ad then s.agentStore (s.coreWho pos) (some pos) false ad bs else s.coreStore pos 0xE ad bs (wholeLine spans)
    let s :=
      if j.op = 7 then s
      else run.foldl (fun s i =>
        let e := j.addr a i
        if bad.any (fun b => decide (e ≤ b) && decide (b < e + j.sz / 8)) then s else s.count (s.countAddr pos e) (j.elemBytes a i)) s
    (s, match acc.2 with
        | some x => some x
        | none => bad.head?)) (s, none)

/-! ### Completion and stopping -/

/-- The slices of destination register groups that a failed load leaves unwritten stop every later operation that would read them: the
first element that lies in such a slice (R156). -/
def VJob.cutBy (j : VJob) (isMask : Bool) (base bits : Nat) (failed : List Nat) : VJob :=
  -- failed slices as (register, slice in the register)
  let bad := failed.map fun t => (base + t / 4, t % 4)
  let hits (b sz i : Nat) : Bool := bad.contains (b + i * sz / 4096, i * sz % 4096 / 1024)
  -- the element of va that vslide reads for element i
  let slid (i : Nat) : Bool := let k : Int := (i : Int) + j.sb.pay.toInt; decide (0 ≤ k) && decide (k < (j.n : Int)) && hits j.va j.sz k.toNat
  let o := j.toOp
  let n := j.n
  let lo := if j.whole then 0 else j.start
  let first (p : Nat → Bool) : Nat := ((upto n).find? fun i => decide (lo ≤ i) && p i).getD n
  if bits = 0 then j
  else if isMask then
    if o.msrc.contains base then { j with cut := min j.cut (first fun i => failed.contains (i / 1024)) } else j
  else
    let reads : List (Nat × Nat) :=
      if j.mem then
        (if 4 ≤ j.op ∧ j.op ≤ 6 then [(j.vd, j.sz)] else []) ++ (if j.op = 2 ∨ j.op = 6 then [(j.vb, o.ixSize)] else [])
      else
        match j.op with
        | 0x03 => [(j.va, j.sz), (j.vc, j.sz)] ++ (if j.s then [] else [(j.vb, j.sz)])
        | 0x13 => [(j.va, 8)]
        | 0x15 => [(j.va, j.sz), (j.vd, j.dsz)] ++ (if j.s then [] else [(j.vb, j.sz)])
        | 0x16 => [(j.va, j.sz)] ++ (if j.s then [] else [(j.vb, j.sz)])
        | 0x17 => [(j.va, 32), (j.vd, j.sz)]
        | 0x1D | 0x1E => []
        | 0x11 => if j.s then [] else [(j.va, j.sz)]
        | 0x07 | 0x0E | 0x12 | 0x18 | 0x19 | 0x1A | 0x1B | 0x1C | 0x1F => [(j.va, j.sz)]
        | _ => [(j.va, j.sz)] ++ (if j.s then [] else [(j.vb, j.sz)])
    let c1 := if j.op = 0x1C ∧ !j.mem then first slid else first fun i => reads.any fun r => hits r.1 r.2 i
    let c2 := if j.op = 0x16 ∧ !j.mem then first fun i => hits j.vd j.dsz (i / j.ratio) else n
    { j with cut := min j.cut (min c1 c2) }

/-- Flags ORed into VFLAGS (R138). -/
def Arch.orVflags (a : Arch) (f : FFlags) : Arch := { a with spr := { a.spr with vflags := orFlags a.spr.vflags f } }

/-- Elements `lo` to `hi − 1` of an operation of a core: registers, memory, flags, and the deferred exception of an error that they
meet. A stop or a completion calls this with the elements it covers; the answer holds the slices that a load failed to write. -/
def State.vRun (s : State) (pos : Nat) (j : VJob) (lo hi : Nat) : State × List Nat :=
  if j.mem then
    if j.op ≤ 3 then
      let x := s.vLoad pos j lo hi
      match x.first with
      | some ad => (x.s.deferExc pos 1 (if j.op = 3 then j.vd % 8 else j.vd) j.leaf ad [], x.failed)
      | none => (x.s, [])
    else
      match s.vStore pos j lo hi with
      | (s, some ad) => (s.deferExc pos 1 0 j.leaf ad [], [])
      | (s, none) => (s, [])
  else
    let a := (s.coreAt pos).arch
    let r := if j.whole then j.runWhole a else j.runElems a lo hi
    (s.setArch pos (r.1.orVflags (r.2 ||| j.sbFlags)), [])

/-- The operation at the front of a core's vector queue completes (R153, R156). -/
def State.vComplete (s : State) (pos : Nat) : State :=
  let w := (s.coreAt pos).work
  match w.vq with
  | [] => s
  | j :: rest =>
    let s := s.setWork pos { w with vq := rest }
    let hi := min j.n j.cut
    let (s, failed) :=
      if j.whole then (if hi < j.n then (s, []) else s.vRun pos j 0 j.n)
      else if j.start < hi then s.vRun pos j j.start hi
      else (s.setArch pos ((s.coreAt pos).arch.orVflags j.sbFlags), [])
    let s := s.setSpr pos { (s.coreAt pos).arch.spr with vstart := 0 }
    if failed.isEmpty then s
    else
      let w := (s.coreAt pos).work
      s.setWork pos { w with vq := w.vq.map fun q => q.cutBy (j.op = 3) (if j.op = 3 then j.vd % 8 else j.vd) j.destBits failed }

/-- An operation stopped at the first slice in which it reads a place of error: a slice of a vector register or a mask register, or 32 elements of a bank
that vaccrd reads (R144, R156, R188). -/
def VJob.cutAt (j : VJob) (e : RegErr) : VJob :=
  if e.reg < 32 then j.cutBy false e.reg 1 [e.slice]
  else if e.reg < 40 then j.cutBy true (e.reg - 32) 1 [e.slice]
  else if !j.mem && j.op = 0x1D && j.va % 4 = e.reg - 40 && decide (32 * e.slice < j.n) && decide (j.start < 32 * (e.slice + 1)) then
    { j with cut := min j.cut (max j.start (32 * e.slice)) }
  else j

/-- An error met by the front operation in a slice that it reads of the vector file, of the mask file or, for vaccrd, of a bank (R156, R188, R189): a corrected
one posts event class 0x01. An uncorrectable one stops at that slice every operation in flight that would read it, posts its event, and defers the exception of
the operation that met it. One in a bank also abandons the tile and matrix operations that have issued later, as R188 gives (log row 172). -/
def State.vRegError (s : State) (pos : Nat) (e : RegErr) : State :=
  let w := (s.coreAt pos).work
  match w.vq with
  | [] => s
  | j :: _ =>
    if (j.cutAt e).cut = j.cut then s
    else if e.corrected then s.correction 1 pos (s.lcidOf pos) 5 0 0
    else
      let bank := decide (40 ≤ e.reg)
      let stays (x : TJob) : Bool := !bank || decide (x.seq ≤ j.seq)
      let s := s.setWork pos { w with vq := w.vq.map (·.cutAt e), tq := w.tq.filter stays }
      let s := State.abandonRows pos (w.tq.filter fun x => !stays x) e.rows s
      let s := (s.post { cls := 2, sev := 2, ukind := 1, uidx := pos, lcid := s.lcidOf pos, d0 := 5 + 2 ^ 8 }).implicate pos
      s.deferExc pos 1 (if bank then 0 else if e.reg < 32 then e.reg else e.reg - 32) j.leaf 0 []

/-- The address of an element that the memory operation at the front of a core's vector queue still accesses through the caches. -/
def State.vCached (s : State) (pos elem : Nat) : Option Nat :=
  match (s.coreAt pos).work.vq with
  | [] => none
  | j :: _ =>
    let a := j.view (s.coreAt pos).arch
    let ad := j.addr a elem
    if j.mem && (j.actives a j.start (min j.n j.cut)).contains elem && !(s.dandy pos j ad) then some ad else none

/-- VECTOR_OP_COMPLETE (R153): the front operation completes, with the error that a register file or a cache has shown it (R156, R287). -/
def State.vectorEnd (s : State) (pos : Nat) (err : Option VecErr) : State :=
  match err with
  | none => s.vComplete pos
  | some (.reg e) => (s.vRegError pos e).vComplete pos
  | some (.cache elem e) =>
    match s.vCached pos elem with
    | none => s.vComplete pos
    | some ad => (s.upset pos (ad, e)).vComplete pos

/-- VECTOR_OP_COMPLETE. -/
def execVectorOpComplete (pos : Nat) (err : Option VecErr) (s : State) : Host.Outcome State Fault Refusal :=
  answer (Instr.wf (.vectorOpComplete pos err)) s fun s => s.vectorEnd pos err

end Sys2Proof.Machine
end

