-- ==== Sys2Proof/Machine/Exception.lean ====
section
/-! DEFINITION. Taking an exception and returning from one: the choice at a leaf boundary, the operations that end or stop, the frame,
the double fault and the third fault, and rfe (R94 to R120, R522 to R524). -/

namespace Sys2Proof.Machine

/-! ### Checks (R95, R113, R118) -/

/-- Do the `n` bytes at an aligned address lie wholly inside the core's own LDM, the felt tier or the mapped reel tier (R113)? -/
def State.stackPlace (s : State) (pos a : Nat) : Bool := ownLdm pos a || isFelt a || decide (a < s.capBytes)

/-- The KSP check of R113 on the 64 bytes at `a`, for a KSP with the given tag and payload: the DFSYND reason of R118 when it fails. -/
def State.kspReason (s : State) (pos : Nat) (ksp : Tagged) (a : Nat) (need : Need) : Option Nat :=
  let v := ksp.pay.toNat
  if ksp.tag ≠ 1 then some 1
  else if 2 ^ 48 ≤ v then some 2
  else if v % 64 ≠ 0 then some 3
  else if !s.stackPlace pos a then some 2
  else if (s.checkPage (some (pos / 13)) (some pos) need a).isSome then some 4
  else none

/-- The handler of code `n` when EVBA and its entry are valid (R95). A table word that cannot be corrected is no valid entry. -/
def State.handler (s : State) (pos n : Nat) : Option Nat :=
  let e := (s.coreAt pos).arch.spr.evba
  let v := e.pay.toNat
  if e.tag ≠ 1 ∨ 2 ^ 48 ≤ v ∨ v % 512 ≠ 0 ∨ !ownLdm pos v then none
  else
    let w := s.ldmWord pos (v % 2 ^ 18 / 8 + n)
    if (s.firstBad (some pos) (v + 8 * n) 8).isSome ∨ w.tag ≠ 5 ∨ 2 ^ 43 ≤ w.pay.toNat then none else some w.pay.toNat

/-- The read of a table entry by an entry, with the correctable error that it meets (R45, R95). -/
def State.handlerRead (s : State) (pos n : Nat) : State :=
  if (s.handler pos n).isNone then s else (s.readMeets (s.coreWho pos) (some pos) ((s.coreAt pos).arch.spr.evba.pay.toNat + 8 * n) 8).1

/-- The save area when DFSA passes its check (R118). -/
def State.saveArea (s : State) (pos : Nat) : Option Nat :=
  let d := (s.coreAt pos).arch.spr.dfsa
  let v := d.pay.toNat
  if d.tag = 1 ∧ v % 256 = 0 ∧ ownLdm pos v then some v else none

/-! ### Words of a frame -/

/-- Consecutive words written with their tags in LDM, and as plain bytes elsewhere (R44, R111); answers whether the write failed. -/
def State.writeWords (s : State) (pos a : Nat) (ws : List Tagged) : State × Bool :=
  if s.inOwnLdm pos a then
    let r := ws.foldl (fun (t : State × Nat) w =>
      ((t.1.coreStore pos w.tag t.2 (leBytes 8 w.pay.toNat)).1, t.2 + 8)) (s, a)
    (r.1, false)
  else
    let r := s.coreStore pos 0 a (ws.flatMap fun w => leBytes 8 w.pay.toNat)
    (r.1, !r.2.isEmpty)

/-- A word as a load of 8 bytes returns it: with its stored tag in LDM, and with tag 0xE elsewhere (R71). -/
def State.readWord (s : State) (pos a : Nat) : Tagged :=
  match s.locate (some pos) a with
  | .ldm p off => s.ldmWord p (off / 8)
  | _ => ⟨BitVec.ofNat 64 (s.num (some pos) a 8), 0xE⟩

/-- SYND (R112). -/
def Exc.synd (e : Exc) : Nat :=
  e.code + e.syl * 2 ^ 8 + b2n e.deferred * 2 ^ 13 + e.reg % 32 * 2 ^ 16 + e.kind * 2 ^ 24 + e.info * 2 ^ 32

/-- An interrupt as an exception (R96, R109). -/
def intExc (code : Nat) : Exc :=
  { code := code, kind := 0, syl := 0x1F, reg := 0, info := 0, addr := 0, next := true, deferred := false, fleaf := 0, hbk := [], xid := 0 }

/-- EPSR of a frame (R92): the fields of PSR in force with the shadow, DS and PEND. -/
def Arch.epsrNow (a : Arch) (ds : Bool) (pend : Nat) : Nat :=
  let p := a.psrNow.toNat
  fld p 0 0 + fld p 1 1 * 2 + fld p 2 2 * 4 + fld p 13 8 * 2 ^ 8 +
  (match a.flow.shadow with
   | some h => h.cnt * 2 ^ 16 + h.reg * 2 ^ 18
   | none => 0) + pend * 2 ^ 20 + b2n ds * 2 ^ 23

/-- The frame of an exception (R104, R111): EPC, EPSR, SYND, ADDR, SHOLD, SHNEW, BRSRC and FLEAF, as the flow of the core stands. -/
def Arch.frame (a : Arch) (e : Exc) (pend : Nat) : List Tagged :=
  let f := a.flow
  let (epc, ds, src) : Nat × Bool × Tagged :=
    match f.ctlOnly, f.br with
    | some (src, _), _ => (f.pc, true, src)
    | none, some b => (b.leaf, true, b.src)
    | none, none => (f.pc, false, ⟨0, 0⟩)
  let word (x : Nat) : Tagged := ⟨BitVec.ofNat 64 x, 0⟩
  let (hold, new) : Word × Word := match f.shadow with
    | some h => (h.hold, h.new)
    | none => (0, 0)
  [⟨BitVec.ofNat 64 epc, 5⟩, word (a.epsrNow ds pend), word e.synd, ⟨e.addr, 0⟩, ⟨hold, 0⟩, ⟨new, 0⟩, src, word e.fleaf]

/-! ### Operations in flight at an entry (R100 to R103, R154, R183, R522) -/

/-- Vector and tile operations of leaves other than the one with issue number `keep` run to their ends. -/
def State.finishOlder (pos : Nat) (keep : Option Nat) : Nat → State → State
  | 0, s => s
  | n + 1, s =>
    let w := (s.coreAt pos).work
    let old (q : Nat) : Bool := keep ≠ some q
    if (w.vq.head?.map (fun j => old j.seq)).getD false then State.finishOlder pos keep n (s.vComplete pos)
    else if (w.tq.head?.map (fun j => old j.seq)).getD false then State.finishOlder pos keep n (s.tileCommit pos 0)
    else s

/-- Every operation in flight, bounded by their number. -/
def State.finish (s : State) (pos : Nat) (keep : Option Nat) : State :=
  let w := (s.coreAt pos).work
  State.finishOlder pos keep (w.vq.length + w.tq.length) s

/-- The EPSR.PEND bit of a vector operation: 1 arithmetic, 2 memory (R92). -/
def VJob.pendBit (j : VJob) : Nat := if j.mem then 2 else 1

/-- The stop of the most recent leaf's operations: element-wise operations run up to element `e0`, whole operations and tile operations
are abandoned; the answer holds PEND (R101, R102, R154). An operation that would read a slice which a failed load left unwritten stops at that
slice and is not resumed (R156). `rows` rows of a tst or ast have been written (R182). Two element-wise operations of the leaf stop at one element, since
there is one VSTART (log row 138). -/
def State.stopRecent (s : State) (pos slices rows : Nat) : State × Nat :=
  let w := (s.coreAt pos).work
  let elem := w.vq.filter fun j => !j.whole
  let per := elem.foldl (fun m j => max m j.perSlice) 1
  let e0 := elem.foldl (fun m j => max m j.start) (slices * per)
  let tpend := if w.tq.isEmpty then 0 else 4
  let r := w.vq.foldl (fun (t : State × Nat) j =>
    let hi := min j.n j.cut
    if j.cut < j.n then (if !j.whole && j.start < hi then (t.1.vRun pos j j.start hi).1 else t.1, t.2)
    else if j.whole then (t.1, t.2 + j.pendBit)
    else if hi ≤ e0 then (if j.start < hi then (t.1.vRun pos j j.start hi).1 else t.1, t.2)
    else (if j.start < e0 then (t.1.vRun pos j j.start e0).1 else t.1, t.2 + j.pendBit)) (s, 0)
  let s := (State.abandonRows pos w.tq rows r.1).setWork pos { (r.1.coreAt pos).work with vq := [], tq := [] }
  let spr := (s.coreAt pos).arch.spr
  let stopped := elem.any fun j => decide (j.n ≤ j.cut) && decide (e0 < j.n)
  (if elem.isEmpty then s else s.setSpr pos { spr with vstart := if stopped then BitVec.ofNat 64 e0 else 0 }, r.2 + tpend)

/-- May an exception that names the next leaf stop the operations of the most recent leaf? Not of a branch leaf (R522), nor, for an interrupt, of a
leaf inside a shadow (R106). -/
def Flow.stoppable (f : Flow) (int : Bool) : Bool :=
  match f.prev with
  | none => false
  | some p => f.br.isNone && !(int && p.shadow.isSome)

/-- The exception that a core would take at its boundary (R110): a deferred 0x0C, then a trap of the leaf that has completed, then an
interrupt, then the fault of the next leaf. -/
def State.chosen (s : State) (pos : Nat) : Option Exc :=
  let f := (s.coreAt pos).arch.flow
  match f.deferred with
  | d :: _ => some d
  | [] =>
    match f.exc with
    | some e => if e.next then some e else
        (match s.allowedInt pos with
         | some c => some (intExc c)
         | none => some e)
    | none => (s.allowedInt pos).map intExc

/-- The flow given back to the most recent leaf, which issues again or finishes its operations after the return (R103, R107); the shadow that the leaf itself
began stays in the frame (R106). -/
def State.giveBack (s : State) (pos : Nat) : State :=
  let a := (s.coreAt pos).arch
  match a.flow.prev with
  | none => s
  | some p =>
    let fl := { a.flow with pc := p.pc, br := p.br, shadow := if p.shadow.isSome then p.shadow else a.flow.shadow }
    s.setArch pos { a with loop0 := { a.loop0 with count := p.lc0 }, loop1 := { a.loop1 with count := p.lc1 }, flow := fl }

/-- The operations in flight ended or stopped for an exception, the flow given back where its leaf has stopped midway (R103, R107), and
PEND. An exception of the next leaf lets every operation in flight run to its end (log row 139), and svc or brk with operations of its own leaf in flight gives its
leaf back as an interrupt does (log row 174). -/
def State.settleOps (s : State) (pos slices rows : Nat) (e : Exc) : State × Nat :=
  let f := (s.coreAt pos).arch.flow
  let kept : Nat := match f.ctlOnly, f.resume with
    | some (_, p), _ => p
    | none, some p => p
    | none, none => 0
  if !e.next || !f.stoppable (decide (0x20 ≤ e.code)) then (s.finish pos none, kept)
  else
    let s := s.finish pos (some f.seq)
    let (s, pend) := s.stopRecent pos slices rows
    (if pend = 0 then s else s.giveBack pos, pend)

/-! ### Entry (R114, R118, R120) -/

/-- The flow of a core that begins at a handler. -/
def Flow.atHandler (f : Flow) (h : Nat) : Flow :=
  { f with pc := h, br := none, shadow := none, resume := none, ctlOnly := none, exc := none, str := none, atCouch := false, prev := none }

/-- A core that has ended an entry: the flow at the handler, running. -/
def State.enterAt (s : State) (pos h : Nat) (spr : Spr) (df : Option (Nat × Nat)) : State :=
  let a := (s.coreAt pos).arch
  let s := s.setArch pos { a with spr := spr, flow := { a.flow.atHandler h with df := df } }
  let x := (s.coreAt pos).caches
  (s.setCaches pos { x with psBad := [] }).setStateOf pos 1

/-- A fetch that raised an exception: an illegal leaf is counted, also where its fault ends in a double or third fault (R47, R88). -/
def State.fetchFailed (s : State) (pos code L : Nat) : State :=
  let s := s.psGiveUp pos code L
  if code = 1 then s.bump (Reg.coreIllegal pos) 1 else s

/-- A double fault (R118): reason, the address of the failure, and the fetch code of reason 7. -/
def State.doubleFault (s : State) (pos : Nat) (e : Exc) (fr : List Tagged) (reason addr fetch : Nat) : State :=
  let a := (s.coreAt pos).arch
  let epc := (fr.headD ⟨0, 0⟩).pay.toNat
  match s.saveArea pos with
  | none => s.thirdFault pos 2 e.code 0x10 0x10 epc
  | some area =>
    match s.handler pos 0x10 with
    | none => s.thirdFault pos 3 e.code 0x10 0x10 epc
    | some h =>
      let word (x : Nat) : Tagged := ⟨BitVec.ofNat 64 x, 0⟩
      let ws := fr ++ [word (e.code + reason * 2 ^ 8 + fetch * 2 ^ 16), a.spr.ksp, word addr, word 0] ++ (upto 8).map fun r => a.reg r
      let r := s.writeWords pos area ws
      if r.2 then r.1.thirdFault pos 4 e.code 0x10 0x10 epc
      else
        let t := r.1.handlerRead pos 0x10
        match t.fetched pos h with
        | .wait => s.startFill pos h
        | .fault code _ => (t.fetchFailed pos code h).thirdFault pos 5 e.code 0x10 code epc
        | .leaf _ =>
          let psr := wsetFld (wsetFld (wsetFld (t.coreAt pos).arch.spr.psr 0 0 1) 1 1 0) 2 2 1
          t.enterAt pos h { (t.coreAt pos).arch.spr with psr := psr } (some (e.code, epc))

/-- Entry of an exception whose frame is known (R114). `s0` is the machine before the entry, for a fill of the handler to wait for. -/
def State.enter (s0 s : State) (pos : Nat) (e : Exc) (fr : List Tagged) : State :=
  let wait (h : Nat) : State := s0.startFill pos h
  let a := (s.coreAt pos).arch
  if wfld a.spr.psr 2 2 = 1 then
    let d := a.flow.df.getD (0, 0)
    s.thirdFault pos 1 d.1 0x10 e.code d.2
  else
    let v := a.spr.ksp.pay.toNat
    let at' := if 64 ≤ v then v - 64 else 2 ^ 48
    -- a double fault waits for its own handler leaf
    let df (s : State) (reason addr fetch : Nat) : State :=
      match s.saveArea pos, s.handler pos 0x10 with
      | some _, some h => (match s.fetched pos h with
        | .wait => wait h
        | _ => s.doubleFault pos e fr reason addr fetch)
      | _, _ => s.doubleFault pos e fr reason addr fetch
    -- the page check of KSP reads its entry (R113, R244)
    let s := if a.spr.ksp.tag = 1 ∧ v < 2 ^ 48 ∧ v % 64 = 0 ∧ s.stackPlace pos at' then s.touchPage (pos / 13) (some pos) at' else s
    match s.kspReason pos a.spr.ksp at' .write with
    | some r => df s r (if r = 1 then 0 else v - 64) 0
    | none =>
      match s.handler pos e.code with
      | none => df s 6 (a.spr.evba.pay.toNat + 8 * e.code) 0
      | some h =>
        let w := (s.handlerRead pos e.code).writeWords pos at' fr
        if w.2 then df w.1 5 at' 0
        else
          match w.1.fetched pos h with
          | .wait => wait h
          | .fault code _ => df (w.1.fetchFailed pos code h) 7 (32 * h) code
          | .leaf _ =>
            let spr := (w.1.coreAt pos).arch.spr
            let psr := wsetFld (wsetFld spr.psr 0 0 1) 1 1 0
            w.1.enterAt pos h
              { spr with ksp := ⟨spr.ksp.pay - 64, 1⟩, epc := ⟨(fr.headD ⟨0, 5⟩).pay &&& 0x7FFFFFFFFFF, 5⟩, epsr := (fr.getD 1 ⟨0, 0⟩).pay, psr := psr } none

/-- The exception in hand and its effects at the entry: its deferred record is consumed, its counters rise (R78), and tag faults and
illegal leaves are counted (R88). -/
def State.takeUp (s : State) (pos : Nat) (e : Exc) : State :=
  let f := (s.coreAt pos).arch.flow
  let s := if e.deferred then s.setFlow pos { f with deferred := f.deferred.drop 1 } else s
  let s := e.hbk.foldl (fun s k => s.hbcUp pos k) s
  if e.code = 1 then s.bump (Reg.coreIllegal pos) 1 else if e.code = 4 then s.bump (Reg.coreTagflt pos) 1 else s

/-- EXCEPTION_ENTRY (R100, R110, R114): with `slices` slices of the most recent leaf's vector operations read and `rows` rows of its tst or ast written. It
waits for outstanding loads, and a core that stands at a couch point for a request hands over first. A trap that a deferred 0x0C displaces recurs when its
leaf issues again after the return, so that the frame names that leaf with nothing pending (R100; log row 24). -/
def State.exceptionEntry (s : State) (pos slices rows : Nat) : State :=
  let c := s.coreAt pos
  let st := s.stateOf pos
  if (st ≠ 1 ∧ st ≠ 2) ∨ !c.work.loads.isEmpty ∨ c.arch.flow.atCouch then s
  else
    match s.chosen pos with
    | none => s
    | some e =>
      let (t, pend) := s.settleOps pos slices rows e
      -- an error met by operations that ran on takes the place of the exception chosen (R100, R183)
      let e := match (t.coreAt pos).arch.flow.deferred with
        | d :: _ => d
        | [] => e
      let trap := (c.arch.flow.exc.map (·.next)).getD false
      let again := trap && e.deferred
      let t := t.takeUp pos e
      let t := if again && pend = 0 then t.giveBack pos else t
      State.enter s t pos e ((t.coreAt pos).arch.frame e (if again then 0 else pend))

/-- EXCEPTION_ENTRY. -/
def execExceptionEntry (pos : Nat) (done : Progress) (s : State) : Host.Outcome State Fault Refusal :=
  answer (Instr.wf (.exceptionEntry pos done)) s fun s => s.exceptionEntry pos done.slices done.rows

/-! ### Return (R117, R119, R523) -/

/-- The frame that rfe reads: at KSP, or at DFSA in the double-fault handler (R117, R119). -/
def State.rfeBase (s : State) (pos : Nat) : Nat :=
  let spr := (s.coreAt pos).arch.spr
  if wfld spr.psr 2 2 = 1 then spr.dfsa.pay.toNat else spr.ksp.pay.toNat

/-- The place of the frame when its check fails: code, SYND.KIND and ADDR (R113, R118, R523). -/
def State.rfePlace (s : State) (pos : Nat) : Option (Nat × Nat × Nat) :=
  let spr := (s.coreAt pos).arch.spr
  let base := s.rfeBase pos
  if wfld spr.psr 2 2 = 1 then (if (s.saveArea pos).isNone then some (5, 2, base) else none)
  else if 2 ^ 48 ≤ base then some (5, 1, base)
  else
    match s.kspReason pos spr.ksp base .read with
    | none => none
    | some 4 => some (5, 3, base)
    | some _ => some (5, 2, base)

/-- The bytes that rfe reads, as addresses with lengths: the frame, and s0 to s7 of the save area (R117, R119). -/
def State.rfeReads (s : State) (pos : Nat) : List (Nat × Nat) :=
  let base := s.rfeBase pos
  (base, 64) :: (if wfld (s.coreAt pos).arch.spr.psr 2 2 = 1 then [(base + 0x60, 64)] else [])

/-- The first unit with uncorrectable data that rfe reads. -/
def State.rfeBad (s : State) (pos : Nat) : Option Nat := (s.rfeReads pos).findSome? fun r => s.firstBad (some pos) r.1 r.2

/-- What a failed check of rfe raises: code, SYND.KIND and ADDR (R523). `leaf` is the byte address of the rfe leaf. -/
def State.rfeFault (s : State) (pos leaf : Nat) : Option (Nat × Nat × Nat) :=
  let base := s.rfeBase pos
  match s.rfePlace pos with
  | some x => some x
  | none =>
    match s.rfeBad pos with
    | some _ => some (0x0C, 1, base)
    | none =>
      let epc := s.readWord pos base
      let q := (s.readWord pos (base + 8)).pay
      if s.inOwnLdm pos base ∧ epc.tag ≠ 5 then some (4, 0, 0)
      else if 2 ^ 43 ≤ epc.pay.toNat ∨ wfld q 63 24 ≠ 0 ∨ wfld q 15 14 ≠ 0 ∨ wfld q 7 3 ≠ 0 ∨ wfld q 19 18 = 3 ∨ 2 < wfld q 17 16 ∨
          wfld q 2 2 = 1 then some (1, 2, leaf)
      else none

/-- The writable bits of MODE and PSR (R83, R91). -/
def modeMask : Word := 0xFF
def psrMask : Word := 0x3F03

/-- rfe after its checks (R55, R106, R117, R119): the last effect of its leaf, with the frame, KSP, DFSA and PSR as `old` holds them, the machine before the
leaf. `after` is the shadow in which the leaf leaves the core: a mode change of the leaf itself, or a MODE shadow of an earlier leaf, goes on in the resumed
program, unless the frame brings a shadow of its own (log row 170). -/
def State.rfe (s old : State) (pos : Nat) (after : Option Shadow) : State :=
  let a := (s.coreAt pos).arch
  let base := old.rfeBase pos
  let w (i : Nat) : Tagged := old.readWord pos (base + 8 * i)
  let q := (w 1).pay
  let inDf := decide (wfld (old.coreAt pos).arch.spr.psr 2 2 = 1)
  let psr := BitVec.ofNat 64 (wfld q 0 0 + wfld q 1 1 * 2 + wfld q 13 8 * 2 ^ 8)
  let shreg := wfld q 19 18
  let mode := if shreg = 1 then (w 5).pay &&& modeMask else a.spr.mode
  let psr' := if shreg = 2 then (w 5).pay &&& psrMask else psr
  let keep := after.filter fun h => h.reg == 1
  let shadow : Option Shadow :=
    if shreg = 0 then keep
    else if wfld q 17 16 = 0 then none
    else some ⟨shreg, wfld q 17 16, (w 4).pay, (w 5).pay⟩
  let pend := wfld q 22 20
  let fl := { a.flow with pc := (w 0).pay.toNat, br := none, shadow := shadow, prev := none, df := none
                          resume := if wfld q 23 23 = 0 ∧ pend ≠ 0 then some pend else none
                          ctlOnly := if wfld q 23 23 = 1 then some (w 6, pend) else none }
  let ksp := if inDf then a.spr.ksp else ⟨a.spr.ksp.pay + 64, a.spr.ksp.tag⟩
  let a := { a with spr := { a.spr with psr := psr', mode := mode, ksp := ksp }, flow := fl }
  let a := if inDf then (upto 8).foldl (fun (x : Arch) r => x.setReg r (old.readWord pos (base + 0x60 + 8 * r))) a else a
  s.setArch pos a

end Sys2Proof.Machine
end

