-- ==== Sys2Proof/Machine/Headbox.lean ====
section
/-! DEFINITION. Headbox transfers: descriptors and their checks at issue, and the completion of a copy (R75 to R78, R332, R333, R412,
R442, R443). -/

namespace Sys2Proof.Machine

/-! ### Descriptors -/

/-- The four words of a descriptor. -/
structure Desc where
  w0 : Word
  w1 : Word
  w2 : Word
  w3 : Word
  deriving DecidableEq, Repr

def State.readDesc (s : State) (pos a : Nat) : Desc :=
  let w (i : Nat) : Word := BitVec.ofNat 64 (s.num (some pos) (a + 8 * i) 8)
  ⟨w 0, w 1, w 2, w 3⟩

def Desc.src (d : Desc) : Nat := wfld d.w0 47 0
def Desc.wm (d : Desc) : Bool := wfld d.w0 48 48 = 1
def Desc.strm (d : Desc) : Bool := wfld d.w0 49 49 = 1
def Desc.dst (d : Desc) : Nat := wfld d.w1 47 0
-- hb.copy (R76)
def Desc.rows (d : Desc) : Nat := wfld d.w2 39 20
def Desc.rowlen (d : Desc) : Nat := wfld d.w2 19 0
def Desc.srcStride (d : Desc) : Int := sext 32 (wfld d.w3 31 0)
def Desc.dstStride (d : Desc) : Int := sext 32 (wfld d.w3 63 32)
-- hb.fab (R332)
def Desc.kind (d : Desc) : Nat := wfld d.w0 63 62
def Desc.num (d : Desc) : Nat := wfld d.w2 43 32
def Desc.len (d : Desc) : Nat := wfld d.w2 31 0
def Desc.occ (d : Desc) : Nat := wfld d.w3 31 0

/-- Is a reserved field not zero? -/
def Desc.reserved (d : Desc) (fab : Bool) : Bool :=
  wfld d.w1 63 48 ≠ 0 ||
  (if fab then wfld d.w0 61 50 ≠ 0 || wfld d.w2 63 44 ≠ 0 || wfld d.w3 63 32 ≠ 0 else wfld d.w0 63 50 ≠ 0 || wfld d.w2 63 40 ≠ 0)

/-- Where row `r` starts (R76). -/
def rowStart (base : Nat) (stride : Int) (r : Nat) : Nat := toBits 64 ((base : Int) + (r : Int) * stride)

/-- The ranges that a transfer reads and those that it writes, as addresses with lengths. -/
def State.descRanges (s : State) (fab : Bool) (d : Desc) : List (Nat × Nat) × List (Nat × Nat) :=
  if fab then
    if d.kind = 2 ∨ d.len = 0 then ([], [])
    else
      ([(d.src, d.len)],
       if d.kind = 1 ∧ d.dst ≠ 0 then
         (match s.collOf d.num with
          | some k => k.resultRanges d.dst
          | none => [(d.dst, d.len)])
       else [])
  else if d.rows = 0 ∨ d.rowlen = 0 then ([], [])
  else
    ((upto d.rows).map fun r => (rowStart d.src d.srcStride r, d.rowlen),
     (upto d.rows).map fun r => (rowStart d.dst d.dstStride r, d.rowlen))

/-- The addresses at which a range is checked: its first byte, every 256 KiB boundary, and its last byte. -/
def checkPoints (a n : Nat) : List Nat :=
  if n = 0 then []
  else ((upto ((a + n - 1) / 2 ^ 18 - a / 2 ^ 18 + 1)).map fun i => if i = 0 then a else (a / 2 ^ 18 + i) * 2 ^ 18) ++ [a + n - 1]

/-- The first address of a range at which a transfer's page check fails (R77); CSR space has no page. -/
def State.rangeFail (s : State) (pos : Nat) (need : Need) (a n : Nat) : Option Nat :=
  (checkPoints a n).find? fun x => inCsr x || (s.rangeKind pos need x).isSome

/-- The 4 KiB blocks of a range. -/
def blocksOf (a n : Nat) : List Nat := (upto (cdiv n 4096)).map fun i => a + 4096 * i

/-- The first shadow address of the watermarked blocks of a range whose page check fails (R442). -/
def State.shadowFail (s : State) (pos : Nat) (ws : List WmWin) (need : Need) (a n : Nat) : Option Nat :=
  (blocksOf a n).findSome? fun b => (shadowOf ws b).bind fun sh => if (s.rangeKind pos need sh).isSome then some sh else none

/-- The first misaligned address of a transfer (R76, R333). -/
def Desc.misaligned (d : Desc) (fab : Bool) : Option Nat :=
  if fab then
    let g := if d.wm then 4096 else 256
    if d.kind = 2 then none
    else if d.src % g ≠ 0 ∨ d.len % g ≠ 0 then some d.src
    else if d.dst % g ≠ 0 then some d.dst
    else none
  else if d.wm then
    if d.rowlen % 4096 ≠ 0 ∨ (0 < d.rows ∧ d.src % 4096 ≠ 0) ∨ (1 < d.rows ∧ d.srcStride % 4096 ≠ 0) then some d.src
    else if (0 < d.rows ∧ d.dst % 4096 ≠ 0) ∨ (1 < d.rows ∧ d.dstStride % 4096 ≠ 0) then some d.dst
    else none
  else none

/-- The exceptions that hb.copy or hb.fab meets with a descriptor register of tag 0x4, as code, SYND.KIND and ADDR (R76, R77, R90, R332,
R333): the descriptor must lie in LDM, 32-byte aligned, as for mkdesc (R521). -/
def State.hbFaults (s : State) (pos : Nat) (user fab : Bool) (p : Nat) : List (Nat × Nat × Nat) :=
  if 2 ^ 48 ≤ p then [(5, 1, p)]
  else
    match s.locate (some pos) p with
    | .ldm _ _ =>
      if p % 32 ≠ 0 then [(6, 0, p)]
      else if (s.firstBad (some pos) p 32).isSome then [(0x0C, 1, p)]
      else
        let d := s.readDesc pos p
        let rs := s.descRanges fab d
        let all := rs.1 ++ rs.2
        let ws := if d.wm then s.wins else []
        let fail := (rs.1.findSome? fun r => s.rangeFail pos .read r.1 r.2).orElse fun _ =>
          (rs.2.findSome? fun r => s.rangeFail pos .write r.1 r.2).orElse fun _ =>
          (rs.1.findSome? fun r => s.shadowFail pos ws .read r.1 r.2).orElse fun _ =>
          (rs.2.findSome? fun r => s.shadowFail pos ws .write r.1 r.2)
        (if fab ∧ d.kind = 3 then [(1, 2, 0)] else if d.reserved fab then [(1, 6, 0)] else []) ++
        (if user then
           (match all.findSome? fun r => (checkPoints r.1 r.2).find? inCsr with
            | some a => [(2, 0, a)]
            | none => [])
         else []) ++
        (match fail with
         | some a => [(5, 5, a)]
         | none => []) ++
        (match d.misaligned fab with
         | some a => [(6, 0, a)]
         | none => [])
    | _ => [(5, 2, p)]

/-- An address as the headbox keeps it: the core's view of its own LDM becomes the logical window of its slot (R412). -/
def State.resolve (s : State) (pos a : Nat) : Nat :=
  if ownBase ≤ a ∧ a < ownBase + 2 ^ 18 then logBase + s.lcidOf pos * 2 ^ 18 + (a - ownBase) else a

/-- hb.copy and hb.fab take effect at the issue of their leaf (R77), with the descriptor as the checks have read it: the transfer is queued, and starts or
completes where nothing holds it. -/
def State.hbQueue (s : State) (pos : Nat) (fab : Bool) (k : Nat) (d : Desc) (leaf : Nat) : State :=
  let lcid := s.lcidOf pos
  let ws := if d.wm then s.wins else []
  let x : Xfer :=
    { xid := s.fab.nextXid, lcid := lcid, kind := if fab then (match d.kind with | 0 => 1 | 1 => 2 | _ => 3) else 0, leaf := leaf, k := k, wm := d.wm
      strm := d.strm, src := s.resolve pos d.src, dst := s.resolve pos d.dst, rowlen := if fab then 0 else d.rowlen, rows := if fab then 0 else d.rows
      srcStride := if fab then 0 else d.srcStride, dstStride := if fab then 0 else d.dstStride, num := if fab then d.num else 0
      len := if fab then d.len else 0, occ := if fab then d.occ else 0, wins := ws, begun := false, bad := false }
  let s := { s with fab := { s.fab with nextXid := s.fab.nextXid + 1 } }
  let s := s.modCore pos fun c => { c with work := { c.work with hbq := c.work.hbq ++ [x] } }
  if fab then s.startFab (pos / 13) x
  else if d.rows = 0 ∨ d.rowlen = 0 then s.xferDone x.xid
  else s

/-! ### A copy (R78, R442, R443) -/

/-- The pieces of a source row that single requests of 128 bytes read, as offsets with lengths. -/
def requestsOf (a n : Nat) : List (Nat × Nat) :=
  if n = 0 then []
  else (upto ((a + n - 1) / 128 - a / 128 + 1)).map fun i =>
    let lo := if i = 0 then a else (a / 128 + i) * 128
    let hi := min (a + n) ((a / 128 + i + 1) * 128)
    (lo - a, hi - lo)

/-- A write that a copy is still to make: destination, bytes, the row it belongs to, and whether the block's watermark follows it. -/
structure CopyWrite where
  row : Nat
  sa : Nat
  da : Nat
  bytes : List Byte
  deriving DecidableEq, Repr

/-- A copy that reads: the state, the writes that it will make, in ascending order, and the destination blocks that take a watermark. -/
structure CopyRead where
  s : State
  out : List CopyWrite
  marks : List Nat

/-- One request of a copy read: bad or unreachable data leaves its destination bytes as they are (R78, R381). -/
def CopyRead.request (x : Xfer) (row sa da n : Nat) (c : CopyRead) : CopyRead :=
  let r := c.s.requestMeets (hbWho x.lcid) none sa n
  if r.2 ∨ r.1.hostLost none sa then { c with s := r.1.xferFault x 1 sa }
  else { c with s := r.1, out := c.out ++ [⟨row, sa, da, r.1.bytes none sa n⟩] }

/-- A block of a watermarked copy read, checked where a window guards its source (R442, R443). Data that cannot be corrected fails the check, and so does a
shadow word that cannot be read. -/
def CopyRead.block (x : Xfer) (row sa da : Nat) (c : CopyRead) : CopyRead :=
  let w := hbWho x.lcid
  let pos := (c.s.posOf x.lcid).getD 0
  if (shadowOf x.wins sa).isNone then
    let c := (requestsOf sa 4096).foldl (fun c p => CopyRead.request x row (sa + p.1) (da + p.1) p.2 c) c
    { c with marks := c.marks ++ [da] }
  else
    let r := c.s.readMeets w none sa 4096
    let q := r.1.wmCheck w x.wins none sa
    let stored := q.1.num none ((shadowOf x.wins sa).getD 0) 4
    let miss (s : State) (comp : Nat) : CopyRead := { c with s := (s.wmMiss x.lcid 1 pos sa stored comp 1).xferFault x 2 sa }
    let bad := r.2 || decide (q.2 = .bad)
    match bad, q.2 with
    | true, _ => let (n, s) := q.1.freeDraw; miss s ((Config.freeWord n).toNat % 2 ^ 32)
    | false, .miss _ comp => miss q.1 comp
    | false, _ =>
      { s := q.1, marks := c.marks ++ [da]
        out := c.out ++ ((requestsOf sa 4096).map fun p => ⟨row, sa + p.1, da + p.1, q.1.bytes none (sa + p.1) p.2⟩) }

/-- One row of a copy read. -/
def CopyRead.row (x : Xfer) (c : CopyRead) (r : Nat) : CopyRead :=
  let sa := rowStart x.src x.srcStride r
  let da := rowStart x.dst x.dstStride r
  if x.wm then (upto (x.rowlen / 4096)).foldl (fun c i => CopyRead.block x r (sa + 4096 * i) (da + 4096 * i) c) c
  else (requestsOf sa x.rowlen).foldl (fun c p => CopyRead.request x r (sa + p.1) (da + p.1) p.2 c) c

/-- Bytes written behind the last run of a row join it when they follow it; a run holds its row, its address and its bytes. -/
def addRun (rs : List (Nat × Nat × List Byte)) (row a : Nat) (bs : List Byte) : List (Nat × Nat × List Byte) :=
  match rs.reverse with
  | (row', a', bs') :: before => if row' = row ∧ a' + bs'.length = a then before.reverse ++ [(row, a', bs' ++ bs)] else rs ++ [(row, a, bs)]
  | [] => [(row, a, bs)]

/-- One write of a copy; a merge that fails stores nothing of it (R78, R520). -/
def State.copyWrite (x : Xfer) (c : State × List (Nat × Nat × List Byte)) (o : CopyWrite) : State × List (Nat × Nat × List Byte) :=
  let (s, bad) := c.1.agentStore (hbWho x.lcid) none x.strm o.da o.bytes
  match bad with
  | [] => (s, addRun c.2 o.row o.da o.bytes)
  | b :: _ => (s.xferFault x 1 b, c.2)

/-- A copy (R77, R78, R211, R442): every source byte is read before any destination byte is written, so that each destination byte receives its source byte's
original value (log row 137). The writes count in the caliper slots row by row, and a guarded block takes the watermark of what it now holds. -/
def State.copyAll (s : State) (x : Xfer) : State :=
  let c := (upto x.rows).foldl (fun c r => CopyRead.row x c r) (⟨s, [], []⟩ : CopyRead)
  let r := c.out.foldl (fun t o => State.copyWrite x t o) (c.s, [])
  let s := r.2.foldl (fun s p => s.count p.2.1 p.2.2) r.1
  if x.wm then
    c.marks.foldl (fun s da =>
      let r := s.wmStore (hbWho x.lcid) x.wins da (watermark (s.bytes none da 4096))
      match r.2 with
      | some b => r.1.xferFault x 1 b
      | none => r.1) s
  else s

/-- HEADBOX_TRANSFER_COMPLETE (R77): transfer `idx` of a position's headbox completes, in any order, when it is a copy. Sends, slot releases and
contributions end where the fabric carries them out (R335, R337, R341). -/
def State.headboxComplete (s : State) (pos idx : Nat) : State :=
  match (s.coreAt pos).work.hbq[idx]? with
  | none => s
  | some x => if x.kind ≠ 0 then s else (s.copyAll x).xferDone x.xid

/-- HEADBOX_TRANSFER_COMPLETE. -/
def execHeadboxTransferComplete (pos idx : Nat) (s : State) : Host.Outcome State Fault Refusal :=
  answer (Instr.wf (.headboxTransferComplete pos idx)) s fun s => s.headboxComplete pos idx

end Sys2Proof.Machine
end

