-- ==== Sys2Proof/Machine/Sequence.lean ====
section
/-! DEFINITION. The choice of the next leaf (R65 to R68) and the counting down of a mode shadow (R69). -/

namespace Sys2Proof.Machine

/-- A loop level after leaf `a` at a privilege: whether it is active there, whether it sends the core back, and its registers (R67). -/
def Loop.pass (l : Loop) (priv : Bool) (a : Nat) : Bool × Bool × Loop :=
  if l.count ≠ 0 ∧ l.p = priv ∧ l.le.pay.toNat = a then (true, decide (l.count ≠ 1), { l with count := l.count - 1 })
  else (false, false, l)

/-- Is a level active at a privilege (R68)? -/
def Loop.active (l : Loop) (priv : Bool) : Bool := l.count ≠ 0 && l.p == priv

/-- A shadow after one more leaf has completed (R69). -/
def Shadow.next (h : Option Shadow) : Option Shadow :=
  h.bind fun x => if x.cnt ≤ 1 then none else some { x with cnt := x.cnt - 1 }

/-- The next leaf after leaf `a` has completed at a privilege: the target of the branch whose delay leaf it is, or the loop-back of the inner
level, then of the outer level, or the leaf that follows (R67). The registers after the leaf's own effects are in `x`. -/
def Arch.nextLeaf (x : Arch) (priv : Bool) (a : Nat) (br : Option BrCtx) : Arch :=
  match br.bind (·.target) with
  | some t => { x with flow := { x.flow with pc := t, br := none } }
  | none =>
    let i := x.loop1.pass priv a
    if i.2.1 then { x with loop1 := i.2.2, flow := { x.flow with pc := x.loop1.ls.pay.toNat % 2 ^ 43, br := none } }
    else
      let o := x.loop0.pass priv a
      let pc := if o.2.1 then x.loop0.ls.pay.toNat % 2 ^ 43 else (a + 1) % 2 ^ 43
      { x with loop1 := i.2.2, loop0 := o.2.2, flow := { x.flow with pc := pc, br := none } }

/-- The end of a leaf that is no control operation with a delay leaf: what an entry would give back is kept, the next leaf is chosen, and
the shadow of earlier leaves counts down. `before` is the flow under which the leaf ran. -/
def Arch.endLeaf (x : Arch) (priv : Bool) (before : Flow) (shadow : Option Shadow) : Arch :=
  let p : Prev := { pc := before.pc, lc0 := x.loop0.count, lc1 := x.loop1.count, br := before.br, shadow := before.shadow }
  let x := x.nextLeaf priv before.pc before.br
  { x with flow := { x.flow with prev := some p, resume := none, str := none, shadow := shadow } }

end Sys2Proof.Machine
end

