-- ==== Sys2Proof/Machine/LoadString.lean ====
section
/-! DEFINITION. Scalar loads, stores and atomics, the return of a load, and the steps of a string operation (R70 to R74, R99, R298, R520). -/

namespace Sys2Proof.Machine

/-! ### Loads -/

/-- Bytes of a scalar memory opcode (R70). -/
def memSize (op : Nat) : Nat :=
  match op with
  | 0x00 | 0x01 | 0x10 => 1
  | 0x02 | 0x03 | 0x11 => 2
  | 0x04 | 0x05 | 0x08 | 0x12 => 4
  | _ => 8

/-- What a load of an opcode returns (R70, R71). -/
def State.loadValue (s : State) (pos op a : Nat) : Tagged :=
  let n := memSize op
  let v := s.num (some pos) a n
  match op with
  | 0x00 | 0x02 | 0x04 => ⟨wordOfInt (sext (8 * n) v), 0⟩
  | 0x01 | 0x03 | 0x05 => ⟨BitVec.ofNat 64 v, 0⟩
  | 0x07 => ⟨BitVec.ofNat 64 v, 2⟩
  | 0x08 => ⟨BitVec.ofNat 64 v, 3⟩
  | _ =>
    match s.locate (some pos) a with
    | .ldm p off => s.ldmWord p (off / 8)
    | _ => ⟨BitVec.ofNat 64 v, 0xE⟩

/-- The stored tag that a load or an atomic does not accept (R71, R72). -/
def State.storedTagBad (s : State) (pos op a : Nat) : Bool :=
  match s.locate (some pos) a with
  | .ldm p off =>
    let t := (s.ldmWord p (off / 8)).tag
    if op = 7 then t ≠ 2 && t ≠ 0xE else if op = 8 then t ≠ 3 && t ≠ 0xE else if 0x18 ≤ op then t ≠ 0 && t ≠ 0xE else false
  | _ => false

/-- The new word of an atomic (R70, R72). -/
def amoNew (op : Nat) (old v want : Word) : Word :=
  match op with
  | 0x18 => old + v
  | 0x19 => old &&& v
  | 0x1A => old ||| v
  | 0x1B => old ^^^ v
  | 0x1C => v
  | 0x1D => if old = want then v else old
  | 0x1E => if old.toInt ≤ v.toInt then v else old
  | _ => if old.toInt ≤ v.toInt then old else v

/-- The caches that an atomic meets: the issuing cluster's L2 obtains the only copy of a cacheable line (R298). A line with a sector that cannot be
corrected is not kept, and the atomic is performed in memory. -/
def State.amoTouch (s : State) (pos a : Nat) : State :=
  let c := pos / 13
  if !(s.held (some pos) a) && (s.firstBad (some pos) (a / 128 * 128) 128).isSome then s
  else
    let s := if s.fills pos a then s.fillMeets (s.coreWho pos) (some pos) a 0 else s
    (s.takeLine none (onlyClu c) (a / 128)).l2Access c (a / 128) (s.pageStrm (some c) (some pos) a) true

/-- An atomic performed on memory: the old word, indivisibly replaced (R72). It is performed in its L2, or in the memory where the caches take no copy (R298). -/
def State.amo (s : State) (pos a : Nat) (m : Amo) : State × Word :=
  let s := s.shed (s.coreWho pos) (some pos) a 8
  let old := BitVec.ofNat 64 (s.num (some pos) a 8)
  let new := leBytes 8 (amoNew m.op old m.opnd m.want).toNat
  let w := s.coreWho pos
  let r := if s.cacheKind pos a = 0 then s.agentStore w (some pos) true a new 0 else (s.amoTouch pos a).store w (some pos) 0 a new
  (r.1, old)

/-- A scalar register of a position written. -/
def State.putReg (s : State) (pos key : Nat) (v : Tagged) : State := s.setArch pos ((s.coreAt pos).arch.setReg key v)

/-- What the return of a load meets, from its storage unit or from the cache that supplies it: the state, and whether its data is uncorrectable. An atomic
that met bad data at issue has reported it; a load that was read before its unit was written anew reports the unit now (R252). -/
def State.returnMeets (s : State) (pos : Nat) (l : OutLoad) (err : LoadErr) : State × Bool :=
  if l.amo && l.bad then (s, true)
  else
    let t := match err with
      | .unit e => s.plant (s.locate (some pos) l.addr) e
      | .cache e => s.upset pos (l.addr, e)
    let w := { s.coreWho pos with queued := l.req.isSome }
    let r := t.readMeets w (some pos) l.addr l.size
    if l.bad && !r.2 then
      ((match (s.locate (some pos) l.addr).unit with
        | some u => r.1.metBad w.agent w.lcid u
        | none => r.1), true)
    else r

/-- LOAD_RETURN (R99, R520): load or atomic `idx` returns its value, unless its request waits in a replay queue (R256). Data that cannot be
corrected writes payload 0 with tag 0xF and raises a deferred 0x0C; an atomic that meets it leaves the memory word as it was. -/
def State.loadReturn (s : State) (pos idx : Nat) (err : LoadErr) : State :=
  let w := (s.coreAt pos).work
  match w.loads[idx]? with
  | none => s
  | some l =>
    if s.replaying l.req then s
    else
      let s := (s.bankServed l.req).setWork pos { w with loads := dropAt w.loads idx }
      let (t, bad) := s.returnMeets pos l err
      if bad then
        let t := if l.amo && !l.bad then t.setBytes (some pos) 0 l.addr (leBytes 8 l.val.pay.toNat) else t
        (t.putReg pos l.reg emptyTagged).deferExc pos 1 (if l.reg = 32 then 31 else l.reg) l.leaf l.addr []
      else
        let t := if l.fill && t.fills pos l.addr then t.fillMeets { t.coreWho pos with queued := l.req.isSome } (some pos) l.addr l.size else t
        (if !l.fill then t else if t.cacheKind pos l.addr = 1 then t.coreFilled pos l.addr else t.loadTouch pos l.addr).putReg pos l.reg l.val

/-- LOAD_RETURN. -/
def execLoadReturn (pos idx : Nat) (err : LoadErr) (s : State) : Host.Outcome State Fault Refusal :=
  answer (Instr.wf (.loadReturn pos idx err)) s fun s => s.loadReturn pos idx err

/-! ### String operations (R73, R74) -/

/-- The failures of the pages that a string step touches, as code, SYND.KIND and address (R74, R90). -/
def State.stringFaults (s : State) (pos : Nat) (user : Bool) (need : Need) (a n : Nat) : List (Nat × Nat × Nat) :=
  if n = 0 then []
  else
    ([a, a + n - 1].findSome? fun x => if user && inCsr x then some (2, 0, x) else none).toList ++
    ([a, a + n - 1].findSome? fun x => (s.rangeKind pos need x).map fun k => (5, k, x)).toList ++
    ([a, a + n - 1].findSome? fun x => if inCsr x then some (6, 0, x) else none).toList

/-- The bytes of a string move, as if copied one at a time in ascending order: a source byte that the step has already written is read as
written (R73). -/
def State.moveBytes (s : State) (pos src dst : Nat) : Nat → List Byte
  | 0 => []
  | n + 1 =>
    let done := s.moveBytes pos src dst n
    let l := s.locate (some pos) (src + n)
    let hit := (upto n).reverse.find? fun j => s.locate (some pos) (dst + j) = l
    done ++ [match hit with
      | some j => done.getD j 0
      | none => s.byteAt l]

/-- The bytes of one step: up to the next 64-byte boundary of rt (R74). -/
def strCount (rt rc : Nat) : Nat := min rc (64 - rt % 64)

/-- The faults of the next step of a string operation. -/
def State.stepFaults (s : State) (pos : Nat) (o : StrOp) : List (Nat × Nat × Nat) :=
  let a := (s.coreAt pos).arch
  let user := !a.priv
  let rt := (a.reg o.rt).pay.toNat
  let rs := (a.reg o.rs).pay.toNat
  let n := strCount rt (a.reg o.rc).pay.toNat
  s.stringFaults pos user (if o.op = 0x0E then .read else .write) rt n ++ (if o.op = 0x0C then s.stringFaults pos user .read rs n else [])

/-- The bytes of a step that sscan looks at, from `t`: up to its match, or all `n` (R74). -/
def State.scanLen (s : State) (pos t n : Nat) (b : Byte) : Nat :=
  match (upto n).find? fun i => s.byte (some pos) (t + i) = b with
  | some i => i + 1
  | none => n

/-- The source bytes that the next step of a string operation reads: first address and count. -/
def State.stepReads (s : State) (pos : Nat) (o : StrOp) : Nat × Nat :=
  let a := (s.coreAt pos).arch
  let rt := (a.reg o.rt).pay.toNat
  let rs := (a.reg o.rs).pay
  let n := strCount rt (a.reg o.rc).pay.toNat
  match o.op with
  | 0x0C => (rs.toNat, n)
  | 0x0D => (rt, 0)
  | _ => (rt, s.scanLen pos rt n (BitVec.setWidth 8 rs))

/-- The page checks of the next step of a string operation (R74, R244). -/
def State.stepPages (s : State) (pos : Nat) (o : StrOp) : State :=
  let a := (s.coreAt pos).arch
  let rt := (a.reg o.rt).pay.toNat
  let n := strCount rt (a.reg o.rc).pay.toNat
  let s := s.touchRange (pos / 13) (some pos) rt n
  if o.op = 0x0C then s.touchRange (pos / 13) (some pos) (a.reg o.rs).pay.toNat n else s

/-- Uncorrectable data that the next step reads, with the unit that holds it; host memory cannot be read while the link is down (R381). -/
def State.stepBad (s : State) (pos : Nat) (o : StrOp) : Option (Nat × Option Nat) :=
  let r := s.stepReads pos o
  match s.firstBad (some pos) r.1 r.2 with
  | some u => some (r.1, some u)
  | none => if r.2 ≠ 0 ∧ (s.hostLost (some pos) r.1 ∨ s.hostLost (some pos) (r.1 + r.2 - 1)) then some (r.1, none) else none

/-- The bytes that a step reads: the errors that they meet, and the caches, line by line. -/
def State.stepLoad (s : State) (pos a n : Nat) : State :=
  if n = 0 then s
  else
    let k := min n (64 - a % 64)
    let s := (s.coreLoad pos a k).1
    if k < n then (s.coreLoad pos (a + k) (n - k)).1 else s

/-- One step of a string operation (R73, R74): the state with the registers advanced, and whether the operation is done. -/
def State.strStep (s : State) (pos : Nat) (o : StrOp) : State × Bool :=
  let a := (s.coreAt pos).arch
  let rt := a.reg o.rt
  let rs := a.reg o.rs
  let rc := a.reg o.rc
  let t := rt.pay.toNat
  let n := strCount t rc.pay.toNat
  let adv (s : State) (k : Nat) : State :=
    let up (x : Tagged) : Tagged := ⟨x.pay + BitVec.ofNat 64 k, x.tag⟩
    let s := (s.putReg pos o.rt (up rt)).putReg pos o.rc ⟨rc.pay - BitVec.ofNat 64 k, rc.tag⟩
    if o.op = 0x0C then s.putReg pos o.rs (up rs) else s
  let write (s : State) (bs : List Byte) : State :=
    let r := s.coreStore pos 0xE t bs
    match r.2 with
    | b :: _ => r.1.deferExc pos 1 0 (s.coreAt pos).arch.flow.pc b []
    | [] => r.1
  let rest := decide (rc.pay.toNat = n)
  match o.op with
  | 0x0C =>
    let bs := s.moveBytes pos rs.pay.toNat t n
    (adv (write (s.stepLoad pos rs.pay.toNat n) bs) n, rest)
  | 0x0D => (adv (write s (List.replicate n (BitVec.setWidth 8 rs.pay))) n, rest)
  | _ =>
    let m := s.scanLen pos t n (BitVec.setWidth 8 rs.pay)
    let s := s.stepLoad pos t m
    match (upto n).find? fun i => s.byte (some pos) (t + i) = BitVec.setWidth 8 rs.pay with
    | some i => (adv s i, true)
    | none => (adv s n, rest)

/-- The lowest fault of a list, by code and then in order (R56). -/
def lowestFault : List (Nat × Nat × Nat) → Option (Nat × Nat × Nat)
  | [] => none
  | f :: fs =>
    match lowestFault fs with
    | none => some f
    | some g => if g.1 < f.1 then some g else some f

/-- An exception of the leaf that a core was to issue (R96). -/
def leafExc (code kind syl reg : Nat) (addr : Nat) : Exc :=
  { code := code, kind := kind, syl := syl, reg := reg, info := 0, addr := BitVec.ofNat 64 addr, next := false, deferred := false, fleaf := 0
    hbk := [], xid := 0 }

/-- STRING_STEP (R74): the string leaf that a core has issued proceeds by one step. A fault leaves the step undone; an exception that waits is
taken between steps. -/
def State.stringStep (s : State) (pos : Nat) : State :=
  let f := (s.coreAt pos).arch.flow
  match f.str with
  | none => s
  | some o =>
    if s.stateOf pos ≠ 1 ∨ f.exc.isSome ∨ !f.deferred.isEmpty ∨ (s.allowedInt pos).isSome then s
    else
      let s := s.stepPages pos o
      match lowestFault (s.stepFaults pos o) with
      | some (code, kind, addr) => s.setFlow pos { f with str := none, exc := some (leafExc code kind o.syl 0 addr) }
      | none =>
        match s.stepBad pos o with
        | some (addr, u) =>
          (match u with
           | some u => (s.metBad 1 (s.lcidOf pos) u).tagLost u
           | none => s).setFlow pos { f with str := none, exc := some (leafExc 0x0C 1 o.syl 0 addr) }
        | none =>
          let priv := (s.coreAt pos).arch.priv
          let r := s.strStep pos o
          if r.2 then r.1.setArch pos ((r.1.coreAt pos).arch.endLeaf priv { f with str := none } (Shadow.next f.shadow)) else r.1

/-- STRING_STEP. -/
def execStringStep (pos : Nat) (s : State) : Host.Outcome State Fault Refusal :=
  answer (Instr.wf (.stringStep pos)) s fun s => s.stringStep pos

end Sys2Proof.Machine
end

