-- ==== Sys2Proof/Machine/Orb.lean ====
section
/-! DEFINITION. Ordered-reduction buffers, the return of a data prefetch, and the answers that pass between host and device caches (R285, R286, R292,
R299 to R304). -/

namespace Sys2Proof.Machine

/-- The configuration of an ORB, with ELEMS and NCON as counts (R304). -/
structure OrbCfg where
  elems : Nat
  ncon : Nat
  wm : Bool
  acc : Bool
  fmt : Nat
  cb : Nat
  stage : Nat
  dst : Nat
  deriving DecidableEq, Repr

def State.orbCfg (s : State) (c j : Nat) : OrbCfg :=
  let w := s.cur (Reg.orbCtrl c j)
  { elems := wfld w 43 24 + 1, ncon := wfld w 17 12 + 1, wm := decide (wfld w 4 4 = 1), acc := decide (wfld w 3 3 = 1), fmt := wfld w 2 1
    cb := s.fld (Reg.orbCb c j) 47 6 * 64, stage := s.fld (Reg.orbStage c j) 47 6 * 64, dst := s.fld (Reg.orbDst c j) 47 6 * 64 }

/-- Bytes of an element. -/
def OrbCfg.sz (o : OrbCfg) : Nat := if o.fmt = 0 then 4 else 8

/-- The address of slice `k` of the stage (R299). -/
def OrbCfg.slice (o : OrbCfg) (k : Nat) : Nat := o.stage + k * o.elems * o.sz

/-- An ORB of a cluster as the agent of an access. -/
def orbWho (c : Nat) : Who := { agent := 4, clu := c }

/-- The errors that the checks of R222 find for an ORB (R301, R302). -/
def State.orbBadRange (s : State) (c : Nat) (o : OrbCfg) : Bool :=
  let n := o.elems * o.sz
  let page (need : Need) (a n : Nat) : Bool := !(s.calInside a n) || (s.checkRange (some c) none need a n).isSome
  page .read o.cb 64 || page .write o.cb 64 || page .read o.stage (n * o.ncon) || page .write o.dst n || (o.acc && page .read o.dst n) ||
    (decide (o.dst < o.stage + n * o.ncon) && decide (o.stage < o.dst + n)) ||
    (o.wm && (n % 4096 ≠ 0 || o.stage % 4096 ≠ 0 || o.dst % 4096 ≠ 0))

/-- One addition in the format of an ORB: bits and flags (R301). -/
def orbAdd (fmt x y : Nat) : Nat × FFlags :=
  if fmt = 2 then ((x + y) % 2 ^ 64, 0)
  else
    let f := if fmt = 0 then fp32 else fp64
    roundRes f .near false (Num.add .near (f.unpack x) (f.unpack y))

/-- The sources of an element: the destination first when it takes part, then the slices in fixed order. -/
def OrbCfg.srcs (o : OrbCfg) (e : Nat) : List Nat :=
  (if o.acc then [o.dst + o.sz * e] else []) ++ (upto o.ncon).map fun k => o.slice k + o.sz * e

/-- The first term of a sum: the canonical NaN for a NaN, with NV for a signalling one (R196). -/
def orbTerm (fmt x : Nat) : Nat × FFlags :=
  if fmt = 2 then (x, 0)
  else
    let f := if fmt = 0 then fp32 else fp64
    let v := f.unpack x
    (if v.isNan then f.nanBits else x, if v.isSnan then fNV else 0)

/-- The sum of an element in fixed order. -/
def orbSum (fmt : Nat) : List Nat → Nat × FFlags
  | [] => (0, 0)
  | x :: xs => xs.foldl (fun (acc : Nat × FFlags) y => let r := orbAdd fmt acc.1 y; (r.1, acc.2 ||| r.2)) (orbTerm fmt x)

/-- One element: its reads, its sum and its write; answers an error code of R302 or 0. -/
def State.orbElem (c j : Nat) (o : OrbCfg) (s : State) (e : Nat) : State × Nat :=
  let ss := o.srcs e
  let first := o.sz * e % 4096 = 0
  let w := if o.wm && first then
      ss.foldl (fun (acc : State × Nat) a =>
        if acc.2 ≠ 0 then acc
        else
          let q := acc.1.wmCheck (orbWho c) acc.1.wins none a
          match q.2 with
          | .pass => (q.1, 0)
          | .bad => (q.1, 2)
          | .miss stored comp => (q.1.wmMiss 0x7FF 7 (8 * c + j) a stored comp 5, 4)) (s, 0)
    else (s, 0)
  if w.2 ≠ 0 then w
  else
    let b := if o.sz * e % 64 = 0 then
        ss.foldl (fun (acc : State × Bool) a => let x := acc.1.readMeets (orbWho c) none a (min 64 (o.sz * (o.elems - e))); (x.1, acc.2 || x.2)) (w.1, false)
      else (w.1, false)
    if b.2 then (b.1, 2)
    else
      let s := b.1
      let r := orbSum o.fmt (ss.map fun a => s.num none a o.sz)
      let s := s.put (Reg.orbStat c j) (s.raw (Reg.orbStat c j) ||| BitVec.ofNat 64 ((r.2 &&& ~~~fDZ).toNat % 8 * 2 + (if r.2 &&& fNV ≠ 0 then 16 else 0)))
      let a := o.dst + o.sz * e
      let bs := leBytes o.sz r.1
      let x := s.agentStore (orbWho c) none false a bs
      let s := x.1.count a bs
      if !x.2.isEmpty then (s, 2)
      else if o.wm && (o.sz * (e + 1)) % 4096 = 0 then
        let blk := o.dst + o.sz * (e + 1) - 4096
        let q := s.wmStore (orbWho c) s.wins blk (watermark (s.bytes none blk 4096))
        (q.1, if q.2.isSome then 2 else 0)
      else (s, 0)

def State.orbErr (s : State) (c j code : Nat) : State := s.putFld (Reg.orbStat c j) 15 8 code

/-- The page checks of a reduction (R244, R301). -/
def State.orbPages (s : State) (c : Nat) (o : OrbCfg) : State :=
  let n := o.elems * o.sz
  [(o.cb, 64), (o.stage, n * o.ncon), (o.dst, n)].foldl (fun s r => s.touchRange c none r.1 r.2) s

/-- Does a reduction stand to be done: an enabled ORB without error whose ARRIVE is full (R301)? STAT.BUSY is 1 from then until ORB_REDUCTION ends it. -/
def State.orbBusy (s : State) (c j : Nat) : Bool :=
  let o := s.orbCfg c j
  s.bit (Reg.orbCtrl c j) 0 && s.fld (Reg.orbStat c j) 15 8 == 0 && s.num none o.cb 8 == 2 ^ o.ncon - 1

/-- ORB_REDUCTION (R300 to R302): the ORB looks at ARRIVE, and reduces when every contributor has set its bit. Scan stops it with its cluster (R494). -/
def State.orbReduce (s : State) (c j : Nat) : State :=
  if !(s.bit (Reg.orbCtrl c j) 0) ∨ s.fld (Reg.orbStat c j) 15 8 ≠ 0 ∨ s.sys.scanned.contains c then s
  else
    let o := s.orbCfg c j
    let s := s.orbPages c o
    if (s.checkRange (some c) none .read o.cb 64).isSome then s.orbErr c j 1
    else
      let arrive := s.num none o.cb 8
      if 2 ^ o.ncon ≤ arrive then s.orbErr c j 3
      else if arrive ≠ 2 ^ o.ncon - 1 then s
      else if s.orbBadRange c o then s.orbErr c j 1
      else
        let r := s.readMeets (orbWho c) none o.cb 16
        if r.2 then r.1.orbErr c j 2
        else
          let x := calLoop (State.orbElem c j o) o.elems 0 r.1
          if x.2 ≠ 0 then x.1.orbErr c j x.2
          else
            let y := x.1.agentStore (orbWho c) none false o.cb (leBytes 8 0 ++ leBytes 8 (x.1.num none (o.cb + 8) 8 + 1))
            if y.2.isEmpty then y.1 else y.1.orbErr c j 2

/-- ORB_REDUCTION. -/
def execOrbReduction (c j : Nat) (s : State) : Host.Outcome State Fault Refusal := answer (Instr.wf (.orbReduction c j)) s fun s => s.orbReduce c j

/-- A write of L2.ORBj.CTRL (R302, R304): EN = 0 clears the error; a write while STAT.BUSY = 1 is ignored. -/
def State.orbCtrlWrite (s : State) (c j : Nat) (v : Word) : State :=
  let off := Reg.orbCtrl c j
  if s.orbBusy c j then s
  else
  let s := s.writeFields off (2 ^ 64 - 1) v
  if s.bit off 0 then s else s.orbErr c j 0

/-- L2_ORB_CTRL_EN. -/
def execL2OrbCtrlEn (c j : Nat) (v : Word) (s : State) : Host.Outcome State Fault Refusal :=
  answer (Instr.wf (.l2OrbCtrlEn c j v)) s (State.written fun s => s.orbCtrlWrite c j v)

/-! ### Prefetch fills (R285, R286) -/

/-- PREFETCH_FILL_RETURN: fill `idx` of a position enters the side buffer, once its request has left its replay queue (R256), or is discarded when a write has met it, or dropped when its line
holds an uncorrectable error. A full side buffer frees its oldest entry. -/
def State.prefetchReturn (s : State) (pos idx : Nat) : State :=
  let x := (s.coreAt pos).caches
  match x.pfFills[idx]? with
  | none => s
  | some f =>
    if s.replaying f.req then s
    else
    let s := (s.bankServed f.req).setCaches pos { x with pfFills := dropAt x.pfFills idx }
    if f.dead then s
    else
      let r := s.readMeets { s.coreWho pos with queued := f.req.isSome } (some pos) (f.line * 64) 64
      if r.2 then r.1
      else
        let s := r.1.forget (sideId pos) (f.line * 64) 64
        let x := (s.coreAt pos).caches
        if x.side.length < 16 then s.setCaches pos { x with side := x.side ++ [f.line] }
        else (s.setCaches pos { x with side := x.side.drop 1 ++ [f.line] }).bump (Reg.l2Cnt (pos / 13) 5) 1

/-- PREFETCH_FILL_RETURN. -/
def execPrefetchFillReturn (pos idx : Nat) (s : State) : Host.Outcome State Fault Refusal :=
  answer (Instr.wf (.prefetchFillReturn pos idx)) s fun s => s.prefetchReturn pos idx

/-! ### Host and device caches (R292, R369) -/

/-- BACK_INVALIDATE_RESPONSE: the host has given up a line of the window, and writes that waited for it go on. -/
def State.biResponse (s : State) (line : Nat) : State :=
  if s.hif.biWait.contains line then
    { s with hif := { s.hif with biWait := s.hif.biWait.filter (· ≠ line), snoop := s.hif.snoop.filter (· ≠ line) } }
  else s

/-- BACK_INVALIDATE_RESPONSE. -/
def execBackInvalidateResponse (line : Nat) (s : State) : Host.Outcome State Fault Refusal :=
  answer (Instr.wf (.backInvalidateResponse line)) s fun s => s.biResponse line

/-- Does a snoop take the line away, and what does the host then store into it? -/
def snoopTakes : SnoopKind → Bool
  | .invalidate _ => true
  | .share => false

def snoopStores : SnoopKind → List Byte
  | .invalidate data => data
  | .share => []

/-- CXL_CACHE_HOST_SNOOP: the host asks for line `line` (host address / 128) of its memory; copies in the cluster L2s go, or stay clean, and dirty data is
written. A host that asks for the line alone then stores into it from its start (R31; log row 143). -/
def State.hostSnoop (s : State) (line : Nat) (kind : SnoopKind) : State :=
  let names (l : CLine) : Bool := l.valid &&
    (match s.locate none (l.line * 128) with
     | .host _ hpa => hpa / 128 == line
     | _ => false)
  let lines := s.clusters.flatMap fun p => (p.2.l2.filter fun x => names x.2 && x.2.dirty).map fun x => (p.1, x.2.line)
  let f (l : CLine) : CLine := if names l then cleanLine (snoopTakes kind) l else l
  let s := lines.foldl (fun s l => s.toMemory l.1 l.2) s
  let s := { s with clusters := Sparse.mapAll clusterReset (fun _ k => { k with l2 := Sparse.mapAll emptyLine (fun _ l => f l) k.l2 }) s.clusters }
  let s := (upto 128).foldl (fun s i => match (snoopStores kind)[i]? with
    | some b => { s with mem := { s.mem with host := Sparse.set zeroByte s.mem.host (128 * line + i) b } }
    | none => s) s
  s.emit (.snoopReply line (!lines.isEmpty))

/-- CXL_CACHE_HOST_SNOOP. -/
def execCxlCacheHostSnoop (line : Nat) (kind : SnoopKind) (s : State) : Host.Outcome State Fault Refusal :=
  answer (Instr.wf (.cxlCacheHostSnoop line kind)) s fun s => s.hostSnoop line kind

end Sys2Proof.Machine
end

