-- ==== Sys2Proof/Machine/Snapshot.lean ====
section
/-! DEFINITION. The snapshot engine: the protection instant, the staging pool, the drain, manifests, share copies and restores (R416 to R438). -/

namespace Sys2Proof.Machine

/-! ### The state record and the manifest (R422 to R424) -/

/-- The registers of the device state record in their order. -/
def recordRegs : List Nat :=
  (upto 100).map Reg.calStep ++ [Reg.numSeed] ++ ((upto 64).flatMap fun g => [Reg.numGctrl g, Reg.numGlim g]) ++
    ((upto 16).flatMap fun b => (upto 10).map fun i => Reg.numCtx b + 8 * i) ++ (upto 256).flatMap fun j => (upto 8).map fun i => Reg.numSlotCtrl j + 8 * i

/-- The state record as it stands. -/
def State.stateRecord (s : State) : List Word := recordRegs.map s.cur

/-- The bytes of a page. -/
def pageList (m : Memory) : List Byte := (upto pageBytes).map (Sparse.get zeroByte m)

/-- The digest of a page (R422). -/
def pageDigest (m : Memory) : Nat := crc64 (pageList m)

/-- The manifest of a generation as it is written when the generation is complete (R423). -/
def State.manifestOf (s : State) (g : Gen) : List Byte :=
  let head := leBytes 4 0x4E504E53 ++ leBytes 4 1 ++ leBytes 4 g.gen ++ leBytes 4 g.pages.length ++ leBytes 8 g.step ++ leBytes 8 g.time ++
    leBytes 16 g.millId ++ leBytes 2 (s.fld Reg.fabMyid 11 0) ++ leBytes 1 (s.fld Reg.snapPgrp 4 0) ++ leBytes 1 (s.fld Reg.snapPgrp 12 8) ++
    leBytes 4 19496 ++ leBytes 24 0
  let pages := sortBy (fun (a b : Nat × Memory) => decide (a.1 ≤ b.1)) g.pages
  let body := (pages.flatMap fun p => leBytes 8 (p.1 * pageBytes) ++ leBytes 8 (pageDigest p.2)) ++ g.record.flatMap fun w => leBytes 8 w.toNat
  head ++ sha384 (head ++ body) ++ body

/-! ### The protection instant (R416 to R418, R421) -/

/-- The snapshot set: reel and felt pages with V = 1 and SP = 1, by their numbers in ascending address (R416). -/
def State.snapSet (s : State) : List Nat :=
  if !s.patEn then []
  else
    let on (x : Nat) : Bool := let e := s.entryFor none x; wfld e 0 0 == 1 && wfld e 8 8 == 1
    ((upto (s.fld Reg.memCapacity 31 0)).filter on) ++ ((upto 2048).filter fun i => on (737280 + i)).map fun i => feltBase / pageBytes + i

/-- The error of the checks made before a snapshot: pool and partner region, then space in the store of 8 TB (R417, R438). -/
def State.snapCheck (s : State) (n : Nat) : Nat :=
  let inside (base len : Nat) : Bool := decide (base + len ≤ s.capBytes) || (decide (feltBase ≤ base) && decide (base + len ≤ feltBase + 2 ^ 32))
  let part := s.fld Reg.snapPgrp 4 0 = 0 || inside (s.partHalf 0) (s.partHalf 1 + s.partHalf 1 - s.partHalf 0 - s.partHalf 0)
  let pool := s.fld Reg.snapPool 15 0 ≠ 0 && inside (s.fld Reg.snapPool 47 21 * pageBytes) (s.fld Reg.snapPool 15 0 * pageBytes)
  let kept := (sortBy (fun (a b : Gen) => decide (b.gen ≤ a.gen)) s.snap.gens).take (s.fld Reg.snapCfg 27 24 - 1)
  if !part ∨ !pool then 1
  else if 8000000000000 < ((kept.map fun g => g.pages.length).foldl (· + ·) n) * pageBytes then 2
  else 0

/-- PROTECTION_INSTANT: once every cluster of the context has ended its step and no calender is at work, a snapshot that is due is taken or
skipped (R417, R418, R421). -/
def State.protectNow (s : State) : State :=
  let ctx := s.fld Reg.snapCfg 19 16
  let cs := s.clustersOf ctx
  let busy := (upto 100).any fun c => let p := s.calPhase c; decide (1 ≤ p) && decide (p ≤ 3)
  if cs.isEmpty ∨ !(cs.all s.snap.ended.contains) ∨ busy then s
  else
    let step := (s.cur (Reg.calStep (cs.headD 0))).toNat
    let every := s.fld Reg.snapCfg 15 0
    let due := s.snap.now || (every ≠ 0 && step % every = 0)
    let s := { s with snap := { s.snap with ended := s.snap.ended.filter fun c => !(cs.contains c) } }
    if !due then s
    else
      let s := { s with snap := { s.snap with now := false } }
      let next := s.fld Reg.snapNext 31 0
      if s.snap.cur.isSome then (s.bump Reg.snapSkipped 1).snapEvent 0xFF next
      else
        let set := s.snapSet
        let e := s.snapCheck set.length
        if e ≠ 0 then (s.snapErr e).snapEvent e next
        else
          let g : Gen := { gen := next, complete := false, step := step, time := s.tclk / 1000, millId := s.fab.millId, set := set, pages := [], record := s.stateRecord }
          let s := { s with snap := { s.snap with cur := some g, prot := set, pool := [], copying := [], sending := none, wants := none, abandoned := [] } }
          let s := (s.putFld Reg.snapNext 31 0 (next + 1)).putFld Reg.snapStat 31 24 (next % 256)
          (s.putFld Reg.snapStat 2 0 1).snapErr 0

/-- PROTECTION_INSTANT. -/
def execProtectionInstant (s : State) : Host.Outcome State Fault Refusal := answer (Instr.wf .protectionInstant) s fun s => s.protectNow

/-- SNAP_CTRL_NOW. -/
def execSnapCtrlNow (s : State) : Host.Outcome State Fault Refusal :=
  answer (Instr.wf .snapCtrlNow) s (State.written fun s => { s with snap := { s.snap with now := true } })

/-! ### The staging pool (R419) -/

/-- Cells of page `p` still to go to its partner are read from its copy at `d` (R420). -/
def State.readCopy (s : State) (p d : Nat) : State :=
  let here (i : OutItem) : Bool := i.typ == 1 && i.aux == p + 1 && i.src == p * pageBytes
  { s with fab := { s.fab with queues := s.fab.queues.map fun i => if here i then { i with src := d } else i } }

/-- POOL_COPY_DONE: a page copied into the lowest free page of the pool loses its protection. -/
def State.poolDone (s : State) (p : Nat) : State :=
  if !(s.snap.copying.contains p) then s
  else
    match (upto (s.fld Reg.snapPool 15 0)).find? (fun i => !(s.snap.pool.any fun x => x.2 == i)) with
    | none => s
    | some i =>
      let d := s.fld Reg.snapPool 47 21 * pageBytes + i * pageBytes
      let r := s.engineRead (p * pageBytes)
      let s := (r.1.engineWrite d pageBytes fun t => Sparse.putRange t d pageBytes r.2).readCopy p d
      { s with snap := { s.snap with copying := s.snap.copying.filter (· ≠ p), prot := s.snap.prot.filter (· ≠ p), pool := s.snap.pool ++ [(p, i)] } }.bump Reg.snapCopies 1

/-- POOL_COPY_DONE. -/
def execPoolCopyDone (page : Nat) (s : State) : Host.Outcome State Fault Refusal := answer (Instr.wf (.poolCopyDone page)) s fun s => s.poolDone page

/-! ### The drain (R420, R423, R425 to R428) -/

def State.sendFlow (s : State) (m : Nat) : Nat := s.fld (Reg.snapPmem m) 27 16

/-- Can cells to a member not leave: its port has failed, it has no route, or a cell of its flow has waited too long (R420)? -/
def State.unreachable (s : State) (m : Nat) : Bool :=
  match s.routeOf (s.sflow (s.sendFlow m) 43 32) with
  | none => true
  | some p => s.portState p == 5 || s.snap.stalled.contains m

/-- Does the engine send nothing to a member: for the rest of the generation, or until software writes SNAP.PMEMm again (R420)? -/
def State.isGone (s : State) (m : Nat) : Bool := s.snap.gaveUp.contains m || s.snap.abandoned.contains m

/-- Partner writes to a member abandoned in generation `n` (R420). -/
def State.giveUp (s : State) (m n : Nat) : State :=
  let x := s.snap
  let s := { s with snap := { x with
      gaveUp := addNew x.gaveUp m, abandoned := addNew x.abandoned m, stalled := x.stalled.filter (· ≠ m), wants := none, sending := none
      todo := x.todo.filter fun y => y.1 != m } }
  (s.snapErr 9).snapEvent 9 n

/-- A message to a member queued when its send flow holds a slot credit (R335, R426). `mark` names what it carries. While it waits for the credit the engine
says so, since that wait counts too (R420). -/
def State.partnerQueue (s : State) (m src : Nat) (data : List (BitVec 2048)) (cells mark : Nat) (part : PartMsg) : Option State :=
  let f := s.sendFlow m
  if s.sflow f 63 63 = 0 ∨ s.creditOf f = 0 ∨ s.isHeld then none
  else
    (s.routeOf (s.sflow f 43 32)).map fun p =>
      (s.setCredit f (s.creditOf f - 1)).enqueue
        { stream := s.sflow f 59 56, port := p, typ := 1, dst := s.sflow f 43 32, flow := s.sflow f 55 44, idx := 0, cells := cells, src := src, data := data
          wm := false, wins := [], aux := mark, xid := none, last := true, part := some part }

def State.partnerSend (s : State) (m src : Nat) (data : List (BitVec 2048)) (cells mark : Nat) (part : PartMsg) (done : State → State) : State :=
  match s.partnerQueue m src data cells mark part with
  | some t => done { t with snap := { t.snap with wants := none } }
  | none => { s with snap := { s.snap with wants := some m } }

/-- Is the message marked `mark` still queued? -/
def State.stillQueued (s : State) (mark : Nat) : Bool := s.fab.queues.any fun i => i.typ == 1 && i.aux == mark

/-- The last KEEP generations with room for one more (R425). -/
def State.keptGens (s : State) : List Gen := (sortBy (fun (a b : Gen) => decide (b.gen ≤ a.gen)) s.snap.gens).take (s.fld Reg.snapCfg 27 24 - 1)

/-- SNAP.STAT.GENOK: the newest complete generation in the checkpoint store (R425), or 0. -/
def State.updGenok (s : State) : State := s.putFld Reg.snapStat 63 32 (((s.snap.gens.filter (·.complete)).map (·.gen)).foldl max 0)

/-- A page of the set written to the checkpoint store; the first page of a generation takes the place of the oldest one (R425). -/
def State.storePage (s : State) (g : Gen) (p : Nat) (v : Memory) : State :=
  let gens := if g.pages.isEmpty then s.keptGens else s.snap.gens
  State.updGenok { s with snap := { s.snap with cur := some { g with pages := g.pages ++ [(p, v)] }, gens := gens, sending := none } }

/-- The page is drained: its protection or its pool page is free (R420). -/
def State.pageFree (s : State) (p : Nat) : State :=
  { s with snap := { s.snap with prot := s.snap.prot.filter (· ≠ p), copying := s.snap.copying.filter (· ≠ p), pool := s.snap.pool.filter (·.1 ≠ p) } }.bump Reg.snapDrained pageBytes

/-- What a complete generation still owes the members: pages of zeros, then the manifest (R426, R427). -/
def State.owed (s : State) (g : Gen) : List (Nat × Owed) :=
  s.others.flatMap fun m =>
    if s.isGone m then []
    else
      (((upto (s.fld Reg.snapPart 15 0)).filter fun r => decide (g.set.length ≤ s.ordinal (s.stripeOf m) r)).map fun r => (m, Owed.zeros (.page g.gen r))) ++
        [(m, .manifest g.gen)]

/-- The generation is complete: its manifest stands, and a share copy starts when one is due (R423, R428). -/
def State.genDone (s : State) (g : Gen) : State :=
  let done : Gen := { g with complete := true, manifest := s.manifestOf g }
  let s := { s with snap := { s.snap with cur := none, gens := (if g.pages.isEmpty then s.keptGens else s.snap.gens) ++ [done], todo := s.snap.todo ++ s.owed g } }
  let s := s.updGenok.putFld Reg.snapStat 2 0 0
  let k := s.fld Reg.snapCfg 47 32
  if k ≠ 0 ∧ g.gen % k = 0 then ({ s with snap := { s.snap with share := s.snap.share ++ [g.gen] } }).putBit Reg.snapStat 3 true else s

/-- Bytes cut into the payloads of cells. -/
def payloadsOf (bs : List Byte) : List (BitVec 2048) := (upto (cdiv bs.length 256)).map fun i => BitVec.ofNat 2048 (ofLe ((bs.drop (256 * i)).take 256))

/-- The payloads of a page. -/
def pageCells (v : Memory) : List (BitVec 2048) := (upto 8192).map fun i => BitVec.ofNat 2048 (ofLe (memBytes v (256 * i) 256))

/-- Page `r` of the failed member's stripe on this device: the parity page with what every other member holds of it taken out (R433). -/
def State.rebuiltPage (s : State) (gen r : Nat) : Memory :=
  (s.snap.served.filter fun x => x.gen == gen && x.r == r).foldl (fun v x => Sparse.xorRange v 0 x.bytes)
    (Sparse.range s.mem.tiers (s.partHalf (gen % 2) + r * pageBytes) pageBytes)

/-- The payloads of what a member is owed; none when the generation is there no more. -/
def State.owedCells (s : State) : Owed → Option (List (BitVec 2048))
  | .zeros _ => some [0]
  | .manifest n => (s.snap.gens.find? fun (g : Gen) => g.gen == n).map fun g => payloadsOf g.manifest
  | .page n p _ => ((s.snap.gens.find? fun (g : Gen) => g.gen == n).bind fun g => g.pages.find? fun (x : Nat × Memory) => x.1 == p).map fun x => pageCells x.2
  | .result r => s.snap.serve.map fun x => pageCells (s.rebuiltPage x.2 r)
  | .area k => s.snap.serve.map fun x =>
      let size := s.fld Reg.snapPgrp 31 16 * pageBytes
      payloadsOf (s.bytes none (s.partHalf (x.2 % 2) + s.fld Reg.snapPart 15 0 * pageBytes + k * size) size)

/-- How many cells carry what a member is owed: a page of zeros has the 8,192 of any page. -/
def owedCount (what : Owed) (cells : List (BitVec 2048)) : Nat :=
  match what with
  | .zeros _ => 8192
  | _ => cells.length

/-- What the message is to the member. -/
def State.owedPart (s : State) : Owed → PartMsg
  | .zeros t => t
  | .manifest _ => .manifest
  | .page _ _ t => t
  | .result r => .result ((s.snap.serve.map (·.2)).getD 0) r
  | .area _ => .area ((s.snap.serve.map (·.2)).getD 0)

/-- The generation of what is owed. -/
def State.owedGen (s : State) : Owed → Nat
  | .zeros (.page n _) => n
  | .zeros (.stored _ n _) => n
  | .manifest n => n
  | .page n _ _ => n
  | _ => (s.snap.serve.map (·.2)).getD 0

/-- The rebuild that this device served is over once the failed member's manifest has gone (R433). -/
def State.afterOwed (s : State) : Owed → State
  | .area _ =>
    let s := { s with snap := { s.snap with serve := none, served := [] } }
    if s.fld Reg.snapStat 2 0 = 4 then s.putFld Reg.snapStat 2 0 0 else s
  | _ => s

/-- Something owed sent to a member. -/
def State.sendOwed (s : State) (m : Nat) (what : Owed) (rest : List (Nat × Owed)) : State :=
  if s.unreachable m then
    s.giveUp m (s.owedGen what)
  else
    match s.owedCells what with
    | none => { s with snap := { s.snap with todo := rest } }
    | some cells => s.partnerSend m 0 cells (owedCount what cells) 0 (s.owedPart what) fun t => ({ t with snap := { t.snap with todo := rest } }).afterOwed what

/-- The page that the drain is at, with the page where it is read: the one whose cells are on their way, else the pool's first, else the lowest protected
one that is not being copied (R420). -/
def State.drainNext (s : State) : Option (Nat × Nat) :=
  let at' (p : Nat) : Nat := match s.snap.pool.find? fun x => x.1 == p with
    | some x => s.fld Reg.snapPool 47 21 + x.2
    | none => p
  let p := match s.snap.sending, s.snap.pool with
    | some p, _ => some p
    | none, x :: _ => some x.1
    | none, [] => s.snap.prot.find? fun p => !(s.snap.copying.contains p)
  p.map fun p => (p, at' p)

/-- The member whose stripe page `p` of a generation lies in (R426). -/
def State.partner (s : State) (g : Gen) (p : Nat) : Nat := s.others.getD (g.set.findIdx (· == p) % max 1 s.others.length) 0

/-- The place of page `p` of a generation in its stripe (R426). -/
def State.placeOf (s : State) (g : Gen) (p : Nat) : Nat := g.set.findIdx (· == p) / max 1 s.others.length

/-- PAGE_DRAINED: what is owed to members goes first; then the next page of the drain goes to the checkpoint store and to its partner; after the last page
the generation is complete. -/
def State.drainPage (s : State) : State :=
  match s.snap.todo with
  | (m, what) :: rest => s.sendOwed m what rest
  | [] =>
    match s.snap.cur with
    | none => s
    | some g =>
      match s.drainNext with
      | none => if s.snap.prot.isEmpty then s.genDone g else s
      | some (p, at') =>
        let m := s.partner g p
        let write (s : State) : State := let r := s.engineRead (at' * pageBytes); (r.1.storePage g p r.2).pageFree p
        if s.others.isEmpty ∨ s.isGone m then write s
        else if s.snap.sending = some p ∧ !(s.stillQueued (p + 1)) then write s
        else if s.unreachable m then s.giveUp m g.gen
        else if s.snap.sending = some p then s
        else s.partnerSend m (at' * pageBytes) [] 8192 (p + 1) (.page g.gen (s.placeOf g p)) fun t => { t with snap := { t.snap with sending := some p } }

/-- PAGE_DRAINED. -/
def execPageDrained (s : State) : Host.Outcome State Fault Refusal := answer (Instr.wf .pageDrained) s fun s => s.drainPage

/-- SNAP_PMEM_WRITE: a write of SNAP.PMEMm lets the engine send to the member again, from the next generation on (R420). -/
def State.pmemWrite (s : State) (m : Nat) (v : Word) : State :=
  ({ s with snap := { s.snap with gaveUp := s.snap.gaveUp.filter (· ≠ m) } }).writeFields (Reg.snapPmem m) (2 ^ 64 - 1) v

/-- SNAP_PMEM_WRITE. -/
def execSnapPmemWrite (m : Nat) (v : Word) (s : State) : Host.Outcome State Fault Refusal :=
  answer (Instr.wf (.snapPmemWrite m v)) s (State.written fun s => s.pmemWrite m v)

/-! ### Share copies (R428) -/

/-- Host memory at a device address, when a window covers it. -/
def State.hostAddr (s : State) (a : Nat) : Option Nat :=
  match s.locate none a with
  | .host _ hpa => some hpa
  | _ => none

/-- A page written to host memory. -/
def State.hostPage (s : State) (a : Nat) (v : Memory) : State :=
  match s.hostAddr a with
  | none => s
  | some h => { s with mem := { s.mem with host := Sparse.putRange s.mem.host h pageBytes v } }

/-- SHARE_COPY: the oldest generation to share goes to host memory at SNAP.SHWIN, its pages in ascending address first and its manifest last. It waits for the
link, and for a drain, which takes precedence. -/
def State.shareCopy (s : State) : State :=
  let base := s.fld Reg.snapShwin 47 21 * pageBytes
  match s.snap.share with
  | [] => s
  | n :: rest =>
    if !s.hif.linkUp ∨ s.snap.cur.isSome then s
    else
      let s := ({ s with snap := { s.snap with share := rest } }).putBit Reg.snapStat 3 (!rest.isEmpty)
      match s.snap.gens.find? (fun g => g.gen == n && g.complete) with
      | none => s
      | some g =>
        let pages := sortBy (fun (a b : Nat × Memory) => decide (a.1 ≤ b.1)) g.pages
        let s := (upto pages.length).foldl (fun s i => s.hostPage (base + i * pageBytes) ((pages.map fun (x : Nat × Memory) => x.2).getD i [])) s
        let s := s.setBytes none 0xE (base + pages.length * pageBytes) g.manifest
        s.put Reg.snapShgen (BitVec.ofNat 64 n)

/-- SHARE_COPY. -/
def execShareCopy (s : State) : Host.Outcome State Fault Refusal := answer (Instr.wf .shareCopy) s fun s => s.shareCopy

/-! ### Restores (R429, R433) -/

/-- SNAP_RESTORE_GO: a write of SNAP.RESTORE (R429, R437). -/
def State.restoreGo (s : State) (v : Word) : State :=
  let s := if wfld v 49 48 ≤ 2 then s.putFld Reg.snapRestore 49 48 (wfld v 49 48) else s
  let s := s.putFld Reg.snapRestore 31 0 (wfld v 31 0)
  if wfld v 63 63 = 0 then s
  else
    let job := s.fld Reg.fabJobstat 2 0
    let idle := (job = 0 ∨ job = 1 ∨ job = 5 ∨ job = 6) ∧ !s.snap.started ∧ s.snap.cur.isNone ∧ s.snap.share.isEmpty ∧ s.snap.restore.isNone
    if !idle then s.snapErr 7
    else
      let src := s.fld Reg.snapRestore 49 48
      let s := { s with snap := { s.snap with restore := some (src, s.fld Reg.snapRestore 31 0) } }
      let s := (s.putFld Reg.snapStat 2 0 (if src = 1 then 3 else 2)).snapErr 0
      if src = 0 then s.startServe (s.fld Reg.snapRestore 31 0) else s

/-- SNAP_RESTORE_GO. -/
def execSnapRestoreGo (v : Word) (s : State) : Host.Outcome State Fault Refusal := answer (Instr.wf (.snapRestoreGo v)) s (State.written fun s => s.restoreGo v)

/-- A manifest as read: page entries with their digests, and the record; or the error of its checks (R423, R429). -/
def readManifest (bs : List Byte) (gen : Nat) : Option (List (Nat × Nat) × List Word) :=
  let n (o k : Nat) : Nat := ofLe ((bs.drop o).take k)
  let np := n 12 4
  let body := (bs.drop 0x80).take (16 * np + 19496)
  if n 0 4 ≠ 0x4E504E53 ∨ n 4 4 ≠ 1 ∨ n 8 4 ≠ gen ∨ (bs.drop 0x50).take 48 ≠ sha384 (bs.take 0x50 ++ body) then none
  else some ((upto np).map fun i => (n (0x80 + 16 * i) 8, n (0x88 + 16 * i) 8), (upto 2437).map fun i => BitVec.ofNat 64 (n (0x80 + 16 * np + 8 * i) 8))

/-- Does a page lie in the mapped reel or felt tier (R429)? -/
def State.pageMapped (s : State) (a : Nat) : Bool :=
  a % pageBytes = 0 && (decide (a < s.capBytes) || isFelt a) &&
    (match s.pageOf none a with
     | some (x, tier) => let e := s.pageEntry none x tier; wfld e 0 0 == 1 && wfld e 5 4 == tier && wfld e 63 9 == 0
     | none => false)

/-- The pages of a restore written one by one, each checked as it goes; the error of the first that fails, or 0. -/
def State.restorePages : List (Nat × Nat × Memory) → State → State × Nat
  | [], s => (s, 0)
  | (a, digest, v) :: ps, s =>
    if !(s.pageMapped a) then (s, 6)
    else if pageDigest v ≠ digest then (s, 5)
    else State.restorePages ps (s.engineWrite a pageBytes fun t => Sparse.putRange t a pageBytes v)

/-- SNAP.NEXT one above the highest GEN of the store and of the partner region, or 1 (R417), and GENOK as the store has it (R425). -/
def State.nextGen (s : State) : State :=
  let top := (s.snap.gens.map (·.gen) ++ s.snap.manifests.map (·.1)).foldl max 0
  (s.put Reg.snapNext (BitVec.ofNat 64 (top + 1))).updGenok

/-- The end of a restore: the pages, then the state record, or an error (R429). -/
def State.restoreWith (s : State) (gen : Nat) (bs : List Byte) (page : Nat → Memory) : State :=
  match readManifest bs gen with
  | none => s.snapErr 4
  | some (entries, rec) =>
    let r := State.restorePages ((upto entries.length).map fun i => ((entries.getD i (0, 0)).1, (entries.getD i (0, 0)).2, page i)) s
    if r.2 ≠ 0 then r.1.snapErr r.2
    else (List.zip recordRegs rec).foldl (fun s x => s.put x.1 x.2) r.1

/-- The place in host memory of the manifest behind the pages of a shared generation. -/
def State.sharedManifest (s : State) (base : Nat) : Option Nat :=
  (upto 737280).find? fun n => s.num none (base + n * pageBytes) 4 == 0x4E504E53 && s.num none (base + n * pageBytes + 12) 4 == n

/-- RESTORE_COMPLETE. -/
def State.restoreDone (s : State) : State :=
  match s.snap.restore with
  | none => s
  | some (src, gen) =>
    let s := ({ s with snap := { s.snap with restore := none } }).putFld Reg.snapStat 2 0 (if s.snap.serve.isSome then 4 else 0)
    let t := match src with
      | 0 =>
        (match s.snap.gens.find? (fun (g : Gen) => g.gen == gen && g.complete) with
         | none => s.snapErr 4
         | some g =>
           let pages := sortBy (fun (a b : Nat × Memory) => decide (a.1 ≤ b.1)) g.pages
           s.restoreWith gen g.manifest fun i => (pages.map fun (x : Nat × Memory) => x.2).getD i [])
      | 1 =>
        (match (s.snap.areas.find? fun (x : Nat × List Byte) => x.1 == gen).map fun (x : Nat × List Byte) => x.2 with
         | none => s.snapErr 3
         | some bs =>
           let os := s.others
           let np := ofLe ((bs.drop 12).take 4)
           let find (i : Nat) : Option Memory :=
             (s.snap.rebuilt.find? fun (x : StripePage) => x.mem == os.getD (i % (max 1 os.length)) 0 && x.gen == gen && x.r == i / (max 1 os.length)).map fun (x : StripePage) => x.bytes
           if (upto np).any fun i => (find i).isNone then s.snapErr 3 else s.restoreWith gen bs (fun i => (find i).getD []))
      | _ =>
        let base := s.fld Reg.snapShwin 47 21 * pageBytes
        (match s.sharedManifest base with
         | none => s.snapErr 4
         | some n =>
           let bs := s.bytes none (base + n * pageBytes) (0x80 + 16 * n + 19496)
           let page (i : Nat) : Memory := match s.hostAddr (base + i * pageBytes) with
             | some h => Sparse.range s.mem.host h pageBytes
             | none => []
           s.restoreWith gen bs page)
    ({ t with snap := { t.snap with rebuilt := [], areas := [] } }).nextGen

/-- RESTORE_COMPLETE. -/
def execRestoreComplete (s : State) : Host.Outcome State Fault Refusal := answer (Instr.wf .restoreComplete) s fun s => s.restoreDone

end Sys2Proof.Machine
end

