-- ==== Sys2Proof/Machine/Startup.lean ====
section
/-! DEFINITION. Device reset, the phases of start-up, the configuration layers, and STORE (R274, R382 to R406). -/

namespace Sys2Proof.Machine

/-! ### Register writes field by field (R14, R16) -/

/-- Do the values that depend on other state allow a field to take `x` (R438, R496)? -/
def State.fieldOk (s : State) (off sel v : Nat) (f : Field) (x : Nat) : Bool :=
  if off = Reg.snapPgrp ∧ f.lo = 8 then
    let was := wfld (s.raw off) 4 0
    let g := (was &&& (31 - sel % 32)) ||| (v % 32 &&& sel % 32)
    let g := if g = 0 ∨ (4 ≤ g ∧ g ≤ 16) then g else was
    decide (x < g) || (g == 0 && x == 0)
  else if off = Reg.snapNext then decide (wfld (s.raw off) 31 0 ≤ x)
  else if Reg.secMboxIn 0 ≤ off ∧ off < Reg.secMboxIn 1200 ∧ off % 16 = 8 then !(s.bit off 63)
  else true

/-- A write of `v` that addresses the bits of `sel`, by the access codes of the register's fields. -/
def State.writeReg (s : State) (off sel v : Nat) : State := s.put off (BitVec.ofNat 64 (writeWord (s.fieldOk off sel v) (fieldsAt off) sel v (s.raw off).toNat))

/-! ### What a reset leaves -/

/-- Registers that survive the loss of the main rails: those of the security block, of the power governor, of the event ring, and the straps, all on the
control die with the tender (R497, R503). -/
def keepMain (off : Nat) : Bool :=
  (decide (0xA00000 ≤ off) && decide (off < 0xB00000)) || (decide (0x300000 ≤ off) && decide (off < 0x302000)) ||
    (decide (0x800000 ≤ off) && decide (off < 0x801000)) || (decide (0x820000 ≤ off) && decide (off < 0x830000)) || off == Reg.cfgStraps

/-- Everything that the main rails hold is lost; what lies in the MRAM, the flash, the checkpoint store and host memory stays. -/
def State.lost (s : State) : State :=
  { s with
    csr := s.csr.filter fun x => keepMain x.1
    cores := [], clusters := [], numRecs := [], numHeld := []
    mem := { Mem.reset with host := s.mem.host, flash := s.mem.flash, logA := s.mem.logA, logB := s.mem.logB }
    fab := Fab.reset
    hif := { HostIf.reset with out := s.hif.out }
    sys := { s.sys with mainGood := false, lowSpell := false, imgSent := [], storeReq := none, thEpisode := [], vNow := [] }
    snap := { Snap.reset with gens := s.snap.gens, manifests := s.snap.manifests }
    ce := [], groupStop := [] }

/-- The main rails go off at a cut-off; the tender keeps running, and its measurements 5 and 6 follow (R476, R498, R504). No cluster clock runs. -/
def State.cut (s : State) : State :=
  let s := s.lost
  let s := (upto 100).foldl (fun s c => s.putFld (Reg.pwrClu c) 11 8 0) s
  ({ s with sys := { s.sys with cutoff := true } }).measMill.measFeat

/-- Registers that the MRAM holds: the anti-rollback counters (R467). -/
def keepReset (off : Nat) : Bool := decide (0xA00040 ≤ off) && decide (off < 0xA00080)

/-- A device reset: every register at its reset value, the tender restarted, a new SEC.DBGNONCE; the MRAM, the flash, the checkpoint store and host memory stay.
SNAP.NEXT follows the generations found (R417). The tender clock goes on (R460). -/
def State.deviceReset (s : State) : State :=
  let t := s.lost
  let y := { Sys.reset with
    tclk0 := s.tclk, clockRuns := s.sys.clockRuns, standby := s.sys.standby, userA := s.sys.userA, userB := s.sys.userB, train := s.sys.train, arb := s.sys.arb
    vAdd := s.sys.vAdd, freeCnt := s.sys.freeCnt }
  let d := { Tender.reset with
    slotA := s.tender.slotA, slotB := s.tender.slotB, boot := s.tender.boot, creds := s.tender.creds, owners := s.tender.owners
    qlog := s.tender.qlog, sids := s.tender.sids, draws := s.tender.draws + 1, nonce := s.tender.draws }
  ({ t with csr := t.csr.filter fun x => keepReset x.1, sys := y, tender := d }).nextGen

/-! ### Setting records (R383 to R387) -/

/-- Is a setting record valid (R385, R386)? -/
def SetRec.valid (r : SetRec) : Bool :=
  let stride := wfld r.w0 63 56
  let rep := wfld r.w0 55 48
  let off := wfld r.w0 25 0
  let ok (i : Nat) : Bool :=
    let o := off + i * 2 ^ stride
    (r.mask == 0 || o % 8 == 0) && r.mask.toNat &&& cfgMask o == r.mask.toNat && !(o == Reg.memPatctl && r.mask != 0)
  wfld r.w0 47 41 == 0 && wfld r.w0 31 26 == 0 && decide (3 ≤ stride) && decide (stride ≤ 25) && decide (off + rep * 2 ^ stride < 0x4000000) &&
    (upto (rep + 1)).all ok

/-- A rejection counted, and the first one named (R385). -/
def State.reject (s : State) (layer index : Nat) : State :=
  let first := s.raw Reg.cfgReject = 0
  let s := s.bump Reg.cfgReject 1
  if first then s.put Reg.cfgRejidx (BitVec.ofNat 64 (layer * 2 ^ 62 + index)) else s

/-- One cfg field under a record: its new value when the field allows it, else a rejection. -/
def State.setField (layer index off : Nat) (r : SetRec) (s : State) (f : Field) : State :=
  let n := f.hi + 1 - f.lo
  let m := (r.mask.toNat >>> f.lo) % 2 ^ n
  if f.cfg.isNone ∨ m = 0 then s
  else
    let old := wfld (s.raw off) f.hi f.lo
    let x := (old &&& (2 ^ n - 1 - m)) ||| (((r.value.toNat >>> f.lo) % 2 ^ n) &&& m)
    if f.allows x ∧ s.fieldOk off r.mask.toNat r.value.toNat f x then s.putFld off f.hi f.lo x else s.reject layer index

/-- A record applied in a seat. -/
def State.applyRecord (s : State) (layer index : Nat) (r : SetRec) : State :=
  if !(r.w0.getLsbD (32 + s.fld Reg.cfgStraps 3 0)) then s
  else if !r.valid then s.reject layer index
  else
    (upto (wfld r.w0 55 48 + 1)).foldl (fun s i =>
      let off := wfld r.w0 25 0 + i * 2 ^ wfld r.w0 63 56
      let s := (fieldsAt off).foldl (State.setField layer index off r) s
      if layer = 2 ∧ off = Reg.fabMyid ∧ r.mask ≠ 0 then { s with fab := { s.fab with myIdSet := true } } else s) s

/-- The records of a layer, in the order in which they are stored. -/
def State.applyLayer (layer : Nat) : Nat → List SetRec → State → State
  | _, [], s => s
  | i, r :: rs, s => State.applyLayer layer (i + 1) rs (s.applyRecord layer i r)

/-- The user layer, with CFG.STAT.USERBAD, CFG.USERGEN and measurement 4 (R391, R476). -/
def State.userLayer (s : State) : State :=
  match s.activeHalf with
  | none => (s.putBit Reg.cfgStat 16 true).measUser
  | some (k, h) => (State.applyLayer 1 0 h.live (s.put Reg.cfgUsergen (BitVec.ofNat 64 (headGen h.head * 2 ^ 32 + k)))).measUser

/-! ### P0 (R382, R400) -/

/-- Is the start warm, by the training store (R400)? -/
def State.warm (s : State) : Bool :=
  let t := s.sys.train
  (upto 170).all (fun i => trainOk 64 (t.island i)) && (upto 36).all (fun p => wfld (s.raw (Reg.fabPCtrl p)) 0 0 == 0 || trainOk 512 (t.port p)) &&
    (upto 20).all fun k => decide (((upto 64).filter fun i => !(trainOk 128 (t.chan (64 * k + i)))).length ≤ 4)

/-- The start moment: the straps are sampled and P0 runs, up to the boot ROM. -/
def State.startUp (s : State) (seat role bootSrc : Nat) : State :=
  let s := { s with sys := { s.sys with mainGood := true, clockRuns := true } }
  let s := s.put Reg.cfgStraps (BitVec.ofNat 64 (bootSrc % 2 * 2 ^ 6 + role % 4 * 2 ^ 4 + seat % 16))
  if 9 ≤ seat % 16 then { s with sys := { s.sys with held := true } }
  else if role % 4 = 3 then s.stopStart 8
  else
    let s := s.userLayer
    (s.putBit Reg.cfgStat 7 (!s.warm)).measFeat

/-- MAIN_POWER_GOOD: the main input has been in range for 10 ms while standby is good; after a cut-off nothing happens until a device reset (R498). -/
def State.powerGood (s : State) (seat role bootSrc : Nat) : State :=
  if s.sys.mainGood ∨ s.sys.cutoff then s
  else
    let s := s.deviceReset
    ({ s with sys := { s.sys with standby := true } }).startUp seat role bootSrc

/-- MAIN_POWER_GOOD. -/
def execMainPowerGood (seat role bootSrc : Nat) (s : State) : Host.Outcome State Fault Refusal :=
  answer (Instr.wf (.mainPowerGood seat role bootSrc)) s fun s => s.powerGood seat role bootSrc

/-- Writes of the MRAM that are under way are cut off, or end (R405, R519): a command of the model writes at once, so which of the two is a free value (log
row 153). -/
def State.tearOff (s : State) : State :=
  if (s.writesNow 0).isEmpty then s
  else
    let (d, s) := s.freeDraw
    if Config.tornOff d then (upto 8).foldl State.showArb ((s.writesNow (Config.tornAt d)).foldl State.torn s) else s

/-- A device reset by MOD_RESET_N or RESET: to the MRAM it is as a loss of power (R519); when the main rails are on, start-up begins at its end (R400). -/
def State.resetAndStart (s : State) (seat role bootSrc : Nat) : State :=
  let t := s.tearOff.deviceReset
  if s.sys.mainGood then t.startUp seat role bootSrc else t

/-- MOD_RESET_N (R514): the same as RESET sub-operation 1. -/
def execModResetN (seat role bootSrc : Nat) (s : State) : Host.Outcome State Fault Refusal :=
  answer (Instr.wf (.modResetN seat role bootSrc)) s fun s => s.resetAndStart seat role bootSrc

/-- STANDBY_LOSS (R515): the main rails go off, and the device behaves as after a power loss. A write of the MRAM that was under way is cut off (R405). -/
def State.standbyLost (s : State) : State :=
  let t := s.tearOff.deviceReset
  { t with sys := { t.sys with clockRuns := false, standby := false, tclk0 := 0 }, tender := { t.tender with qlog := [] } }

/-- STANDBY_LOSS. -/
def execStandbyLoss (s : State) : Host.Outcome State Fault Refusal := answer (Instr.wf .standbyLoss) s fun s => s.standbyLost

/-! ### P1: ports and the configuration image (R395 to R399) -/

/-- Does a configuration image pass, read by `rd` (R396, R397, R469)? 0 passes, 1 fails on MINFW alone, 2 fails on its signature, 3 fails otherwise. -/
def State.imageCheck (s : State) (rd : Nat → Nat → List Byte) : Nat :=
  let n (a k : Nat) : Nat := ofLe (rd a k)
  let size := n 8 4
  let key := n 0x14 4
  let recoff := n 0x18 4
  let owner := (s.tender.owners.find? fun (o : Nat × List Byte) => o.1 == key).map fun o => o.2
  let signed := match owner with
    | some pub => decide (key < 4) && ecdsaVerify pub (rd 0 0x50) (rd 0x50 96)
    | none => s.tender.owners.isEmpty && key == 0xFFFFFFFF
  if n 0 4 ≠ 0x4746434C ∨ n 4 4 ≠ 1 ∨ size % 256 ≠ 0 ∨ size < 256 ∨ 2 ^ 24 < size ∨ recoff % 8 ≠ 0 ∨ recoff < 0x100 ∨ size < recoff + 24 * n 0x1C 4 then 3
  else if sha384 (rd 0x100 (size - 256)) ≠ rd 0x20 48 then 3
  else if !signed then 2
  else if n 0xC 4 < s.fld (Reg.secArb 1) 31 0 then 3
  else if s.fld Reg.secBoot 63 32 < n 0x10 4 then 1
  else 0

/-- Reading flash slot `k`. -/
def State.flashAt (s : State) (k a n : Nat) : List Byte := memBytes s.mem.flash (k * 0x1000000 + a) n

/-- Reading the image staged in felt die 0. -/
def State.stagedAt (s : State) (a n : Nat) : List Byte := s.bytes none (feltBase + a) n

/-- A failed signature of an image posts class 0x0A; the manual gives no kind for it (R397, R456; log row 5). -/
def State.badSignature (s : State) : State :=
  let d := s.freeDraw
  d.2.secEvent ((Config.freeWord d.1).toNat % 256) 0

/-- The flash slot whose image is taken, by IMGVER and checks, or the error; failed signatures are reported (R397). -/
def State.chooseSlot (s : State) : State × Option Nat × Nat :=
  let ver (k : Nat) : Nat := ofLe (s.flashAt k 0xC 4)
  let order := if ver 0 < ver 1 then [1, 0] else [0, 1]
  let r := order.foldl (fun (acc : State × Option Nat × Bool) k =>
    if acc.2.1.isSome then acc
    else
      let c := acc.1.imageCheck (acc.1.flashAt k)
      if c = 0 then (acc.1, some k, acc.2.2)
      else if c = 1 then (acc.1, none, true)
      else if c = 2 then
        (acc.1.badSignature, none, acc.2.2)
      else acc) (s, none, false)
  (r.1, r.2.1, if r.2.2 then 3 else 2)

/-- The image copied from a flash slot into felt die 0 (R397). -/
def State.stageSlot (s : State) (k : Nat) : State :=
  let size := ofLe (s.flashAt k 8 4)
  { s with mem := { s.mem with tiers := Sparse.putRange s.mem.tiers feltBase size (Sparse.range s.mem.flash (k * 0x1000000) size) } }

/-- The configuration layer of the staged image, and what names the image (R383, R406, R476). -/
def State.configLayer (s : State) (source : Nat) : State :=
  let n (a k : Nat) : Nat := ofLe (s.stagedAt a k)
  let off := n 0x18 4
  let recs := (upto (n 0x1C 4)).map fun i => SetRec.mk (BitVec.ofNat 64 (n (off + 24 * i) 8)) (BitVec.ofNat 64 (n (off + 24 * i + 8) 8)) (BitVec.ofNat 64 (n (off + 24 * i + 16) 8))
  ((State.applyLayer 2 0 recs s).put Reg.cfgImage (BitVec.ofNat 64 (n 0xC 4 * 2 ^ 32 + source))).setMeas 3 (s.stagedAt 0x20 48)

/-- The layers are in force (R17). -/
def State.layersDone (s : State) : State := { s with sys := { s.sys with cfgApplied := true } }

/-- The image of a standalone device or a master. -/
def State.ownImage (s : State) : State :=
  let (s, slot, err) := s.chooseSlot
  match slot with
  | none => s.stopStart err
  | some k => ((s.stageSlot k).configLayer (k + 1)).layersDone

/-- The image of a member, once it has come whole: it is applied when it passes, and one whose signature fails is reported and no longer looked at. -/
def State.memberImage (s : State) : State :=
  let size := ofLe (s.stagedAt 8 4)
  if s.fab.imgCells = 0 ∨ 256 * s.fab.imgCells < size then s
  else
    match s.imageCheck s.stagedAt with
    | 0 => (s.configLayer 3).layersDone
    | 2 => ({ s with fab := { s.fab with imgPort := none, imgCells := 0 } }).badSignature
    | _ => s

/-- P1: ports start training, and the image is read or received, checked and applied. A member whose image has not come takes it when the command comes
again. -/
def State.phase1 (s : State) : State :=
  if !s.sys.mainGood ∨ s.sys.held ∨ !s.sys.fwRuns ∨ 1 < s.phase then s
  else
    let s := if s.phase = 0 then
        (upto 36).foldl (fun s p => if wfld (s.raw (Reg.fabPCtrl p)) 0 0 = 1 ∧ s.portState p = 0 then s.setPortState p 1 else s) (s.goPhase 1)
      else s
    let role := s.fld Reg.cfgStraps 5 4
    let s := s.imageStep
    if s.phase ≠ 1 then s
    else if s.fld Reg.cfgStraps 6 6 = 1 then s.layersDone
    else
      (if s.sys.cfgApplied then s else if role = 2 then s.memberImage else s.ownImage).imageStep

/-- P1. -/
def execP1 (s : State) : Host.Outcome State Fault Refusal := answer (Instr.wf .p1) s fun s => s.phase1

/-- MEMBER_IMAGE_TIMEOUT (R399): 60 s have passed without a passing image or a master. -/
def State.imageTimeout (s : State) : State :=
  if s.fld Reg.cfgStraps 5 4 = 2 ∧ s.fld Reg.cfgStraps 6 6 = 0 ∧ s.phase ≤ 1 ∧ s.sys.mainGood ∧ s.sys.fwRuns ∧ !s.sys.held ∧ !s.sys.cfgApplied then s.stopStart 4 else s

/-- MEMBER_IMAGE_TIMEOUT. -/
def execMemberImageTimeout (s : State) : Host.Outcome State Fault Refusal := answer (Instr.wf .memberImageTimeout) s fun s => s.imageTimeout

/-! ### P2 (R506) -/

/-- Is an island calibrated anew: at a cold start, without a stored record, or when the monitors refuse the stored points? -/
def State.recalibrates (s : State) (refused : List Nat) (i : Nat) : Bool :=
  s.bit Reg.cfgStat 7 || refused.contains i || !(trainOk 64 (s.sys.train.island i))

/-- The voltage, in mV, that the monitors of an island have added to its points, kept for the next start and in force (R506). -/
def State.setVolts (s : State) (i kept now : Nat) : State :=
  { s with sys := { s.sys with vAdd := Sparse.set zeroNat s.sys.vAdd i kept, vNow := Sparse.set zeroNat s.sys.vNow i now } }

def State.voltsKept (s : State) (i : Nat) : Nat := Sparse.get zeroNat s.sys.vAdd i
def State.voltsNow (s : State) (i : Nat) : Nat := Sparse.get zeroNat s.sys.vNow i

/-- The points of an island: found anew, written to its record, with nothing added; or the stored ones, with what its monitors had added. -/
def State.calibrate (s : State) (refused : List Nat) (temp : Int) (i : Nat) : State :=
  if s.recalibrates refused i then (s.trainIsland temp i).setVolts i 0 0 else s.setVolts i (s.voltsKept i) (s.voltsKept i)

/-- P2: the islands get their points in ascending order, at the temperatures given; `refused` have stored points that the monitors refuse, and an island whose
calibration fails stops the start. -/
def State.phase2 (s : State) (temps : List Int) (refused : List Nat) (failed : Option IslandFail) : State :=
  if s.phase ≠ 1 ∨ !s.sys.cfgApplied then s
  else
    let s := s.goPhase 2
    let s := (upto ((failed.map fun f => f.island).getD 170)).foldl (fun s i => s.calibrate refused (temps.getD i 0) i) s
    let s := s.freeDraw.2
    match failed with
    | some f => (s.stopStart 7).post { cls := 9, sev := 3, ukind := 0, uidx := 0, d0 := f.island % 256 + 3 * 2 ^ 8, d1 := f.value, d2 := f.limit, d3 := 7 }
    | none => s

/-- P2. -/
def execP2 (run : IslandRun) (s : State) : Host.Outcome State Fault Refusal :=
  answer (Instr.wf (.p2 run)) s fun s => s.phase2 run.temps run.refused run.failed

/-! ### P3: the broke log and the channels (R274) -/

/-- The last record of a channel among those of the given types. -/
def lastType (recs : List Word) (types : List Nat) (ch : Nat) : Nat :=
  recs.foldl (fun a w => if wfld w 18 8 = ch ∧ types.contains (wfld w 7 0) then wfld w 7 0 else a) 0

/-- A row remap or a retired spare row of the log loaded (R272). -/
def State.loadRecord (s : State) (w : Word) : State :=
  let ch := wfld w 18 8
  let rank := wfld w 20 19
  let bank := wfld w 24 21
  match wfld w 7 0 with
  | 1 =>
    (match s.entryForRow ch rank bank (wfld w 38 25) with
     | some e =>
       let s := if (s.remapFind ch rank bank (wfld w 38 25)).isSome then s else s.putFld (Reg.memChStat ch) 47 39 (s.fld (Reg.memChStat ch) 47 39 + 1)
       { s with mem := { s.mem with remap := Sparse.set zeroRemap s.mem.remap (ch * 256 + e) (remapWord (wfld w 44 43) rank bank (wfld w 38 25) (wfld w 42 39)) } }
     | none => s)
  | 2 => { s with mem := { s.mem with retired := addNew s.mem.retired (spareKey ch rank bank (wfld w 42 39)) } }
  | _ => s

/-- A channel mapped out at start, which needs no surrender. -/
def State.outAtStart (s : State) (ch : Nat) : State :=
  if s.mem.dead.contains ch then s
  else
    let s := (s.putFld (Reg.memChStat ch) 2 0 3).countOut ch
    { s with mem := { s.mem with dead := s.mem.dead ++ [ch] } }

/-- A channel whose second training failed: SUSPECT and map-out records, and the channel is mapped out (R274, step 4). -/
def State.failAtStart (s : State) (ch : Nat) : State :=
  if s.mem.dead.contains ch then s
  else
    let s := (s.putFld (Reg.memChStat ch) 11 8 4).setChState ch 1 4
    let s := (s.broke (3 + ch * 2 ^ 8 + 4 * 2 ^ 43)).setChState ch 3 4
    (s.broke (4 + ch * 2 ^ 8)).outAtStart ch

/-- The capacity and the dead channels (step 5), or the failure of more than 32 channels. -/
def State.sizeTiers (s : State) : State :=
  let k := s.mem.dead.length
  if 32 < k then (s.putFld Reg.memCapacity 31 0 0).stopStart 6 else (s.putFld Reg.memCapacity 31 0 (737280 - 577 * k)).degrade

/-- Does a channel get its stored values back: at a warm start, from a record taken within 20 °C of the stack's temperature, and verified (step 3)? -/
def State.restores (s : State) (temps : List Int) (unverified : List Nat) (ch : Nat) : Bool :=
  let r := s.sys.train.chan ch
  let d := trainTemp r - temps.getD (ch / 64) 0
  !(s.bit Reg.cfgStat 7) && trainOk 128 r && decide (-20 ≤ d) && decide (d ≤ 20) && !(unverified.contains ch)

/-- Steps 3 and 4: the channels in service get their stored values or train fully, which writes their records; those that fail both trainings are mapped
out. -/
def State.trainReel (s : State) (temps : List Int) (unverified failed : List Nat) : State :=
  let train := (upto 1280).filter fun ch => !(s.mem.dead.contains ch) && (failed.contains ch || !(s.restores temps unverified ch))
  let s := (train.filter fun ch => !(failed.contains ch)).foldl (fun s ch => s.trainChan (temps.getD (ch / 64) 0) ch) s
  (train.filter fun ch => failed.contains ch).foldl State.failAtStart s.freeDraw.2

/-- P3: steps 1 to 5 of R274, at the temperatures of the stacks; `unverified` holds the channels whose stored values do not verify, and `failed` those that
fail both trainings. -/
def State.phase3 (s : State) (temps : List Int) (unverified failed : List Nat) : State :=
  if s.phase ≠ 2 then s
  else
    let s := s.goPhase 3
    let recs := s.logWords
    let s := ((upto 1280).filter fun ch => lastType recs [4, 6] ch == 4).foldl State.outAtStart s
    let s := ((upto 1280).filter fun ch => lastType recs [3, 4, 7] ch == 3).foldl (fun s ch => (s.broke (4 + ch * 2 ^ 8)).outAtStart ch) s
    ((recs.foldl State.loadRecord s).trainReel temps unverified failed).sizeTiers

/-- P3. -/
def execP3 (run : ReelRun) (s : State) : Host.Outcome State Fault Refusal :=
  answer (Instr.wf (.p3 run)) s fun s => s.phase3 run.temps run.unverified run.failed

/-! ### P4 (R274, steps 6 and 7) -/

/-- P4: both tiers are cleared and opened. -/
def State.phase4 (s : State) : State :=
  if s.phase ≠ 3 then s
  else
    let s := s.goPhase 4
    { s with mem := { s.mem with tiers := [], errs := s.mem.errs.filter (fun x => decide (physBase ≤ x.1)), isOpen := true, ceSectors := [], rowFails := [] }
             snap := { s.snap with manifests := [], parity := [] } }

/-- P4. -/
def execP4 (s : State) : Host.Outcome State Fault Refusal := answer (Instr.wf .p4) s fun s => s.phase4

/-! ### P5 (R402, R407) -/

/-- Event class 0x05 of a failure that P5 finds. -/
def State.p5Event (s : State) (ukind uidx : Nat) : State := s.post { cls := 5, sev := 3, ukind := ukind, uidx := uidx, d0 := 3 }

/-- A cache way disabled (R287): way `w` below 1,600 is way w mod 16 of the L2 of cluster w / 16; above that, way w mod 8 of the L1 of position
(w − 1,600) / 8. -/
def State.wayOff (s : State) (w : Nat) : State :=
  if w < 1600 then (s.l2WayOff (w / 16) (w % 16)).p5Event 2 (w / 16)
  else if w < 12000 then (s.l1WayOff ((w - 1600) / 8) (w % 8)).p5Event 1 ((w - 1600) / 8)
  else s

/-- The slots of a cluster filled from its passing positions (R407). -/
def State.fillSlots (s : State) (c : Nat) : State :=
  let pass := (upto 13).filter fun p => !(s.isFailed (13 * c + p))
  let s := (upto 12).foldl (fun s i => s.mapSlot (12 * c + i) ((pass[i]?).map (13 * c + ·))) s
  match pass[12]? with
  | some p => s.makeSpare (13 * c + p)
  | none => s

/-- A reel row that the march test finds failing is remapped (R260). -/
def State.p5Row (s : State) (key : Nat) : State :=
  let row := key % 12288
  let bank := key / 12288 % 16
  let rank := key / 12288 / 16 % 3
  let ch := key / 12288 / 16 / 3
  if 1280 ≤ ch then s
  else
    let s := s.p5Event 4 ch
    ({ s with mem := { s.mem with rowFails := addNew s.mem.rowFails key } }).rowRemap ch rank bank row

/-- P5: the full self-test. Failed cores get no slot, failed ways go out of use, failed rows are remapped, failed channels are mapped out, and a fault in a
shared unit, given as its UKIND and UIDX (R455), stops the start. -/
def State.phase5 (s : State) (failed channels rows ways : List Nat) (shared : List (Nat × Nat)) : State :=
  if s.phase ≠ 4 then s
  else
    let s := s.goPhase 5
    let s := ((upto 1300).filter fun k => failed.contains k).foldl (fun s k => (s.putBit (Reg.cluPos (k / 13)) (k % 13) true).p5Event 1 k) s
    let s := ways.foldl State.wayOff s
    let s := rows.foldl State.p5Row s
    let s := ((upto 1280).filter fun ch => channels.contains ch && !(s.mem.dead.contains ch)).foldl (fun s ch => (s.p5Event 4 ch).failAtStart ch) s
    let s := shared.foldl (fun s u => s.p5Event u.1 u.2) s
    if shared ≠ [] then s.stopStart 9
    else
      let s := s.sizeTiers
      if s.phase = 8 then s
      else
        let s := (upto 100).foldl State.fillSlots s
        s.putFld Reg.cfgStat 31 20 ((upto 1200).filter fun i => (s.posOf i).isNone).length

/-- P5. -/
def execP5 (failed channels rows ways : List Nat) (shared : List (Nat × Nat)) (s : State) : Host.Outcome State Fault Refusal :=
  answer (Instr.wf (.p5 failed channels rows ways shared)) s fun s => s.phase5 failed channels rows ways shared

/-! ### P6 (R400, R404) -/

/-- Ports that still train when the last phase ends have met no peer: they go DOWN (R404). -/
def State.settlePorts (s : State) : State := ((upto 36).foldl (fun s p => if s.portState p = 1 then s.portDown p else s) s).updQuiet

/-- The end of a start: PHASE 7, and CFG.READYT holds the ms since the start moment. -/
def State.ready (s : State) : State := (s.goPhase 7).putFld Reg.cfgReadyt 31 0 (s.sys.time / 1000000)

/-- P6: the remaining ports settle. While a port trains, the phase holds; the command that then comes again ends it (log row 151). -/
def State.phase6 (s : State) : State :=
  if s.phase = 5 then (if (upto 36).any fun p => s.portState p == 1 then s.goPhase 6 else s.ready)
  else if s.phase = 6 then s.settlePorts.ready
  else s

/-- P6. -/
def execP6 (s : State) : Host.Outcome State Fault Refusal := answer (Instr.wf .p6) s fun s => s.phase6

/-! ### STORE and ERASE (R392 to R394) -/

/-- The bits that STORE never records (R393). -/
def neverStored (off : Nat) : Nat :=
  if off = Reg.memPatctl ∨ off = Reg.numSeed ∨ off = Reg.fabMyid then 2 ^ 64 - 1
  else if 0xB02000 ≤ off ∧ off < 0xB02400 ∧ off % 16 = 0 then 0xFFFF00000000
  else 0

/-- The fields of a register that STORE records: its cfg fields whose values differ from the factory's. -/
def State.storeMask (s : State) (off : Nat) : Nat :=
  let differ (f : Field) : Bool := f.cfg.isSome && f.cfg != some (wfld (s.raw off) f.hi f.lo)
  (((fieldsAt off).filter differ).foldl (fun a f => a + f.mask) 0) &&& (2 ^ 64 - 1 - neverStored off)

/-- The records that STORE makes, one for each register with a field to record, in ascending offset. A register with no entry has its factory values. -/
def State.storeRecs (s : State) : List SetRec :=
  s.csr.filterMap fun x =>
    let m := s.storeMask x.1
    if m = 0 then none
    else some ⟨BitVec.ofNat 64 (3 * 2 ^ 56 + 0x1FF * 2 ^ 32 + x.1), BitVec.ofNat 64 m, BitVec.ofNat 64 ((s.raw x.1).toNat &&& m)⟩

/-- CFG.STORE.ERR. -/
def State.storeErr (s : State) (e : Nat) : State := s.putFld Reg.cfgStore 15 8 e

/-- A STORE or an ERASE asked for, with the records of the new half. -/
def State.storeAsk (s : State) (recs : List SetRec) : State :=
  if s.bit Reg.cfgStore 2 then s.storeErr 1
  else if s.phase ≠ 7 then s.storeErr 2
  else if 2728 < recs.length then s.storeErr 3
  else (({ s with sys := { s.sys with storeReq := some recs } }).storeErr 0).putBit Reg.cfgStore 2 true

/-- CFG_STORE_STORE. -/
def execCfgStoreStore (s : State) : Host.Outcome State Fault Refusal := answer (Instr.wf .cfgStoreStore) s fun s => s.storeAsk s.storeRecs

/-- CFG_STORE_ERASE. -/
def execCfgStoreErase (s : State) : Host.Outcome State Fault Refusal := answer (Instr.wf .cfgStoreErase) s fun s => s.storeAsk []

/-- STORE_COMPLETE (R392, R394): the new half becomes active, or a write to the MRAM has failed, the half has no header, and the former
half stays active. A request waits while the tender
restarts (R472). -/
def State.storeDone (s : State) (ok : Bool) : State :=
  match s.sys.storeReq with
  | none => s
  | some recs =>
    if !s.sys.fwRuns then s
    else
      let (k, gen) := s.nextHalf
      let s := ({ s with sys := { s.sys with storeReq := none } }).putBit Reg.cfgStore 2 false
      if !ok then (s.setHalf k ⟨0, recs⟩).storeErr 4
      else
        let s := (s.setHalf k (userHalf gen recs)).bump Reg.cfgStores 1
        ((s.put Reg.cfgUsergen (BitVec.ofNat 64 (gen % 2 ^ 32 * 2 ^ 32 + k))).putBit Reg.cfgStat 16 false).measUser

/-- STORE_COMPLETE. -/
def execStoreComplete (ok : Bool) (s : State) : Host.Outcome State Fault Refusal := answer (Instr.wf (.storeComplete ok)) s fun s => s.storeDone ok

end Sys2Proof.Machine
end

