-- ==== Sys2Proof/Machine/Power.lean ====
section
/-! DEFINITION. Power inputs, clock steps, the governor and thermal limits (R497 to R509). -/

namespace Sys2Proof.Machine

/-- Event class 0x09 (R507): island or sensor, sensor kind (1 power, 2 temperature, 3 voltage), value, limit and code. -/
def State.powerEvent (s : State) (sev island kind value limit code : Nat) : State :=
  s.post { cls := 9, sev := sev, ukind := 0, uidx := 0, d0 := island % 256 + kind * 2 ^ 8, d1 := value, d2 := limit, d3 := code }

/-! ### Clock steps (R501, R503) -/

/-- Does any cluster run below STEP 10? -/
def State.anySlow (s : State) : Bool := s.sys.mainGood && (upto 100).any fun c => decide ((s.cluAt c).clock.step < 10)

/-- PWR.CAPCYC up to now: the 1 µs periods in which any cluster ran below STEP 10 (R509; log row 195); no clock has moved since it was last looked at. -/
def State.capCycles (s : State) : State :=
  let done := if s.anySlow then cdiv s.sys.time 1000 else s.sys.time / 1000
  let s := if s.anySlow then s.bump Reg.pwrCapcyc (done - s.sys.capMark) else s
  { s with sys := { s.sys with capMark := max s.sys.capMark done } }

/-- A cluster clock at a new STEP; its cycles so far stay counted (R86). -/
def State.setStep (s : State) (c step : Nat) : State :=
  let s := s.capCycles.modClu c fun k =>
    { k with clock := ⟨k.clock.milli + (s.sys.time - k.clock.since) * stepRate k.clock.step, s.sys.time, step⟩ }
  s.putFld (Reg.pwrClu c) 11 8 step

/-- The power cap in force: STEP 10 while the governor is off (R509). -/
def State.powerCap (s : State) : Nat := if s.bit Reg.pwrCtrl 0 then s.fld Reg.pwrStat 3 0 else 10

/-- The STEP that the caps call for: the least of the power cap, the thermal cap and MAXSTEP (R503); 0 during a low spell of the main input (R498). -/
def State.wantedStep (s : State) (c : Nat) : Nat :=
  if s.sys.lowSpell then 0 else min s.powerCap (min (s.fld (Reg.pwrClu c) 15 12) (s.fld (Reg.pwrClu c) 3 0))

/-- CLOCK_STEP_CHANGE: the clock of a cluster moves one step towards the STEP called for. -/
def State.stepClock (s : State) (c : Nat) : State :=
  let k := (s.cluAt c).clock.step
  let w := s.wantedStep c
  if !s.sys.mainGood ∨ k = w then s else s.setStep c (if k < w then k + 1 else k - 1)

/-- CLOCK_STEP_CHANGE. -/
def execClockStepChange (c : Nat) (s : State) : Host.Outcome State Fault Refusal := answer (Instr.wf (.clockStepChange c)) s fun s => s.stepClock c

/-! ### The main input (R498) -/

/-- MAIN_INPUT_LOW: every cluster drops to 0.5 GHz. -/
def State.inputLow (s : State) (mV : Nat) : State :=
  if !s.sys.mainGood ∨ s.sys.lowSpell then s
  else
    let s := (upto 100).foldl (fun s c => s.setStep c 0) { s with sys := { s.sys with lowSpell := true } }
    s.powerEvent 1 0xFF 3 mV 40000 1

/-- MAIN_INPUT_LOW. -/
def execMainInputLow (mV : Nat) (s : State) : Host.Outcome State Fault Refusal := answer (Instr.wf (.mainInputLow mV)) s fun s => s.inputLow mV

/-- MAIN_INPUT_BACK_IN_RANGE: a low spell that did not reach cut-off ends. -/
def execMainInputBackInRange (mV : Nat) (s : State) : Host.Outcome State Fault Refusal :=
  answer (Instr.wf (.mainInputBackInRange mV)) s fun s => if 40000 ≤ mV then { s with sys := { s.sys with lowSpell := false } } else s

/-- MAIN_CUTOFF: the main rails go off. -/
def execMainCutoff (mV : Nat) (s : State) : Host.Outcome State Fault Refusal :=
  answer (Instr.wf (.mainCutoff mV)) s fun s =>
    if s.sys.mainGood then (s.capCycles.powerEvent 3 0xFF 3 mV (if mV < 36000 then 36000 else 59500) 1).cut else s

/-! ### The governor (R499, R503) -/

/-- Is the worst-case input power at STEP k at or below a limit in W (R499)? P_in = 1.075 × (100 × 27.1875 × f × (0.4 + 0.4 f)² + 1,050), with
f = (500 + 50 k) / 1,000 GHz. -/
def fitsAt (watts k : Nat) : Bool :=
  let f := 500 + 50 * k
  decide (1075 * (271875 * 16 * f * (1000 + f) ^ 2 + 1050 * 10 ^ 13) ≤ watts * 1000 * 10 ^ 13)

/-- The highest STEP that fits the limit, 0 when none does. -/
def worstStep (watts : Nat) : Nat := (upto 11).foldl (fun a k => if fitsAt watts k then max a k else a) 0

def State.setCap (s : State) (k : Nat) : State := s.putFld Reg.pwrStat 3 0 k

/-- While the governor is off, the power cap is fixed at STEP 10 (R509). -/
def State.fixCap (s : State) : State := if s.bit Reg.pwrCtrl 0 then s else s.setCap 10

/-- STEP 0 and the 10 ms average above WATTS: code 6, once per entry to this condition (R503, R508). -/
def State.reportHold (s : State) (avg10 : Nat) : State :=
  let lim := s.fld Reg.pwrLimit 11 0 * 1000
  let held := s.fld Reg.pwrStat 3 0 == 0 && decide (lim < avg10)
  let t := { s with sys := { s.sys with govHeld := held } }
  if held && !s.sys.govHeld then t.powerEvent 1 0xFF 1 avg10 lim 6 else t

/-- What a sample does to the power cap once telemetry is in force: 4 steps down at a peak, and no lowering for 1 ms after it; 1 step down, at most once per ms; 1
step up, at most once per 100 ms. -/
def State.govern (s : State) (mW avg10 avg100 : Nat) : State :=
  let watts := s.fld Reg.pwrLimit 11 0
  let peak := (watts + 10 * s.fld Reg.pwrLimit 47 40) * 1000
  let cap := s.fld Reg.pwrStat 3 0
  let now := s.sys.govTicks
  let afterPeak := decide (s.sys.govPeak + 10 ≤ now)
  if peak < mW ∧ afterPeak then (({ s with sys := { s.sys with govPeak := now } }).setCap (cap - 4)).powerEvent 0 0xFF 1 mW peak 8
  else if watts * 1000 < avg10 then
    if afterPeak ∧ s.sys.govLower + 10 ≤ now then ({ s with sys := { s.sys with govLower := now } }).setCap (cap - 1) else s
  else if avg100 + 10 * s.fld Reg.pwrLimit 39 32 * 1000 < watts * 1000 ∧ s.sys.govRaise + 1000 ≤ now then
    ({ s with sys := { s.sys with govRaise := now } }).setCap (min 10 (cap + 1))
  else s

/-- The last `n` numbers of a list. -/
def lastOf (n : Nat) (xs : List Nat) : List Nat := xs.drop (xs.length - n)

/-- The average of the last `n` samples, or of as many as there are. -/
def average (n : Nat) (xs : List Nat) : Nat := (lastOf n xs).sum / (lastOf n xs).length

/-- A sample kept with those of the last 100 ms, and the voltage with those of the last 10 ms. -/
def State.keepSample (s : State) (mW mV : Nat) : State :=
  { s with sys := { s.sys with power := lastOf 1000 (s.sys.power ++ [mW]), volts := lastOf 100 (s.sys.volts ++ [mV]) } }

/-- The averages of the main input over 10 ms shown in PWR.PIN and PWR.VIN (R509). -/
def State.showInput (s : State) : State := (s.putFld Reg.pwrPin 31 0 (average 100 s.sys.power)).putFld Reg.pwrVin 15 0 (average 100 s.sys.volts)

/-- The temperatures of the coolant at its inlet and outlet, in tenths of a degree (R505). -/
def State.coolant (s : State) (inlet outlet : Nat) : State := (s.putFld Reg.pwrCool 15 0 inlet).putFld Reg.pwrCool 31 16 outlet

/-- The energy of 100 µs counted in mJ. -/
def State.countEnergy (s : State) (mW : Nat) : State :=
  let e := s.sys.energyRem + mW
  let s := s.bump Reg.pwrEnergy (e / 10000)
  { s with sys := { s.sys with energyRem := e % 10000, govTicks := s.sys.govTicks + 1 } }

/-- The samples taken in phase 7, of which the first 1,000 end the worst-case mode (R503). -/
def State.telemetry (s : State) : State :=
  if s.bit Reg.pwrStat 8 then s
  else
    let n := if s.phase = 7 then s.sys.govServe + 1 else 0
    let s := { s with sys := { s.sys with govServe := n } }
    if 1000 ≤ n then s.putBit Reg.pwrStat 8 true else s

/-- GOVERNOR_SAMPLE: one sample of the main input, 100 µs after the last. It is shown while standby is good, and governs the power cap while GOVEN = 1 and the
main rails are on. -/
def State.sample (s : State) (mW mV : Nat) : State :=
  if !s.sys.standby then s
  else
    let s := ((s.keepSample mW mV).showInput.countEnergy mW).capCycles
    if !s.sys.mainGood then s
    else
      let s := s.telemetry
      if !(s.bit Reg.pwrCtrl 0) then ({ s with sys := { s.sys with govHeld := false } }).fixCap
      else
        let t := if s.bit Reg.pwrStat 8 then s.govern mW (average 100 s.sys.power) (average 1000 s.sys.power) else s.setCap (worstStep (s.fld Reg.pwrLimit 11 0))
        t.reportHold (average 100 s.sys.power)

/-- GOVERNOR_SAMPLE. -/
def execGovernorSample (mW mV inlet outlet : Nat) (s : State) : Host.Outcome State Fault Refusal :=
  answer (Instr.wf (.governorSample mW mV inlet outlet)) s fun s => (s.coolant inlet outlet).sample mW mV

/-! ### Temperature (R504) -/

/-- THERMAL_CAP_STEP: the sensor of a cluster reads `temp` tenths of a degree; its thermal cap falls above TCAP and rises below TCAP − 3 °C. -/
def State.thermalStep (s : State) (c temp : Nat) : State :=
  let s := s.putFld (Reg.pwrClu c) 47 32 temp
  let lim := 10 * s.fld Reg.pwrTlim 7 0
  let cap := s.fld (Reg.pwrClu c) 15 12
  if lim < temp then
    let s := s.putFld (Reg.pwrClu c) 15 12 (cap - 1)
    if s.sys.thEpisode.contains c then s
    else ({ s with sys := { s.sys with thEpisode := s.sys.thEpisode ++ [c] } }).powerEvent 1 c 2 temp lim 2
  else if temp + 30 < lim ∧ cap < 10 then
    let s := s.putFld (Reg.pwrClu c) 15 12 (cap + 1)
    if cap + 1 = 10 then { s with sys := { s.sys with thEpisode := s.sys.thEpisode.filter (· ≠ c) } } else s
  else s

/-- THERMAL_CAP_STEP. -/
def execThermalCapStep (c temp : Nat) (s : State) : Host.Outcome State Fault Refusal :=
  answer (Instr.wf (.thermalCapStep c temp)) s fun s => s.thermalStep c temp

/-- THERMAL_CUTOFF: the event is posted, THERMTRIP_N goes low, and the main rails go off. -/
def execThermalCutoff (island temp : Nat) (s : State) : Host.Outcome State Fault Refusal :=
  answer (Instr.wf (.thermalCutoff island temp)) s fun s =>
    if s.sys.mainGood then
      let t := (s.capCycles.powerEvent 3 island 2 temp (10 * s.fld Reg.pwrTlim 15 8) 3).cut
      { t with sys := { t.sys with thermtrip := true } }
    else s

/-- TIMING_MONITOR_RAISE (R506): the voltage of an island rises by 5 mV, and the change is kept for the next start. -/
def execTimingMonitorRaise (island : Nat) (s : State) : Host.Outcome State Fault Refusal :=
  answer (Instr.wf (.timingMonitorRaise island)) s fun s => s.setVolts island (s.voltsKept island + 5) (s.voltsNow island + 5)

/-- REEL_STACK_REFRESH_DOUBLED: the island of a reel stack is that of its controller (R26). -/
def execReelStackRefreshDoubled (stack temp : Nat) (s : State) : Host.Outcome State Fault Refusal :=
  answer (Instr.wf (.reelStackRefreshDoubled stack temp)) s fun s =>
    ({ s with mem := { s.mem with refresh2 := addNew s.mem.refresh2 stack } }).powerEvent 1 (108 + stack) 2 temp 950 5

/-- COOLANT_INLET_ABOVE_TINLET: the sensor of the coolant inlet reads `inlet` tenths of a degree; above TINLET it posts class 0x09, code 4 (R504). -/
def State.inletHot (s : State) (inlet : Nat) : State :=
  let s := s.putFld Reg.pwrCool 15 0 inlet
  let lim := 10 * s.fld Reg.pwrTlim 23 16
  if lim < inlet then s.powerEvent 1 0xFE 2 inlet lim 4 else s

/-- COOLANT_INLET_ABOVE_TINLET. -/
def execCoolantInletAboveTinlet (inlet : Nat) (s : State) : Host.Outcome State Fault Refusal :=
  answer (Instr.wf (.coolantInletAboveTinlet inlet)) s fun s => s.inletHot inlet

end Sys2Proof.Machine
end

