-- ==== Sys2Proof/Machine/SelfTest.lean ====
section
/-! DEFINITION. In-service self-test: the rotation, sessions, slices, and the suspect state (R447 to R453). -/

namespace Sys2Proof.Machine

/-- Does the rotation of the device run (R449)? -/
def State.rotOn (s : State) : Bool := s.bit Reg.relCtrl 0 && s.fld Reg.cfgStat 3 0 = 7

/-- The position that the pointer serves: the first one from it, in ascending order and wrapping, that is not failed. -/
def State.served (s : State) (c : Nat) : Option Nat :=
  let ptr := (s.cluAt c).rot.ptr
  ((upto 13).map fun i => 13 * c + (ptr + i) % 13).find? fun k => !s.isFailed k

/-- Has the cluster no idle spare, and no session that brings it back (R453)? A session has the spare when it has moved a slot to it or tests it. -/
def State.spareless (s : State) (c : Nat) : Bool :=
  (s.spareOf c).isNone && (match (s.cluAt c).rot.session with
    | some x => x.slot.isNone && x.held
    | none => true)

/-- A turn that has not started its session: REL.MISSED, and event class 0x08 with reason 4; a couch that it waits for is named with the cycles of its wait. -/
def State.missedTurn (s : State) (c k : Nat) : State :=
  let slot := if s.lcidOf k = 0x7FF then 15 else s.lcidOf k % 12
  let s := s.bump Reg.relMissed 1
  match (s.cluAt c).couch with
  | some r => if r.slot = slot then s.couchEvent 1 c slot (k % 13) r.target 4 (s.cycles c - r.since) else s.couchEvent 1 c slot (k % 13) 15 4 0
  | none => s.couchEvent 1 c slot (k % 13) 15 4 0

/-- ROTATION_TURN (R449, R453): a turn of a cluster falls. Without a spare it passes over a position that backs a slot, and so does one that still waits. -/
def State.turn (s : State) (c : Nat) : State :=
  if !s.rotOn then s
  else
    let r := (s.cluAt c).rot
    let waiting := r.turn.isSome || (match r.session with
      | some x => x.byTurn && x.phase == 0
      | none => false)
    match s.served c with
    | none => s
    | some k =>
      if s.spareless c && s.lcidOf k ≠ 0x7FF then
        let s := s.modClu c fun x => { x with rot := { x.rot with ptr := (k % 13 + 1) % 13, turn := none, noSpare := true } }
        if r.noSpare then s else s.post { cls := 5, sev := 1, ukind := 1, uidx := k, lcid := s.lcidOf k, d0 := 4 }
      else if waiting then s.missedTurn c k
      else s.modClu c fun x => { x with rot := { x.rot with turn := some s.sys.time } }

/-- ROTATION_TURN. -/
def execRotationTurn (c : Nat) (s : State) : Host.Outcome State Fault Refusal := answer (Instr.wf (.rotationTurn c)) s fun s => s.turn c

/-- SUSPECT_DUE (R449). -/
def execSuspectDue (k : Nat) (s : State) : Host.Outcome State Fault Refusal :=
  answer (Instr.wf (.suspectDue k)) s fun s => if s.rotOn && s.isSuspect k then s.makeDue k else s

/-! ### Sessions -/

/-- An item that waits for a session: position, due time, whether it is suspect, and whether it is the turn's. -/
structure Item where
  pos : Nat
  time : Nat
  sus : Bool
  turn : Bool
  deriving DecidableEq, Repr

/-- Does item `a` go before item `b`: the earlier due time, then a suspect item, then the lower position (R449)? -/
def Item.before (a b : Item) : Bool :=
  if a.time ≠ b.time then decide (a.time < b.time)
  else if a.sus ≠ b.sus then a.sus
  else decide (a.pos < b.pos)

/-- The first item of a list in the order of service. -/
def firstItem : List Item → Option Item
  | [] => none
  | x :: xs =>
    match firstItem xs with
    | none => some x
    | some y => if y.before x then some y else some x

/-- The items of a cluster that may start now: a position that backs a slot needs an idle spare and no other couch (R449, R453). -/
def State.items (s : State) (c : Nat) : List Item :=
  let r := (s.cluAt c).rot
  let turn := match r.turn, s.served c with
    | some t, some k => [(⟨k, t, s.isSuspect k, true⟩ : Item)]
    | _, _ => []
  (turn ++ r.due.map fun d => ⟨d.1, d.2, s.isSuspect d.1, false⟩).filter fun x =>
    !s.isFailed x.pos && (s.lcidOf x.pos = 0x7FF || ((s.spareOf c).isSome && (s.cluAt c).couch.isNone))

/-- TEST_SESSION_START (R447, R449): the first due item of a cluster without a session starts; a position that backs a slot is couched to the
idle spare first. -/
def State.startSession (s : State) (c : Nat) : State :=
  if !s.rotOn ∨ (s.cluAt c).rot.session.isSome then s
  else
    match firstItem (s.items c) with
    | none => s
    | some x =>
      let i := s.lcidOf x.pos
      let couched := decide (i ≠ 0x7FF)
      let s := s.putBit (Reg.relPosStat x.pos) 62 true
      let s := s.modClu c fun k =>
        { k with rot := { k.rot with
            session := some ⟨x.pos, if couched then some (i % 12) else none, if couched then 0 else 1, 0, x.turn, s.stateOf x.pos = 5, none⟩
            turn := if x.turn then none else k.rot.turn
            due := k.rot.due.filter fun d => d.1 ≠ x.pos
            ptr := if x.turn && !couched then (x.pos % 13 + 1) % 13 else k.rot.ptr } }
      if couched then s.requestCouch c (i % 12) (((s.spareOf c).getD 0) % 13) 1
      else (s.putBit (Reg.cluPos c) (16 + x.pos % 13) false).setStateOf x.pos 4

/-- TEST_SESSION_START. -/
def execTestSessionStart (c : Nat) (s : State) : Host.Outcome State Fault Refusal :=
  answer (Instr.wf (.testSessionStart c)) s fun s => s.startSession c

/-- A position reinitialised (R447 step 3): registers, LDM and caches as after device reset. -/
def State.reinit (s : State) (k : Nat) : State :=
  let lo := physBase + k * 2 ^ 18
  let s := s.setCore k { Core.reset with caches := (s.coreAt k).caches.emptied }
  { s with mem := { s.mem with errs := s.mem.errs.filter fun e => !(decide (lo ≤ e.1) && decide (e.1 < lo + 2 ^ 18)) } }

/-- A session that has passed its last slice: the position is reinitialised; it takes its slot back at the slot's next couch point, or is the cluster's idle
spare, suspect when it had been held (R447, R450, R451). -/
def State.passSession (s : State) (c : Nat) (x : Session) : State :=
  let k := x.pos
  let s := s.reinit k
  match x.slot with
  | some slot =>
    (s.modClu c fun y => { y with rot := { y.rot with session := some { x with phase := 2 } } }).requestCouch c slot (k % 13) 2
  | none =>
    let s := (s.makeSpare k).sessionPassed k
    if x.held then s.markSuspect k else s

/-- A session whose slice has failed (R452). -/
def State.failSession (s : State) (c : Nat) (x : Session) (expected obtained : Word) : State :=
  let k := x.pos
  let s := (s.bump Reg.relTests 1).bump Reg.relFails 1
  let s := (s.putBit (Reg.cluPos c) (k % 13) true).putFld (Reg.relPosStat k) 55 48 x.slice
  let s := (s.setStateOf k 0).putBit (Reg.relPosStat k) 62 false
  let s := s.modClu c fun y => { y with rot := { y.rot with session := none } }
  s.post { cls := 5, sev := 3, ukind := 1, uidx := k, d0 := x.slice * 2 ^ 8, d1 := expected.toNat, d2 := obtained.toNat }

/-- SELF_TEST_SLICE_END (R447): a slice ends with a result, which is compared with the expected one. It waits until the headbox of the position
is idle (R412). -/
def State.sliceEnd (s : State) (c : Nat) (obtained : Word) : State :=
  match (s.cluAt c).rot.session with
  | none => s
  | some x =>
    if x.phase ≠ 1 ∨ (s.coreAt x.pos).work.hbq.any (·.begun) then s
    else
      let expected := Config.bistSig x.slice
      if obtained ≠ expected then s.failSession c x expected obtained
      else if x.slice < 31 then s.modClu c fun y => { y with rot := { y.rot with session := some { x with slice := x.slice + 1, ended := some s.sys.time } } }
      else s.passSession c x

/-- SELF_TEST_SLICE_END. -/
def execSelfTestSliceEnd (c : Nat) (obtained : Word) (s : State) : Host.Outcome State Fault Refusal :=
  answer (Instr.wf (.selfTestSliceEnd c obtained)) s fun s => s.sliceEnd c obtained

/-! ### REL.POSREQ (R450, R459) -/

def State.posTest (s : State) (k : Nat) : State := if s.isFailed k then s else s.makeDue k

/-- REL_POSREQ_TEST. -/
def execRelPosreqTest (k : Nat) (s : State) : Host.Outcome State Fault Refusal := answer (Instr.wf (.relPosreqTest k)) s (State.written fun s => s.posTest k)

/-- REL_POSREQ_MARK. -/
def execRelPosreqMark (k : Nat) (s : State) : Host.Outcome State Fault Refusal := answer (Instr.wf (.relPosreqMark k)) s (State.written fun s => s.markSuspect k)

/-- REL_POSREQ_UNMARK. -/
def execRelPosreqUnmark (k : Nat) (s : State) : Host.Outcome State Fault Refusal := answer (Instr.wf (.relPosreqUnmark k)) s (State.written fun s => s.clearSuspect k)

/-- A write of REL.POSREQ (R459). -/
def State.posreqWrite (s : State) (v : Word) : State :=
  let k := wfld v 10 0
  let mark := wfld v 62 62 = 1
  let unmark := wfld v 61 61 = 1
  if 1300 ≤ k ∨ (mark ∧ unmark) then s
  else
    let s := if wfld v 63 63 = 1 then s.posTest k else s
    let s := if mark then s.markSuspect k else s
    if unmark then s.clearSuspect k else s

/-- SUSPECT_HOURS_ELAPSED (R450): REL.SUS.HOURS have passed since a position became suspect. -/
def State.hoursElapsed (s : State) (k : Nat) : State :=
  if s.isSuspect k then (s.modClu (k / 13) fun c => { c with rot := { c.rot with aged := addNew c.rot.aged k } }).maybeClear k else s

/-- SUSPECT_HOURS_ELAPSED. -/
def execSuspectHoursElapsed (k : Nat) (s : State) : Host.Outcome State Fault Refusal :=
  answer (Instr.wf (.suspectHoursElapsed k)) s fun s => s.hoursElapsed k

end Sys2Proof.Machine
end

