-- ==== Sys2Proof/Machine/Regs.lean ====
section
/-! DEFINITION. Reads and writes of CSR space by the host, the management path and the cores (R13 to R18, R362, R363, R401, R441, R462, R488). -/

namespace Sys2Proof.Machine

/-! ### Reads -/

/-- Word `w` of 48 bytes. -/
def wordOf (bs : List Byte) (w : Nat) : Word := BitVec.ofNat 64 (ofLe ((bs.drop (8 * w)).take 8))

/-- The value that a register of 8 bytes shows. Some show state that lies elsewhere: identity and features, the second view of the doorbells, the table entry and the
remap entry that an index names, the tender clock and the debug nonce. -/
def State.csrRead (s : State) (off : Nat) : Word :=
  if off = Reg.devSerial then Config.serial
  else if off = Reg.devFeatOffer 0 then s.featOffer
  else if Reg.hifCdbc 0 ≤ off ∧ off ≤ Reg.hifCdbc 18 then s.cur (off - 0x100)
  else if off = Reg.memPatval then
    let a := s.patBase + 8 * s.fld Reg.memPatidx 19 0
    if s.capBytes < a + 8 then 0 else s.tableEntry (s.fld Reg.memPatidx 19 0)
  else if Reg.memCtl 0 ≤ off ∧ off < Reg.memCapacity ∧ off % 0x10000 = 0x28 then
    let k := (off - Reg.memCtl 0) / 0x10000
    s.remapAt (64 * k + s.fld (Reg.memRmidx k) 13 8) (s.fld (Reg.memRmidx k) 7 0)
  else if Reg.orb 0 0 ≤ off ∧ (off - 0x1000000) % 0x40000 / 0x1000 = 0x21 ∧ off % 0x40 = 0x20 ∧ off % 0x1000 < 0x200 then
    s.cur off ||| BitVec.ofNat 64 (b2n (s.orbBusy ((off - 0x1000000) / 0x40000) (off % 0x1000 / 0x40)))
  else if off = Reg.pwrCapcyc then s.capCycles.cur off
  else if off = Reg.secTclk then BitVec.ofNat 64 s.tclk
  else if Reg.secDbgnonce 0 ≤ off ∧ off ≤ Reg.secDbgnonce 5 then wordOf s.dbgNonce ((off - Reg.secDbgnonce 0) / 8)
  else s.cur off

/-- The bits of a register word that an access of 4 or 8 bytes addresses. -/
def selOf (off size : Nat) : Nat := if size = 8 then 2 ^ 64 - 1 else if off % 8 = 4 then 2 ^ 64 - 2 ^ 32 else 2 ^ 32 - 1

/-- The bits of a register word that clear when they are read (R14). -/
def rcMask (off : Nat) : Nat := ((fieldsAt off).filter fun f => f.acc == .rc).foldl (fun a f => a + f.mask) 0

/-- A read of 4 or 8 bytes: the value, and the state after the RC bits that it returns have cleared (R15). -/
def State.readCsr (s : State) (off size : Nat) : State × Word :=
  let o := off - off % 8
  let sel := selOf off size
  let v := s.csrRead o &&& BitVec.ofNat 64 sel
  let s' := if rcMask o = 0 then s else s.put o (s.raw o &&& ~~~(BitVec.ofNat 64 (sel &&& rcMask o)))
  (s', if off % 8 = 4 ∧ size = 4 then v >>> 32 else v)

/-- Does CSR space take an access: naturally aligned, of 4 or 8 bytes (R13)? -/
def csrSizeOk (off size : Nat) : Bool := (size == 4 || size == 8) && off % size == 0

/-- HOST_COUNTER_READ (R363): a 4-byte host read of a word of a counter, through the host read latch. -/
def State.counterRead (s : State) (off : Nat) : State × Word :=
  let o := off - off % 8
  let snap : Word := match s.hif.latch with
    | some (r, v) => if off % 8 = 4 ∧ r = o then v else s.csrRead o
    | none => s.csrRead o
  ({ s with hif := { s.hif with latch := some (o, snap) } }, if off % 8 = 4 then snap >>> 32 else snap &&& 0xFFFFFFFF)

/-- A 4-byte host read. -/
def State.hostRead4 (s : State) (off : Nat) : State × Word := if isCounter (off - off % 8) then s.counterRead off else s.readCsr off 4

/-- HOST_COUNTER_READ. -/
def execHostCounterRead (off : Nat) (s : State) : Host.Outcome State Fault Refusal :=
  answer (Instr.wf (.hostCounterRead off)) s fun s => let r := s.hostRead4 off; r.1.emit (.csrData r.2)

/-- The exception that a core's access to CSR space raises where it may not reach the register: privilege in user state (R90), else the alignment exception
of R13. It stands at the core's next leaf (log row 147). -/
def State.coreRefused (s : State) (pos code off : Nat) : State :=
  let f := (s.coreAt pos).arch.flow
  if f.exc.isSome then s else s.setFlow pos { f with exc := some (leafExc code 0 0 0 (csrBase + off)) }

/-- May an access of a core to CSR space reach the register? The code that it raises if not (R13, R90). -/
def State.coreBars (s : State) (pos off size : Nat) : Option Nat :=
  if !(s.coreAt pos).arch.priv then some 2 else if !csrSizeOk off size then some 6 else none

/-- RC_READ (R13, R15, R362): a read of a register; RC bits that it returns clear. A read of a wrong size or alignment returns zero to the host, which is
recorded, and raises an exception of a core. -/
def State.readBy (s : State) (src : Src) (off size : Nat) : State :=
  match src with
  | .bar2 => s.functionRead State.bar2Word off size
  | .config => s.functionRead State.confRead off size
  | .core pos =>
    (match s.coreBars pos off size with
     | some code => s.coreRefused pos code off
     | none => let r := s.readCsr off size; r.1.emit (.csrData r.2))
  | .mgmt => if csrSizeOk off size then let r := s.readCsr off size; r.1.emit (.csrData r.2) else s
  | .host =>
    if !csrSizeOk off size then (s.badAccess 2 false (sizeCode size) off).emit (.csrData 0)
    else
      let r := if size = 4 then s.hostRead4 off else s.readCsr off size
      r.1.emit (.csrData r.2)

/-- RC_READ. -/
def execRcRead (src : Src) (off size : Nat) (s : State) : Host.Outcome State Fault Refusal := answer (Instr.wf (.rcRead src off size)) s fun s => s.readBy src off size

/-- MBOX_IN_READ (R90, R462): the core reads its message, and the register clears. -/
def execMboxInRead (read : MboxRead) (s : State) : Host.Outcome State Fault Refusal :=
  answer (Instr.wf (.mboxInRead read)) s fun s => s.readBy (.core read.pos) (Reg.secMboxIn read.id) 8

/-! ### Writes with an effect of their own -/

/-- The effect of MBOX_OUT_WRITE (R462, R496): a core writes the message of its own mailbox, unless one is there. -/
def State.mboxWrite (s : State) (pos i : Nat) (v : Word) : State :=
  if s.lcidOf pos ≠ i ∨ s.bit (Reg.secMboxOut i) 63 then s else s.put (Reg.secMboxOut i) (v ||| 0x8000000000000000)

/-- Does a range lie wholly in the felt tier or in the reel tier below capacity? -/
def State.inTiers (s : State) (a n : Nat) : Bool := decide (a + n ≤ s.capBytes) || (decide (feltBase ≤ a) && decide (a + n ≤ feltBase + 2 ^ 32))

/-- Do two ranges of bytes meet? -/
def meets (a n b k : Nat) : Bool := decide (a < b + k) && decide (b < a + n)

/-- Data range and shadow range of a watermark window, each as base and length (R440). -/
def State.wmRanges (s : State) (n : Nat) : (Nat × Nat) × (Nat × Nat) :=
  let b := s.fld (Reg.relWmwDbase n) 47 12
  let l := s.fld (Reg.relWmwDlimit n) 47 12
  ((4096 * b, 4096 * (l - b)), (4096 * s.fld (Reg.relWmwSbase n) 47 12, 4 * (l - b)))

/-- May window `n` come into force (R441)? -/
def State.wmAllowed (s : State) (n : Nat) : Bool :=
  let r := s.wmRanges n
  let others := (upto 16).filter fun m => m != n && s.bit (Reg.relWmwDbase m) 63
  decide (s.fld (Reg.relWmwDbase n) 47 12 < s.fld (Reg.relWmwDlimit n) 47 12) && s.inTiers r.1.1 r.1.2 && s.inTiers r.2.1 r.2.2 &&
    others.all (fun m => let d := (s.wmRanges m).1; !(meets r.1.1 r.1.2 d.1 d.2) && !(meets r.2.1 r.2.2 d.1 d.2)) &&
    !(meets r.2.1 r.2.2 r.1.1 r.1.2)

/-- REL_WMW_DBASE_EN: a write of REL.WMWn.DBASE. -/
def State.wmwWrite (s : State) (n : Nat) (v : Word) : State :=
  let off := Reg.relWmwDbase n
  let was := s.bit off 63
  let s := if wfld v 62 62 = 1 then s.putBit off 62 false else s
  if was then s.putBit off 63 (wfld v 63 63 = 1)
  else
    let s := s.putFld off 47 12 (wfld v 47 12)
    if wfld v 63 63 = 0 then s else if s.wmAllowed n then s.putBit off 63 true else s.putBit off 62 true

/-- REL_WMW_DBASE_EN. -/
def execRelWmwDbaseEn (n : Nat) (v : Word) (s : State) : Host.Outcome State Fault Refusal := answer (Instr.wf (.relWmwDbaseEn n v)) s (State.written fun s => s.wmwWrite n v)

/-! ### Writes -/

/-- The word that a write of part of a register amounts to: bits that it does not address keep what RW fields hold, and act on nothing else. -/
def State.wholeWord (s : State) (off sel : Nat) (v : Word) : Word :=
  let keep := ((fieldsAt off).filter fun f => f.acc == .rw).foldl (fun a f => a + f.mask) 0
  (v &&& BitVec.ofNat 64 sel) ||| (s.csrRead off &&& BitVec.ofNat 64 (keep &&& (2 ^ 64 - 1 - sel)))

/-- Writes of DEV, HIF, CFG, PWR and MEM registers. -/
def State.writeLow (s : State) (off sel : Nat) (v : Word) : State :=
  let w := s.wholeWord off sel v
  if off = Reg.devFeatctl then
    let s := s.writeReg off sel v.toNat
    if wfld w 0 0 = 1 then s.featCommit else s
  else if off = Reg.hifHdmctl then s.hdmctlWrite w
  else if 0x100100 ≤ off ∧ off < 0x100200 then s.hwinWrite ((off - 0x100100) / 0x20) off sel v
  else if 0x101000 ≤ off ∧ off < 0x101400 ∧ off % 0x40 = 0 then s.queueCtrl ((off - 0x101000) / 0x40) sel v
  else if 0x101000 ≤ off ∧ off < 0x101400 ∧ off % 0x40 = 0x18 then s.sqtailWrite ((off - 0x101000) / 0x40) w
  else if 0x101000 ≤ off ∧ off < 0x101400 ∧ off % 0x40 = 0x28 then s.cqheadWrite ((off - 0x101000) / 0x40) w
  else if Reg.hifCdb 0 ≤ off ∧ off ≤ Reg.hifCdb 18 then s.cdbWrite ((off - Reg.hifCdb 0) / 8) (v &&& BitVec.ofNat 64 sel)
  else if Reg.hifCdbc 0 ≤ off ∧ off ≤ Reg.hifCdbc 18 then s.cdbcWrite ((off - Reg.hifCdbc 0) / 8) (v &&& BitVec.ofNat 64 sel)
  else if off = Reg.pwrCtrl then (s.writeReg off sel v.toNat).fixCap
  else if off = Reg.cfgStore then
    if wfld w 1 0 = 1 then s.storeAsk s.storeRecs else if wfld w 1 0 = 2 then s.storeAsk [] else s
  else if off = Reg.memPatctl then s.patctlWrite w
  else if off = Reg.memPatidx then (if s.bit off 63 then s else s.writeReg off sel v.toNat)
  else if off = Reg.memPatval then s.patvalWrite w
  else if off = Reg.memSurack then s.surack w
  else s.writeReg off sel v.toNat

/-- Writes of FAB, REL and SNAP registers. -/
def State.writeMid (s : State) (off sel : Nat) (v : Word) : State :=
  let w := s.wholeWord off sel v
  if off < 0x720000 ∧ off % 0x8000 = 0 then s.portCtrl ((off - Reg.fabP 0) / 0x8000) w
  else if off = Reg.fabJobctl then
    let s := if wfld w 0 0 = 1 then s.jobLoad else s
    let s := if wfld w 1 1 = 1 then s.jobStart else s
    if wfld w 2 2 = 1 then s.jobStop else s
  else if off = Reg.fabHold then s.holdWrite w
  else if off = Reg.fabPatch then s.patchWrite w
  else if off = Reg.fabRaise then s.raiseWrite w
  else if off = Reg.fabSubst then s.subst w
  else if Reg.fabStr 0 ≤ off ∧ off < Reg.fabStr 16 ∧ off % 0x40 = 0 then (if wfld w 1 1 = 1 then s.streamReload ((off - Reg.fabStr 0) / 0x40) else s)
  else if off = Reg.relPosreq then s.posreqWrite w
  else if Reg.relWmwDbase 0 ≤ off ∧ off < Reg.relWmwDbase 16 then
    let n := (off - Reg.relWmwDbase 0) / 0x20
    if off % 0x20 = 0 then s.wmwWrite n w else if s.bit (Reg.relWmwDbase n) 63 then s else s.writeReg off sel v.toNat
  else if off = Reg.snapCtrl then (if wfld w 0 0 = 1 then { s with snap := { s.snap with now := true } } else s)
  else if Reg.snapPmem 0 ≤ off ∧ off ≤ Reg.snapPmem 15 then s.pmemWrite ((off - Reg.snapPmem 0) / 8) w
  else if off = Reg.snapRestore then s.restoreGo w
  else s.writeReg off sel v.toNat

/-- Writes of NUM and cluster registers. -/
def State.writeHigh (s : State) (off sel : Nat) (v : Word) : State :=
  let w := s.wholeWord off sel v
  if off < 0x1000000 then
    if 0xB01000 ≤ off ∧ off < 0xB02400 then s.numWrite off sel v
    else if 0xB10000 ≤ off ∧ off % 0x40 = 0 then s.slotWrite ((off - 0xB10000) / 0x40) w
    else s.writeReg off sel v.toNat
  else
    let c := (off - 0x1000000) / 0x40000
    if off = Reg.cluCouch c then s.cluCouchWrite c w
    else if off = Reg.calCtrl c then (if wfld w 0 0 = 1 then s.calReset c else s)
    else if off = Reg.calQbase c then s.calQwrite c false w
    else if off = Reg.calStep c then s.calQwrite c true w
    else if Reg.orb c 0 ≤ off ∧ off < Reg.orb c 8 then
      let j := (off - Reg.orb c 0) / 0x40
      if off % 0x40 = 0 then s.orbCtrlWrite c j w else if off % 0x40 < 0x20 ∧ s.orbBusy c j then s else s.writeReg off sel v.toNat
    else s.writeReg off sel v.toNat

/-- Does a write address a field that a write can act on? -/
def actsOn (off sel : Nat) : Bool :=
  (Reg.hifCdbc 0 ≤ off && off ≤ Reg.hifCdbc 18) || ((fieldsAt off).any fun f => f.acc != .ro && f.acc != .rc && f.mask &&& sel != 0)

/-- A write of 4 or 8 bytes to a register: by the effect that the register has, else by the access codes of its fields (R14, R16). -/
def State.writeAny (s : State) (off sel : Nat) (v : Word) : State :=
  if !(actsOn off sel) then s
  else if off < 0x600000 then s.writeLow off sel v
  else if off < 0xA00000 then s.writeMid off sel v
  else if off < 0xB00000 then s.writeReg off sel v.toNat
  else s.writeHigh off sel v

/-- May a source write a register now? Before PHASE 7 the host and the management path reach DEV.FEAT_ACCEPT and DEV.FEATCTL alone (R401); nobody but the
management path writes the SEC block (R488). -/
def State.mayWrite (s : State) (src : Src) (off : Nat) : Bool :=
  let sec := decide (0xA00000 ≤ off) && decide (off < 0xB00000)
  let early := off == Reg.devFeatctl || (decide (Reg.devFeatAccept 0 ≤ off) && decide (off ≤ Reg.devFeatAccept 3))
  match src with
  | .host => !sec && (s.phase == 7 || early)
  | .mgmt => s.phase == 7 || early
  | .core _ => !sec
  | .bar2 | .config => false

/-- REGISTER_WRITE (R13, R14): a write by the host, the management path or a core. One of a wrong size or alignment changes nothing; it is recorded for the
host, and raises an exception of a core. -/
def State.writeCsrBy (s : State) (src : Src) (off size : Nat) (v : Word) : State :=
  let o := off - off % 8
  let sel := selOf off size
  let w := if off % 8 = 4 ∧ size = 4 then v <<< 32 else v
  let barred := match src with
    | .core pos => s.coreBars pos off size
    | _ => none
  if barred.isSome ∨ !csrSizeOk off size then
    (match src with
     | .host => s.badAccess 2 true (sizeCode size) off
     | .core pos => s.coreRefused pos (barred.getD 6) off
     | _ => s)
  else
    match src with
    | .core pos =>
      if Reg.secMboxIn 0 ≤ o ∧ o < Reg.secMboxIn 1200 then
        if o % 16 = 8 then s.mboxWrite pos ((o - Reg.secMboxIn 0) / 16) ((w &&& BitVec.ofNat 64 sel) ||| (s.raw o &&& ~~~(BitVec.ofNat 64 sel))) else s
      else if s.mayWrite src o then s.writeAny o sel w else s
    | _ => if s.mayWrite src o then s.writeAny o sel w else s

/-- MBOX_OUT_WRITE (R90, R462): a core's write of a mailbox, as any of its writes to CSR space. -/
def execMboxOutWrite (pos i : Nat) (v : Word) (s : State) : Host.Outcome State Fault Refusal :=
  answer (Instr.wf (.mboxOutWrite pos i v)) s fun s => s.writeCsrBy (.core pos) (Reg.secMboxOut i) 8 v

/-- A write by any source, through BAR2 and to configuration space too (R361). -/
def State.writeBy (s : State) (src : Src) (off size : Nat) (v : Word) : State :=
  match src with
  | .bar2 => s.functionWrite State.bar2Write off size v
  | .config => s.functionWrite State.confWrite off size v
  | _ => s.writeCsrBy src off size v

/-- REGISTER_WRITE. -/
def execRegisterWrite (src : Src) (off size : Nat) (v : Word) (s : State) : Host.Outcome State Fault Refusal :=
  answer (Instr.wf (.registerWrite src off size v)) s fun s => s.writeBy src off size v

end Sys2Proof.Machine
end

