-- ==== Sys2Proof/Machine/Scalar.lean ====
section
/-! DEFINITION. Scalar ALU operations: operand tags, integer, address, compare, tag and floating operations (R40 to R42, R59 to R63,
R521). -/

namespace Sys2Proof.Machine

/-- The outcome of a scalar operation: a value with its floating conditions, a tag fault that names a register (0x04), or an
address fault that mkdesc raises (code, KIND). -/
inductive AluRes where
  | ok (v : Tagged) (fl : FFlags)
  | tag (reg : Nat)
  | addr (code kind : Nat) (a : Word)
  deriving DecidableEq, Repr

def isInt (t : Tag) : Bool := t = 0 || t = 0xE
def isAddrTag (t : Tag) : Bool := t = 1 || t = 5

def intV (w : Word) : AluRes := .ok ⟨w, 0⟩ 0
def condV (b : Bool) : AluRes := .ok ⟨if b then 1 else 0, 6⟩ 0

/-- Signed quotient rounded towards zero, with the fixed results of R60. -/
def divS (a b : Word) : Word := if b = 0 then BitVec.allOnes 64 else BitVec.ofInt 64 (Int.tdiv a.toInt b.toInt)
def remS (a b : Word) : Word := if b = 0 then a else BitVec.ofInt 64 (Int.tmod a.toInt b.toInt)
def divU (a b : Word) : Word := if b = 0 then BitVec.allOnes 64 else BitVec.ofNat 64 (a.toNat / b.toNat)
def remU (a b : Word) : Word := if b = 0 then a else BitVec.ofNat 64 (a.toNat % b.toNat)

/-- Leading zeros of the low `n` bits. -/
def clzFrom : Nat → Nat → Nat
  | 0, _ => 0
  | n + 1, x => if x.testBit n then 0 else 1 + clzFrom n x

def ctzFrom : Nat → Nat → Nat
  | 0, _ => 0
  | n + 1, x => if x % 2 = 1 then 0 else 1 + ctzFrom n (x / 2)

/-- The register-register operations on integers (R59, R60). -/
def intRR (op : Nat) (a b : Word) : Word :=
  match op with
  | 0x00 => a + b
  | 0x01 => a - b
  | 0x02 => a &&& b
  | 0x03 => a ||| b
  | 0x04 => a ^^^ b
  | 0x05 => a <<< (b.toNat % 64)
  | 0x06 => a >>> (b.toNat % 64)
  | 0x07 => a.sshiftRight (b.toNat % 64)
  | 0x08 => a * b
  | 0x09 => wordOfInt (a.toInt * b.toInt / (2 ^ 64 : Nat))
  | 0x0A => BitVec.ofNat 64 (a.toNat * b.toNat / 2 ^ 64)
  | 0x0B => divS a b
  | 0x0C => divU a b
  | 0x0D => remS a b
  | 0x0E => remU a b
  | 0x0F => if a.toInt ≤ b.toInt then a else b
  | 0x10 => if a.toInt ≤ b.toInt then b else a
  | 0x11 => if a.toNat ≤ b.toNat then a else b
  | 0x12 => if a.toNat ≤ b.toNat then b else a
  | 0x13 => a &&& ~~~b
  | 0x14 => a.rotateLeft (b.toNat % 64)
  | 0x15 => BitVec.ofNat 64 (clzFrom 64 a.toNat)
  | 0x16 => BitVec.ofNat 64 (ctzFrom 64 a.toNat)
  | _ => BitVec.ofNat 64 (popCount 64 a.toNat)

/-- Class 0x1: the result tag by R41, or the register whose tag fails (R40, R41, R59). -/
def aluRR (op ra rb : Nat) (a b : Tagged) : AluRes :=
  let v := intRR op a.pay b.pay
  if 0x15 ≤ op then (if isInt a.tag then intV v else .tag ra)
  else if isInt a.tag && isInt b.tag then intV v
  else
    match op with
    | 0x00 =>
      if isAddrTag a.tag && isInt b.tag then .ok ⟨v, a.tag⟩ 0
      else if isInt a.tag && isAddrTag b.tag then .ok ⟨v, b.tag⟩ 0
      else .tag (if isInt a.tag || isAddrTag a.tag then rb else ra)
    | 0x01 =>
      if isAddrTag a.tag && isInt b.tag then .ok ⟨v, a.tag⟩ 0
      else if isAddrTag a.tag && b.tag = a.tag then intV v
      else .tag (if isInt a.tag || isAddrTag a.tag then rb else ra)
    | 0x02 =>
      if a.tag = 1 && isInt b.tag then .ok ⟨v, 1⟩ 0
      else .tag (if isInt a.tag || a.tag = 1 then rb else ra)
    | _ => .tag (if isInt a.tag then rb else ra)

/-- Class 0x2 (R41, R61). -/
def aluRI (op ra : Nat) (a : Tagged) (imm : Nat) : AluRes :=
  let i : Word := wordOfInt (sext 15 imm)
  match op with
  | 0x00 => if isInt a.tag || isAddrTag a.tag then .ok ⟨a.pay + i, if isAddrTag a.tag then a.tag else 0⟩ 0 else .tag ra
  | 0x01 => if isInt a.tag || a.tag = 1 then .ok ⟨a.pay &&& i, if a.tag = 1 then 1 else 0⟩ 0 else .tag ra
  | 0x08 => intV i
  | _ =>
    if !isInt a.tag then .tag ra
    else
      match op with
      | 0x02 => intV (a.pay ||| i)
      | 0x03 => intV (a.pay ^^^ i)
      | 0x04 => intV (a.pay <<< (imm % 64))
      | 0x05 => intV (a.pay >>> (imm % 64))
      | 0x06 => intV (a.pay.sshiftRight (imm % 64))
      | 0x07 => intV (a.pay * i)
      | _ => condV (decide (a.pay.toInt < i.toInt))

/-- The floating format of a tag (R39, R63). -/
def fmtOfTag (t : Tag) : Option Fmt := if t = 2 then some fp64 else if t = 3 then some fp32 else none

/-- Sign bit of the format of a tag. -/
def signOf (t : Tag) : Word := if t = 2 then 0x8000000000000000 else 0x80000000

/-- The register whose tag keeps floating operands from being of one format (R40). -/
def floatTags (ra rb : Nat) (a b : Tagged) : Option Nat :=
  match fmtOfTag a.tag with
  | none => some ra
  | some _ => if b.tag = a.tag then none else some rb

/-- A scalar floating result: rounded once under MODE (R63). -/
def fpRes (mode : Word) (t : Tag) (f : Fmt) (r : Num × FFlags) : AluRes :=
  let o := roundRes f (modeFrm mode) (modeFtz mode) r
  .ok ⟨BitVec.ofNat 64 o.1, t⟩ o.2

/-- A floating compare (R62), with NV for a signalling NaN alone (R196). -/
def fpCmp (op : Nat) (x y : Num) : Bool × FFlags :=
  let c := Num.cmp x y
  (match op with
   | 0x18 => decide (c = .eq)
   | 0x19 => decide (c = .lt)
   | _ => decide (c = .lt) || decide (c = .eq), if x.isSnan || y.isSnan then fNV else 0)

/-- cvt (R63, R521). -/
def cvtOp (mode : Word) (ra dst : Nat) (a : Tagged) : AluRes :=
  let md := modeFrm mode
  let x : Option (Num × FFlags) :=
    if isInt a.tag then some (Num.ofInt a.pay.toInt, 0)
    else
      match fmtOfTag a.tag with
      | some f =>
        let n := f.unpackZ (modeFtz mode) a.pay.toNat
        some (n, if n.isSnan then fNV else 0)
      | none => none
  match x with
  | none => .tag ra
  | some (n, sn) =>
    match dst with
    | 0 => let r := toIntSat md (-(2 ^ 63 : Nat)) ((2 ^ 63 : Nat) - 1) n; .ok ⟨wordOfInt r.1, 0⟩ (r.2 ||| sn)
    | 1 => let r := toIntSat md 0 ((2 ^ 64 : Nat) - 1) n; .ok ⟨wordOfInt r.1, 0⟩ (r.2 ||| sn)
    | 2 => fpRes mode 2 fp64 (n, sn)
    | _ => fpRes mode 3 fp32 (n, sn)

/-- Class 0x3, mkdesc apart (R41, R42, R62, R63). sel takes ra and rb with every tag, 0xF included: the table of R40 has no row for them (log row 146). -/
def aluMisc (mode lit : Word) (op ra rb rc : Nat) (a b c : Tagged) : AluRes :=
  let addrEq := isAddrTag a.tag && b.tag = a.tag
  let two (v : Bool) (addrOk : Bool) : AluRes :=
    if (isInt a.tag && isInt b.tag) || (addrOk && addrEq) then condV v
    else .tag (if isInt a.tag || (addrOk && isAddrTag a.tag) then rb else ra)
  let cond (v : Bool) : AluRes := if a.tag ≠ 6 then .tag ra else if b.tag ≠ 6 then .tag rb else condV v
  let a0 := a.pay.getLsbD 0
  let b0 := b.pay.getLsbD 0
  match op with
  | 0x00 => two (decide (a.pay = b.pay)) true
  | 0x01 => two (decide (a.pay ≠ b.pay)) true
  | 0x02 => two (decide (a.pay.toInt < b.pay.toInt)) false
  | 0x03 => two (decide (a.pay.toNat < b.pay.toNat)) true
  | 0x04 => two (decide (a.pay.toInt ≤ b.pay.toInt)) false
  | 0x05 => two (decide (a.pay.toNat ≤ b.pay.toNat)) true
  | 0x06 => cond (a0 && b0)
  | 0x07 => cond (a0 || b0)
  | 0x08 => if a.tag ≠ 6 then .tag ra else condV (!a0)
  | 0x09 => if c.tag ≠ 6 then .tag rc else .ok (if c.pay.getLsbD 0 then a else b) 0
  | 0x0A => if a.tag = 0xF then .tag ra else .ok a 0
  | 0x0B => intV (BitVec.setWidth 64 a.tag)
  | 0x0C => .ok ⟨a.pay, BitVec.ofNat 4 rb⟩ 0
  | 0x0D => .ok ⟨lit, BitVec.ofNat 4 rb⟩ 0
  | 0x1B => cvtOp mode ra rb a
  | 0x1C => if (fmtOfTag a.tag).isSome then .ok ⟨a.pay ^^^ signOf a.tag, a.tag⟩ 0 else .tag ra
  | 0x1D => if (fmtOfTag a.tag).isSome then .ok ⟨a.pay &&& ~~~(signOf a.tag), a.tag⟩ 0 else .tag ra
  | _ =>
    match fmtOfTag a.tag with
    | none => .tag ra
    | some f =>
      let z := modeFtz mode
      let md := modeFrm mode
      let x := f.unpackZ z a.pay.toNat
      let y := f.unpackZ z b.pay.toNat
      if op = 0x14 then fpRes mode a.tag f x.sqrt
      else
        match floatTags ra rb a b with
        | some r => .tag r
        | none =>
          match op with
          | 0x10 => fpRes mode a.tag f (Num.add md x y)
          | 0x11 => fpRes mode a.tag f (Num.add md x y.negate)
          | 0x12 => fpRes mode a.tag f (Num.mul x y)
          | 0x13 => fpRes mode a.tag f (Num.div x y)
          | 0x15 => if c.tag = a.tag then fpRes mode a.tag f (Num.fma md x y (f.unpackZ z c.pay.toNat)) else .tag rc
          | 0x16 => fpRes mode a.tag f (Num.minMax false x y)
          | 0x17 => fpRes mode a.tag f (Num.minMax true x y)
          | _ => let r := fpCmp op x y; .ok ⟨if r.1 then 1 else 0, 6⟩ r.2

end Sys2Proof.Machine
end

