-- ==== Sys2Proof/Machine/Issue.lean ====
section
/-! DEFINITION. The checks of a leaf at issue: special registers (R81 to R86), the faults of each operation by class (R40, R55, R56, R70 to
R79, R90, R131, R146 to R148, R167, R176, R177, R289, R290, R521, R523), and the placement rules (R54, R68, R69). -/

namespace Sys2Proof.Machine

/-- What a leaf issues under: position, leaf address, privilege, the core as it stands before the leaf (R55), the literal, the run seed and
step of R209. -/
structure Ctx where
  pos : Nat
  leaf : Nat
  priv : Bool
  a : Arch
  lit : Word
  seed : Nat
  step : Nat
  deriving DecidableEq, Repr

/-- Register number `n` as the leaf reads it. -/
def Ctx.r (k : Ctx) (n : Nat) : Tagged := k.a.reg (regKey k.priv n)

/-! ### Special registers -/

/-- A register of a block-repeat level (R85). -/
def Loop.read (l : Loop) (i : Nat) : Tagged :=
  match i with
  | 0 => l.ls
  | 1 => l.le
  | _ => ⟨BitVec.ofNat 64 (l.count + b2n l.p * 2 ^ 63), 0⟩

/-- A write of a register of a block-repeat level by a leaf of a privilege (R82, R85). -/
def Loop.write (l : Loop) (priv : Bool) (i : Nat) (v : Tagged) : Loop :=
  let addr : Tagged := ⟨v.pay &&& 0x7FFFFFFFFFF, v.tag⟩
  match i with
  | 0 => { l with ls := addr }
  | 1 => { l with le := addr }
  | _ => { l with count := wfld v.pay 31 0, p := priv }

/-- What mfsr returns (R81, R82): a register whose bits are set by the state of the device shows them. -/
def State.sprRead (s : State) (pos : Nat) (a : Arch) (n : Nat) : Tagged :=
  let plain (w : Word) : Tagged := ⟨w, 0⟩
  if 0x20 ≤ n ∧ n ≤ 0x27 then plain (a.tcfgAt (n - 0x20))
  else if 0x30 ≤ n ∧ n ≤ 0x32 then a.loop0.read (n - 0x30)
  else if 0x34 ≤ n ∧ n ≤ 0x36 then a.loop1.read (n - 0x34)
  else if 0x40 ≤ n ∧ n ≤ 0x47 then plain (Sparse.get zeroWord a.hbc (n - 0x40))
  else
    match n with
    | 0x00 => plain (wsetFld a.spr.psr 21 16 (s.pendingInts pos))
    | 0x01 => a.spr.epc
    | 0x02 => plain a.spr.epsr
    | 0x03 => a.spr.evba
    | 0x04 => a.spr.ksp
    | 0x05 => a.spr.dfsa
    | 0x06 => a.reg 31
    | 0x08 => plain a.spr.mode
    | 0x09 => plain a.spr.sflags
    | 0x10 => plain a.spr.vstart
    | 0x11 => plain a.spr.vflags
    | 0x80 => plain (BitVec.ofNat 64 (s.cycles (pos / 13)))
    | 0x81 => plain (BitVec.ofNat 64 (s.lcidOf pos))
    | _ => plain 0

/-- EPSR after a write of its RW fields; SHREG 3 and SHCNT 3 are not listed values and leave their field (R16, R92). -/
def epsrWrite (old v : Word) : Word :=
  let keep (hi lo : Nat) (w : Word) : Word := if wfld v hi lo = 3 then wsetFld w hi lo (wfld old hi lo) else w
  keep 19 18 (keep 17 16 (v &&& 0xFF3F07))

/-- What mtsr of `v` does to the registers of a core, the shadow of a mode change apart (R81 to R85, R91 to R93, R139, R153, R158). -/
def Arch.sprWrite (a : Arch) (priv : Bool) (n : Nat) (v : Tagged) : Arch :=
  let p := a.spr
  if 0x20 ≤ n ∧ n ≤ 0x27 then a.writeTcfg (n - 0x20) v.pay
  else if 0x30 ≤ n ∧ n ≤ 0x32 then { a with loop0 := a.loop0.write priv (n - 0x30) v }
  else if 0x34 ≤ n ∧ n ≤ 0x36 then { a with loop1 := a.loop1.write priv (n - 0x34) v }
  else if 0x40 ≤ n ∧ n ≤ 0x47 then { a with hbc := Sparse.set zeroWord a.hbc (n - 0x40) v.pay }
  else
    match n with
    | 0x00 => { a with spr := { p with psr := (p.psr &&& ~~~psrMask) ||| (v.pay &&& psrMask) } }
    | 0x01 => { a with spr := { p with epc := ⟨v.pay &&& 0x7FFFFFFFFFF, v.tag⟩ } }
    | 0x02 => { a with spr := { p with epsr := epsrWrite p.epsr v.pay } }
    | 0x03 => { a with spr := { p with evba := v } }
    | 0x04 => { a with spr := { p with ksp := v } }
    | 0x05 => { a with spr := { p with dfsa := v } }
    | 0x06 => a.setReg 31 v
    | 0x08 => { a with spr := { p with mode := v.pay &&& modeMask } }
    | 0x09 => { a with spr := { p with sflags := w1cFlags p.sflags v.pay } }
    | 0x10 => { a with spr := { p with vstart := v.pay &&& 0xFFF } }
    | 0x11 => { a with spr := { p with vflags := w1cFlags p.vflags v.pay } }
    | _ => a

/-! ### Faults of operations -/

/-- A fault of an operation: code, SYND.KIND, SYND.REG, ADDR, and for 0x0C the unit of protection that failed. -/
structure OpFault where
  code : Nat
  kind : Nat
  reg : Nat
  addr : Nat
  unit : Option Nat
  deriving DecidableEq, Repr

def flt (code kind addr : Nat) : OpFault := ⟨code, kind, 0, addr, none⟩

/-- The tag fault of register `r` unless its tag is accepted (R40). -/
def Ctx.want (k : Ctx) (ok : Tag → Bool) (r : Nat) : List OpFault := if ok (k.r r).tag then [] else [⟨4, 0, r, 0, none⟩]

def isAddr1 (t : Tag) : Bool := t = 1
def isCode (t : Tag) : Bool := t = 5
def isCond (t : Tag) : Bool := t = 6

/-- mkdesc (R521). -/
def State.mkdesc (s : State) (k : Ctx) (r : Nat) : AluRes :=
  let v := k.r r
  let p := v.pay.toNat
  if v.tag ≠ 1 then .tag r
  else if 2 ^ 48 ≤ p then .addr 5 1 v.pay
  else
    match s.locate (some k.pos) p with
    | .ldm _ _ => if p % 32 ≠ 0 then .addr 6 0 v.pay else .ok ⟨v.pay, 4⟩ 0
    | _ => .addr 5 2 v.pay

/-- The result of a scalar ALU operation. -/
def State.alu (s : State) (k : Ctx) (o : Op) : AluRes :=
  let ra := hi5 o.e1
  let rb := lo5 o.e1
  let rc := hi5 o.e2
  match o.cls with
  | 1 => aluRR o.opc ra rb (k.r ra) (k.r rb)
  | 2 => aluRI o.opc ra (k.r ra) (rb * 1024 + o.e2)
  | _ => if o.opc = 0x0E then s.mkdesc k ra else aluMisc k.a.modeNow k.lit o.opc ra rb rc (k.r ra) (k.r rb) (k.r rc)

/-- Classes 0x1 to 0x3: tags, mkdesc, and the arithmetic trap (R40, R41, R63). -/
def State.aluFaults (s : State) (k : Ctx) (o : Op) : List OpFault :=
  match s.alu k o with
  | .ok _ fl => if traps k.a.modeNow fl then [flt 0x0B 0 0] else []
  | .tag r => [⟨4, 0, r, 0, none⟩]
  | .addr c kd w => [flt c kd w.toNat]

/-- The rc operand of a control operation, which BRSRC replaces when the operation is repeated (R104). A frame that lay in felt or reel memory has lost the tag
of BRSRC, and the operation takes it with tag 0xE (log row 140). -/
def Ctx.rc (k : Ctx) (src : Option Tagged) (o : Op) : Tagged := src.getD (k.r o.r)

/-- Class 0x4 (R40, R90, R523). -/
def State.controlFaults (s : State) (k : Ctx) (src : Option Tagged) (o : Op) : List OpFault :=
  let need (ok : Tag → Bool) : List OpFault :=
    let t := (k.rc src o).tag
    if ok t || (src.isSome && t = 0xE) then [] else [⟨4, 0, o.r, 0, none⟩]
  match o.opc with
  | 0x01 | 0x02 => need isCond
  | 0x04 | 0x05 => need isCode
  | 0x06 | 0x07 => need isInt
  | 0x0C =>
    if !k.priv then [flt 2 0 0]
    else
      match s.rfeFault k.pos (32 * k.leaf) with
      | some (c, kd, ad) => [⟨c, kd, 0, ad, if c = 0x0C then s.rfeBad k.pos else none⟩]
      | none => []
  | _ => []

/-- The address of a scalar load, store or atomic (R70, R72). -/
def Ctx.memAddr (k : Ctx) (o : Op) : Nat :=
  let b := (k.r (hi5 o.e1)).pay.toNat
  if isAmo o then b else toBits 64 ((b : Int) + sext 15 (lo5 o.e1 * 1024 + o.e2) * (memSize o.opc : Int))

def memNeed (o : Op) : Need := if isLoad o then .read else if isStore o then .write else .atomic

/-- Is an address in LDM, by any window? -/
def State.isLdm (s : State) (pos a : Nat) : Bool :=
  match s.locate (some pos) a with
  | .ldm _ _ => true
  | _ => false

/-- The tags of the data operands of a scalar memory operation (R40). -/
def State.dataTags (s : State) (k : Ctx) (o : Op) : List OpFault :=
  match o.opc with
  | 0x10 | 0x11 => k.want isInt o.r
  | 0x12 => k.want (fun t => isInt t || t = 3) o.r
  | 0x13 | 0x14 => k.want (fun t => t ≠ 0xF || s.isLdm k.pos (k.memAddr o)) o.r
  | op => if 0x18 ≤ op then k.want isInt (lo5 o.e1) ++ (if op = 0x1D then k.want isInt (hi5 o.e2) else []) else []

/-- Class 0x5 (R40, R70 to R73, R99). -/
def State.memFaults (s : State) (k : Ctx) (o : Op) : List OpFault :=
  let b := hi5 o.e1
  if isString o then k.want isAddr1 o.r ++ k.want (if o.opc = 0x0C then isAddr1 else isInt) b ++ k.want isInt (lo5 o.e1)
  else if (k.r b).tag ≠ 1 then [⟨4, 0, b, 0, none⟩]
  else
    let a := k.memAddr o
    let n := memSize o.opc
    let place := (s.dataFaults k.pos (!k.priv) (memNeed o) n a).map fun x => flt x.1 x.2 a
    let data := s.dataTags k o
    if place.isEmpty && data.isEmpty then
      (if !isStore o ∧ s.storedTagBad k.pos o.opc a then [flt 4 0 0] else []) ++
      (if !isStore o ∧ ownLdm k.pos a then
         (match s.firstBad (some k.pos) a n with
          | some u => [⟨0x0C, 1, 0, a, some u⟩]
          | none => [])
       else [])
    else data ++ place

/-- Class 0x6: scalar operands (R131, R141) and the range of vext (R132), whose failure takes KIND 6 (log row 175). -/
def Ctx.vecFaults (k : Ctx) (o : Op) : List OpFault :=
  let elem (t : Tag) : Bool := if o.et = 0 then t = 2 else if etFloat o.et then t = 3 else isInt t
  if !o.vs then []
  else if o.opc = 0x17 then k.want isInt o.vb ++ k.want isInt o.vc
  else if o.opc = 0x1C then k.want isInt o.vb
  else if o.opc = 0x1F then k.want isInt o.vb ++ (if o.vn ≤ (k.r o.vb).pay.toNat then [flt 1 6 (32 * k.leaf)] else [])
  else if o.opc = 0x1A ∨ o.opc = 0x1B then []
  else k.want elem o.vb

/-- The operation in flight that a vector operation becomes. -/
def Ctx.vjob (k : Ctx) (o : Op) (start seq : Nat) : VJob :=
  let scal := o.cls = 6 ∧ (o.opc = 0x1F ∨ (o.opc = 0x1E ∧ (o.vb = 5 ∨ o.vb = 6)))
  { leaf := k.leaf, syl := o.syl, seq := seq, mem := o.cls = 7, op := o.opc, et := o.et, n := o.vn, vd := if scal then regKey k.priv o.vd else o.vd
    va := o.va, vb := o.vb, vc := o.vc, s := o.vs, me := o.vme, m := o.vm, sb := k.r o.vb, sc := if o.cls = 7 then k.r o.va else k.r o.vc
    mode := k.a.modeNow, seed := k.seed, step := k.step, start := start, cut := o.vn, alt := none }

/-- Class 0x7: operand tags, and the check of every active element (R146, R148). -/
def State.vmemFaults (s : State) (k : Ctx) (o : Op) (start : Nat) : List OpFault :=
  let tags := k.want isAddr1 o.va ++ (if o.opc = 1 ∨ o.opc = 5 then k.want isInt o.vb else [])
  if !tags.isEmpty then tags
  else
    let j := k.vjob o start 0
    let on := (j.actives k.a start j.n).map fun i => j.addr k.a i
    let need : Need := if o.opc ≤ 3 then .read else .write
    let bad (a : Nat) : Bool := inCsr a || decide (a % j.bytes ≠ 0) || (s.rangeKind k.pos need a).isSome
    (if k.priv then [] else ((on.find? inCsr).map fun a => flt 2 0 a).toList) ++ ((on.find? bad).map fun a => flt 8 0 a).toList

/-- The operation in flight that a tile or matrix operation becomes; a transfer takes ROWS and COLB as they stand at issue (R166). -/
def Ctx.tjob (k : Ctx) (o : Op) (seq : Nat) : TJob :=
  let t := o.f / 4 % 8
  let cfg := k.a.tcfgAt t
  let bank := o.opc = 4 ∨ o.opc = 5
  if o.cls = 8 then
    { leaf := k.leaf, syl := o.syl, seq := seq, cls := 8, op := o.opc, t := t, tw := 0, t1 := if o.opc = 7 then regKey k.priv (hi5 o.e1) else 0
      mf := 0, acc := bitAt o.e1 0, a := t % 4, a1 := 0, rb := (k.r (hi5 o.e1)).pay.toNat, rs := (k.r (lo5 o.e1)).pay.toInt
      rows := if bank then 32 else tcRows cfg, rowb := if bank then 128 else tcBytes cfg }
  else
    { leaf := k.leaf, syl := o.syl, seq := seq, cls := 9, op := o.opc, t := o.e1 / 128, tw := o.e1 / 16 % 8, t1 := o.e2 / 128, mf := t
      acc := bitAt o.f 1, a := if o.opc = 1 then b2n (bitAt o.e1 3) else o.e1 / 4 % 4, a1 := 2 + b2n (bitAt o.e1 2), rb := 0, rs := 0, rows := 0, rowb := 0 }

/-- The failure of the rows of a transfer: the lowest row outside the own LDM, or whose page does not grant the access (R167). -/
def State.rowFault (s : State) (k : Ctx) (j : TJob) : Option OpFault :=
  let need : Need := if j.op = 0 ∨ j.op = 4 then .read else .write
  (upto j.rows).findSome? fun r =>
    let a := j.rowAddr r
    if !(ownLdm k.pos a && ownLdm k.pos (a + j.rowb - 1)) then some (flt 5 2 a)
    else (s.rangeKind k.pos need a).map fun kd => flt 5 kd a

/-- Class 0x8 (R166, R167, R177). -/
def State.tileFaults (s : State) (k : Ctx) (o : Op) : List OpFault :=
  let cfg := k.a.tcfgAt (o.f / 4 % 8)
  let empty := if o.opc ≤ 3 ∧ (tcRows cfg = 0 ∨ (o.opc = 1 ∧ !tcState cfg)) then [flt 0x0A 0 0] else []
  if o.opc = 8 then k.want isInt (hi5 o.e1)
  else if o.opc ≤ 1 ∨ o.opc = 4 ∨ o.opc = 5 then
    let tags := k.want isAddr1 (hi5 o.e1) ++ k.want isInt (lo5 o.e1)
    if !tags.isEmpty then tags ++ empty
    else
      let j := k.tjob o 0
      (s.rowFault k j).toList ++ (if j.rb % 8 ≠ 0 ∨ j.rs % 8 ≠ 0 then [flt 6 0 j.rb] else []) ++ empty
  else empty

/-- Class 0x9 (R176, R177). -/
def Ctx.matrixFaults (k : Ctx) (o : Op) : List OpFault :=
  let j := k.tjob o 0
  let cf (t : Nat) : Word := k.a.tcfgAt t
  let acts := if o.opc = 1 then [j.t, j.t1] else [j.t]
  (if acts.any fun t => shapeFault j.mf (cf t) (cf j.tw) then [flt 9 0 0] else []) ++
  (if (j.tw :: acts).any fun t => tcRows (cf t) = 0 || !tcState (cf t) then [flt 0x0A 0 0] else [])

/-- Class 0xA (R40, R76, R77, R332). -/
def State.transferFaults (s : State) (k : Ctx) (o : Op) : List OpFault :=
  match o.opc with
  | 0 | 1 =>
    let d := k.r o.r
    if d.tag ≠ 4 then [⟨4, 0, o.r, 0, none⟩]
    else (s.hbFaults k.pos (!k.priv) (o.opc = 1) d.pay.toNat).map fun x =>
      if x.1 = 1 then flt 1 x.2.1 (32 * k.leaf)
      else ⟨x.1, x.2.1, 0, x.2.2, if x.1 = 0x0C then s.firstBad (some k.pos) x.2.2 32 else none⟩
  | 2 => k.want isInt o.r
  | _ => []

/-- cmo (R289, R290). -/
def State.cmoFaults (s : State) (k : Ctx) (o : Op) : List OpFault :=
  let c := o.e1 % 16
  let a := (k.r o.r).pay.toNat
  (if 8 ≤ c ∧ !k.priv then [flt 2 0 0] else []) ++
  (if c ≤ 4 then k.want isAddr1 o.r else if c ≤ 0xB then k.want isInt o.r else k.want isCode o.r) ++
  (if 1 < c ∨ (k.r o.r).tag ≠ 1 then []
   else if inCsr a then [flt 5 2 a]
   else
     match s.rangeKind k.pos .read a with
     | some kd => [flt 5 kd a]
     | none => [])

/-- Class 0xB (R40, R81, R90). -/
def State.systemFaults (s : State) (k : Ctx) (o : Op) : List OpFault :=
  let denied := if o.e1 ≤ 6 ∧ !k.priv then [flt 2 0 0] else []
  match o.opc with
  | 0 => denied
  | 1 => denied ++ k.want (fun t => t ≠ 0xF) o.r
  | 4 => s.cmoFaults k o
  | 5 => if k.priv then [] else [flt 2 0 0]
  | _ => []

/-- The faults of an operation at issue. `src` is the BRSRC of a control operation that is repeated, `start` the element at which a vector operation starts. -/
def State.opFaults (s : State) (k : Ctx) (src : Option Tagged) (start : Nat) (o : Op) : List OpFault :=
  match o.cls with
  | 1 | 2 | 3 => s.aluFaults k o
  | 4 => s.controlFaults k src o
  | 5 => s.memFaults k o
  | 6 => k.vecFaults o
  | 7 => s.vmemFaults k o start
  | 8 => s.tileFaults k o
  | 9 => k.matrixFaults o
  | 0xA => s.transferFaults k o
  | _ => s.systemFaults k o

/-- The correctable errors in what the checks of an operation read at issue: the descriptor of a transfer, and the frame of rfe (R45, R77, R117). -/
def State.opMeets (s : State) (k : Ctx) (o : Op) : State :=
  let met (s : State) (r : Nat × Nat) : State := (s.readMeets (s.coreWho k.pos) (some k.pos) r.1 r.2).1
  match o.cls with
  | 4 => if o.opc = 0x0C ∧ k.priv ∧ (s.rfePlace k.pos).isNone ∧ (s.rfeBad k.pos).isNone then (s.rfeReads k.pos).foldl met s else s
  | 0xA =>
    let p := (k.r o.r).pay.toNat
    if o.opc ≤ 1 ∧ (k.r o.r).tag = 4 ∧ p % 32 = 0 ∧ s.isLdm k.pos p ∧ (s.firstBad (some k.pos) p 32).isNone then met s (p, 32) else s
  | _ => s

/-- The page checks that an operation makes at issue, by the entries that they read (R244). -/
def State.opPages (s : State) (k : Ctx) (start : Nat) (o : Op) : State :=
  let c := k.pos / 13
  let own := some k.pos
  match o.cls with
  | 4 => if o.opc = 0x0C ∧ k.priv ∧ wfld k.a.spr.psr 2 2 = 0 then s.touchPage c own (s.rfeBase k.pos) else s
  | 5 => if isString o ∨ (k.r (hi5 o.e1)).tag ≠ 1 then s else s.touchPage c own (k.memAddr o)
  | 7 =>
    if (k.r o.va).tag ≠ 1 then s
    else
      let j := k.vjob o start 0
      (((j.actives k.a start j.n).map fun i => j.addr k.a i / 2 ^ 18).foldl addNew []).foldl (fun s p => s.touchPage c own (p * 2 ^ 18)) s
  | 8 =>
    let j := k.tjob o 0
    if (o.opc ≤ 1 ∨ o.opc = 4 ∨ o.opc = 5) ∧ (k.r (hi5 o.e1)).tag = 1 then
      ((upto j.rows).filter fun r => ownLdm k.pos (j.rowAddr r)).foldl (fun s r => s.touchRange c own (j.rowAddr r) j.rowb) s
    else s
  | 0xA =>
    if 1 < o.opc ∨ (k.r o.r).tag ≠ 4 then s
    else
      let d := s.readDesc k.pos (k.r o.r).pay.toNat
      let rs := s.descRanges (o.opc = 1) d
      let ws := if d.wm then s.wins else []
      let s := (rs.1 ++ rs.2).foldl (fun s r => s.touchRange c own r.1 r.2) s
      (rs.1 ++ rs.2).foldl (fun s r => match shadowOf ws r.1 with | some sh => s.touchRange c own sh (4 * cdiv r.2 4096) | none => s) s
  | 0xB => if o.opc = 4 ∧ o.e1 % 16 ≤ 4 ∧ (k.r o.r).tag = 1 then s.touchPage c own (k.r o.r).pay.toNat else s
  | _ => s

/-- The illegal-leaf cases that operands show: the element of vext, a reserved field of a descriptor, and the frame of rfe (R54, R76, R132, R523). -/
def State.operandViols (s : State) (k : Ctx) (ops : List Op) : List Viol :=
  ops.flatMap fun o => ((s.opFaults k none 0 o).filter fun x => x.code = 1).map fun x => ⟨o.syl, x.kind⟩

/-- May an operation show such a case? -/
def Op.mayFail1 (o : Op) : Bool := (o.cls = 6 && o.opc = 0x1F) || (o.cls = 0xA && o.opc ≤ 1) || (o.cls = 4 && o.opc = 0x0C)

/-- The fault of a leaf with its syllable: lowest code, then lowest syllable, then in the order of the checks (R56). -/
def firstFault : List (Nat × OpFault) → Option (Nat × OpFault)
  | [] => none
  | f :: fs =>
    match firstFault fs with
    | none => some f
    | some g => if g.2.code < f.2.code then some g else some f

/-! ### Placement (R54, R65, R68, R69) -/

/-- Is the operation a branch with a delay leaf? -/
def isJump (o : Op) : Bool := o.cls = 4 && o.opc ≤ 5

/-- The placement rules that an operation at leaf address `l` breaks, of one block-repeat level whose special registers start at `base`. -/
def Loop.badAt (x : Loop) (priv : Bool) (l base : Nat) (o : Op) : Bool :=
  let e := x.le.pay.toNat
  x.active priv &&
    (((isJump o || (o.cls = 4 && o.opc = 0x0C)) && (l = e || l + 1 = e)) || (l = e && o.cls = 0xB && o.opc = 1 && base ≤ o.e1 && o.e1 ≤ base + 2))

/-- Scalar registers, by key, that rfe writes: KSP, or s0 to s7 in the double-fault handler (R117, R119). -/
def Arch.rfeKeys (a : Arch) : List Nat := if wfld a.spr.psr 2 2 = 1 then upto 8 else [32]

/-- Registers that rfe writes, as `Op.allWrites` lists them: PSR, and KSP or s0 to s7 (R117, R119). -/
def Arch.rfeWrites (a : Arch) : List Nat := 0x1000 :: (if wfld a.spr.psr 2 2 = 1 then upto 8 else [0x1004])

/-- rfe and an operation that writes a register which rfe writes: the higher syllable of the two (R54, R527). -/
def Arch.rfeTwice (a : Arch) (priv : Bool) (ops : List Op) : List Viol :=
  match ops.find? fun o => o.cls = 4 && o.opc = 0x0C with
  | some r => (ops.filter fun o => (o.allWrites priv).any a.rfeWrites.contains).map fun o => ⟨max o.syl r.syl, 5⟩
  | none => []

/-- The violations of a leaf by its place: strings and control operations in a delay leaf, the ends of repeated bodies, a mode change inside a shadow,
and beside an rfe the operations that write what it writes and a tile operation whose rb or rs it writes (R175). -/
def Arch.placeViols (a : Arch) (priv : Bool) (l : Nat) (ops : List Op) : List Viol :=
  let delay := a.flow.br.isSome
  let shadow := a.flow.shadow.isSome
  let back := ops.any fun o => o.cls = 4 && o.opc = 0x0C
  a.rfeTwice priv ops ++
  (ops.filter fun o =>
    (back && o.cls = 8 && (o.tRegs.map (regKey priv)).any a.rfeKeys.contains) ||
    (isString o && (delay || shadow)) || (o.cls = 4 && delay) || a.loop0.badAt priv l 0x30 o || a.loop1.badAt priv l 0x34 o ||
      (o.cls = 0xB && o.opc = 1 && (o.e1 = 0 || o.e1 = 8) && shadow)).map fun o => ⟨o.syl, 6⟩

end Sys2Proof.Machine
end

