-- ==== Sys2Proof/Machine/Waits.lean ====
section
/-! DEFINITION. What a leaf waits for before it issues: registers and units (R57, R77, R144, R152, R153, R162, R169, R181), memory that an unfinished
operation touches (R149, R169), and the order of accesses (R293, R295). -/

namespace Sys2Proof.Machine

/-! ### Scalar registers -/

/-- Keys of the scalar registers that operations in flight still write. -/
def Work.pendKeys (w : Work) : List Nat :=
  w.loads.map (·.reg) ++ (w.vq.filter (·.scalarDst)).map (·.vd) ++ (w.tq.filter fun (j : TJob) => j.cls == 8 && j.op == 7).map (·.t1)

/-- Keys of the scalar registers that an operation reads or writes, KSP and USP by their special numbers among them. -/
def Ctx.keysOf (k : Ctx) (o : Op) : List Nat :=
  (o.reads ++ o.writes).map (regKey k.priv) ++
  (if o.cls = 0xB ∧ o.opc ≤ 1 then (if o.e1 = 4 then [32] else if o.e1 = 6 then [31] else []) else []) ++
  (if o.cls = 4 ∧ o.opc = 0x0C then k.a.rfeKeys else [])

/-! ### Vector registers (R152) -/

def anyOverlap (xs ys : List Group) : Bool := xs.any fun x => ys.any fun y => x.overlaps y

/-- Does every active element of a vector load lie in the own LDM? -/
def VJob.fromLdm (j : VJob) (pos : Nat) (a : Arch) : Bool := (j.actives a j.start j.n).all fun i => ownLdm pos (j.addr a i)

/-- Must an operation wait for operation `j` in flight, for its vector and mask registers? -/
def Ctx.vecWait (k : Ctx) (o : Op) (j : VJob) : Bool :=
  let q := j.toOp
  let whole := (k.vjob o 0 0).whole
  let ready := whole || (j.mem && decide (j.op ≤ 3) && !j.fromLdm k.pos k.a)
  let index := if o.cls = 7 ∧ (o.opc = 2 ∨ o.opc = 6) then [group o.vb o.ixSize o.vn] else []
  (ready && anyOverlap o.vsrc q.vdst) || anyOverlap index q.vdst || anyOverlap o.vdst (q.vdst ++ q.vsrc) ||
  (o.msrc.any fun m => q.mdst.contains m) || (o.mdst.any fun m => (q.mdst ++ q.msrc).contains m)

/-! ### Tiles and banks (R144, R162, R181) -/

def TJob.isMat (j : TJob) : Bool := j.cls == 9

/-- Tiles that an operation in flight writes or releases, and those that it reads. -/
def TJob.tilesW (j : TJob) : List Nat := if !j.isMat && (j.op == 0 || j.op == 2 || j.op == 3) then [j.t] else []
def TJob.tilesR (j : TJob) : List Nat :=
  if j.isMat then (if j.op = 1 then [j.t, j.tw, j.t1] else [j.t, j.tw]) else if j.op = 1 then [j.t] else []

/-- Banks, with their status words, that an operation in flight writes, and those that it only reads. -/
def TJob.banksW (j : TJob) : List Nat :=
  if j.isMat then (if j.op = 1 then [j.a, j.a1] else [j.a]) else if j.op = 4 ∨ j.op = 6 ∨ j.op = 8 ∨ (j.op = 7 ∧ j.acc) then [j.a] else []
def TJob.banksR (j : TJob) : List Nat := if !j.isMat && (j.op == 5 || j.op == 7) then [j.a] else []

def meetsAny (xs ys : List Nat) : Bool := xs.any fun x => ys.contains x

/-- Must a new tile or matrix operation wait for operation `j` in flight? -/
def TJob.waitsFor (n j : TJob) : Bool :=
  if n.isMat then
    meetsAny n.tilesR j.tilesW || (!j.isMat && meetsAny n.banksW (j.banksW ++ j.banksR))
  else
    meetsAny n.tilesW j.tilesR || meetsAny n.tilesR j.tilesW || (j.isMat && meetsAny (n.banksW ++ n.banksR) j.banksW) ||
      meetsAny n.banksW j.banksR || meetsAny n.banksR j.banksW

/-- Special registers that wait: VSTART and VFLAGS for vector operations, TCFG for the operations that name or write its tile. -/
def Ctx.sprWait (w : Work) (o : Op) : Bool :=
  let n := o.e1
  if n = 0x10 ∨ n = 0x11 then !w.vq.isEmpty
  else if 0x20 ≤ n ∧ n ≤ 0x27 then
    w.tq.any fun j => if o.opc = 0 then j.tilesW.contains (n - 0x20) else (j.tilesW ++ j.tilesR).contains (n - 0x20)
  else false

/-! ### Memory -/

/-- A byte's place as one number, the same by every window that leads to it. -/
def State.placeKey (s : State) (pos a : Nat) : Nat :=
  match s.locate (some pos) a with
  | .ldm p off => physBase + p * 2 ^ 18 + off
  | .host _ h => 2 ^ 64 + h
  | _ => a

/-- The accesses that a vector memory operation still makes, as places with lengths. -/
def State.vSpans (s : State) (pos : Nat) (j : VJob) : List (Nat × Nat) :=
  let a := j.view (s.coreAt pos).arch
  (j.actives a j.start j.n).map fun i => (s.placeKey pos (j.addr a i), j.bytes)

def TJob.isMem (j : TJob) : Bool := !j.isMat && (j.op == 0 || j.op == 1 || j.op == 4 || j.op == 5)
def TJob.stores (j : TJob) : Bool := !j.isMat && (j.op == 1 || j.op == 5)

def State.tSpans (s : State) (pos : Nat) (j : TJob) : List (Nat × Nat) := (upto j.rows).map fun r => (s.placeKey pos (j.rowAddr r), j.rowb)

def spansMeet (xs ys : List (Nat × Nat)) : Bool := xs.any fun x => ys.any fun y => decide (x.1 < y.1 + y.2) && decide (y.1 < x.1 + x.2)

/-- Must an access of the given places wait for unfinished vector and tile operations (R149, R169)? -/
def State.spanWait (s : State) (pos : Nat) (vector write : Bool) (xs : List (Nat × Nat)) : Bool :=
  let w := (s.coreAt pos).work
  (vector && w.vq.any fun j => j.mem && spansMeet xs (s.vSpans pos j)) ||
  w.tq.any fun j => j.isMem && (j.stores || write) && spansMeet xs (s.tSpans pos j)

/-- Is a vector or tile memory operation in flight, or a storing one? -/
def Work.memBusy (w : Work) (onlyStores : Bool) : Bool :=
  (w.vq.any fun (j : VJob) => j.mem && (!onlyStores || decide (4 ≤ j.op))) || w.tq.any fun (j : TJob) => j.isMem && (!onlyStores || j.stores)

def Work.amoBusy (w : Work) : Bool := w.loads.any fun (l : OutLoad) => l.amo

/-- Must an operation that touches memory wait? -/
def State.memWait (s : State) (k : Ctx) (start : Nat) (o : Op) : Bool :=
  let w := (s.coreAt k.pos).work
  match o.cls with
  | 5 =>
    w.amoBusy ||
    (if isString o then w.memBusy false
     else
       ((o.opc = 0x14 || isAmo o) && w.memBusy false) ||
       s.spanWait k.pos true (!isLoad o) [(s.placeKey k.pos (k.memAddr o), memSize o.opc)])
  | 7 =>
    let j := k.vjob o start 0
    w.amoBusy || s.spanWait k.pos false (decide (4 ≤ o.opc)) ((j.actives k.a start j.n).map fun i => (s.placeKey k.pos (j.addr k.a i), j.bytes))
  | 8 =>
    let j := k.tjob o 0
    j.isMem && (w.amoBusy || w.vq.any fun v => v.mem && (j.stores || decide (4 ≤ v.op)) && spansMeet (s.tSpans k.pos j) (s.vSpans k.pos v))
  | 0xA => o.opc ≤ 1 && (w.amoBusy || w.memBusy true || decide (16 ≤ w.hbq.length))
  | 0xB => o.opc = 2 && (w.amoBusy || w.memBusy false || (o.e1 = 3 && s.transfersOf (s.lcidOf k.pos)))
  | _ => false

/-! ### The two vector operations of one leaf (R55) -/

/-- Does vector operation `w` write a register that vector operation `r` reads? -/
def feeds (w r : Op) : Bool := anyOverlap w.vdst r.vsrc || w.mdst.any fun m => r.msrc.contains m

/-- The memory and the arithmetic operation of one leaf write what each other reads. -/
def crossed (ops : List Op) : Bool := ops.any fun x => x.cls = 6 && ops.any fun y => y.cls = 7 && feeds x y && feeds y x

/-! ### Miss registers and fill buffers (R254, R278) -/

/-- Does a load find its data in the L1 or the side buffer of its core? -/
def State.nearHit (s : State) (pos a : Nat) : Bool :=
  let x := (s.coreAt pos).caches
  s.cacheKind pos a = 1 && (x.l1Has (a / 64) || x.side.contains (a / 64))

/-- Does an access of a core to an address go by the dandy path: a reel page with C = 0 (R254)? -/
def State.dandyPage (s : State) (pos a : Nat) : Bool :=
  decide (s.cacheKind pos a = 0) &&
    (match s.locate (some pos) a with
     | .tier x => !(isFelt x)
     | _ => false)

/-- Does a scalar load occupy a miss register until it returns: a miss of the L1, or a dandy request? -/
def State.takesMiss (s : State) (pos a : Nat) : Bool := if s.cacheKind pos a = 1 then !(s.nearHit pos a) else s.dandyPage pos a

/-- Does a scalar load bring its line into the L2 from memory, through a fill buffer? -/
def State.takesFill (s : State) (pos a : Nat) : Bool := s.cacheKind pos a != 0 && !(s.held (some pos) a)

/-- Do the scalar accesses of a leaf find too few miss registers or fill buffers free? Loads take them as they miss; atomics and stores by the dandy path need
a miss register each, which a store holds for the moment of its issue alone (log row 183). -/
def State.missWait (s : State) (k : Ctx) (ops : List Op) : Bool :=
  let mem := ops.filter fun o => o.cls = 5
  let as := (mem.filter isLoad).map k.memAddr
  let bs := (mem.filter fun o => isStore o || isAmo o).map k.memAddr
  let m := (as.filter fun a => s.takesMiss k.pos a).length + (bs.filter fun a => s.dandyPage k.pos a).length
  let n := (as.filter fun a => s.takesFill k.pos a).length
  (decide (0 < m) && decide (16 < m + (s.coreAt k.pos).work.misses)) || (decide (0 < n) && decide (64 < n + s.fillsOf (k.pos / 13)))

/-! ### The whole leaf -/

/-- Must operation `o` wait? hb.wait compares rd with its counter as unsigned numbers (log row 141). -/
def State.opWait (s : State) (k : Ctx) (start : Nat) (o : Op) : Bool :=
  let w := (s.coreAt k.pos).work
  let vec := o.cls = 6 ∨ o.cls = 7
  (if o.cls = 6 ∨ o.cls = 7 then w.vq.any (k.vecWait o) else false) ||
  (if vec ∧ o.cls = 6 ∧ o.opc = 0x1D then w.tq.any fun j => j.banksW.contains (o.va % 4) else false) ||
  (if o.cls = 8 ∨ o.cls = 9 then
     (w.tq.any fun j => (k.tjob o 0).waitsFor j) ||
       (w.vq.any fun (j : VJob) => !j.mem && j.op == 0x1D && (k.tjob o 0).banksW.contains (j.va % 4))
   else false) ||
  (if o.cls = 0xB ∧ o.opc ≤ 1 then Ctx.sprWait w o else false) ||
  (if o.cls = 0xA ∧ o.opc = 2 then decide ((Sparse.get zeroWord k.a.hbc (o.e1 / 128)).toNat < (k.r o.r).pay.toNat) && isInt (k.r o.r).tag else false) ||
  s.memWait k start o

/-- Must the leaf wait? -/
def State.leafWait (s : State) (k : Ctx) (start : Nat) (ops : List Op) : Bool :=
  let w := (s.coreAt k.pos).work
  let pend := w.pendKeys
  (ops.any fun o => (k.keysOf o).any fun r => pend.contains r) || (crossed ops && !w.vq.isEmpty) || s.missWait k ops || ops.any (s.opWait k start)

end Sys2Proof.Machine
end

