-- ==== Sys2Proof/Machine/Leaf.lean ====
section
/-! DEFINITION. LEAF_ISSUE: the fetch, the checks, the waits and the effects of one leaf of a core (R46 to R93, R98, R103, R104, R108, R122, R288 to
R290, R298, R411, R522 to R524). -/

namespace Sys2Proof.Machine

/-! ### Effects of operations -/

/-- A leaf at work: the machine before the leaf, the state, and the scalar results that are written when it completes (R55), by their keys. -/
structure Eff where
  old : State
  s : State
  out : List (Nat × Tagged)

/-- A result for register number `n` (R38, R55). -/
def Eff.wr (e : Eff) (k : Ctx) (n : Nat) (v : Tagged) : Eff := { e with out := e.out ++ [(regKey k.priv n, v)] }

/-- A scalar ALU operation: its result, and its flags in SFLAGS (R63). -/
def Eff.runAlu (k : Ctx) (e : Eff) (o : Op) : Eff :=
  match e.s.alu k o with
  | .ok v fl =>
    let spr := (e.s.coreAt k.pos).arch.spr
    { e with s := if fl = 0 then e.s else e.s.setSpr k.pos { spr with sflags := orFlags spr.sflags fl } }.wr k o.r v
  | _ => e

/-- A register of CSR space as a load of an opcode returns it. -/
def csrValue (op : Nat) (w : Word) : Tagged :=
  match op with
  | 0x04 => ⟨wordOfInt (sext 32 w.toNat), 0⟩
  | 0x05 => ⟨w, 0⟩
  | 0x07 => ⟨w, 2⟩
  | 0x08 => ⟨w, 3⟩
  | _ => ⟨w, 0xE⟩

/-- A load or an atomic whose value comes later goes on (R57, R99), with its request to a bank where memory has to serve it (R256). -/
def Eff.loadOut (k : Ctx) (e : Eff) (o : Op) (a : Nat) (v : Tagged) (bad amo : Bool) : Eff :=
  let s := e.s
  let miss := if amo then s.dandyPage k.pos a else s.takesMiss k.pos a
  let fill := !amo && s.takesFill k.pos a
  let r := if !amo && (miss || fill) && !(s.held (some k.pos) a) then s.request (k.pos / 13) a else (s, none)
  let l : OutLoad :=
    { reg := regKey k.priv o.r, val := v, leaf := k.leaf, syl := o.syl, addr := a, size := memSize o.opc, bad := bad
      fill := s.cacheKind k.pos a != 0 && !amo, amo := amo, miss := miss, mem := fill, req := r.2 }
  { e with s := r.1.modCore k.pos fun x => { x with work := { x.work with loads := x.work.loads ++ [l] } } }

/-- A load that its L1 or side buffer supplies, with the error that it meets there (R99, R287). -/
def Eff.loadHit (k : Ctx) (e : Eff) (o : Op) (a : Nat) : Eff :=
  let r := e.s.readMeets (e.s.coreWho k.pos) (some k.pos) a (memSize o.opc)
  if r.2 then { e with s := r.1.deferExc k.pos 1 o.r k.leaf a [] }.wr k o.r emptyTagged
  else { e with s := r.1.loadTouch k.pos a }.wr k o.r (r.1.loadValue k.pos o.opc a)

/-- A scalar load (R70, R71): at once from the own LDM, the L1 and the side buffer, and by LOAD_RETURN from elsewhere. A miss trains the prefetcher (R284). -/
def Eff.runLoad (k : Ctx) (e : Eff) (o : Op) : Eff :=
  let a := k.memAddr o
  let n := memSize o.opc
  let s := e.s
  if inCsr a then
    let r := s.readCsr (a - csrBase) n
    { e with s := r.1 }.wr k o.r (csrValue o.opc r.2)
  else if ownLdm k.pos a then
    let r := s.readMeets (s.coreWho k.pos) (some k.pos) a n
    { e with s := r.1 }.wr k o.r (r.1.loadValue k.pos o.opc a)
  else if s.nearHit k.pos a then Eff.loadHit k e o a
  else
    let e := Eff.loadOut k e o a (s.loadValue k.pos o.opc a) (s.firstBad (some k.pos) a n).isSome false
    if s.cacheKind k.pos a = 1 then { e with s := e.s.train k.pos (a / 64) } else e

/-- A scalar store (R44, R70, R520). -/
def Eff.runStore (k : Ctx) (e : Eff) (o : Op) : Eff :=
  let a := k.memAddr o
  let n := memSize o.opc
  let v := k.r o.r
  if inCsr a then { e with s := e.s.writeBy (.core k.pos) (a - csrBase) n v.pay }
  else
    let r := e.s.coreStore k.pos (if n = 8 then v.tag else 0xE) a (leBytes n v.pay.toNat)
    { e with s := if r.2.isEmpty then r.1 else r.1.deferExc k.pos 1 0 k.leaf a [] }

/-- An atomic operation (R72, R298): performed in its place among the leaf's memory operations (R55), its old value returned at once from the own LDM
and by LOAD_RETURN from elsewhere. An atomic that meets uncorrectable data or a host that cannot be reached leaves the word unchanged (R381, R520). -/
def Eff.runAmo (k : Ctx) (e : Eff) (o : Op) : Eff :=
  let a := k.memAddr o
  let m : Amo := ⟨o.opc, (k.r (lo5 o.e1)).pay, (k.r (hi5 o.e2)).pay⟩
  if inCsr a then
    let r := e.s.readCsr (a - csrBase) 8
    { e with s := r.1.writeBy (.core k.pos) (a - csrBase) 8 (amoNew m.op r.2 m.opnd m.want) }.wr k o.r ⟨r.2, 0⟩
  else
    let s := e.s
    match s.firstBad (some k.pos) a 8 with
    | some u => Eff.loadOut k { e with s := (s.metBad 1 (s.lcidOf k.pos) u).tagLost u } o a emptyTagged true true
    | none =>
      if s.hostLost (some k.pos) a then Eff.loadOut k { e with s := s } o a emptyTagged true true
      else
        let r := s.amo k.pos a m
        if ownLdm k.pos a then { e with s := r.1 }.wr k o.r ⟨r.2, 0⟩ else Eff.loadOut k { e with s := r.1 } o a ⟨r.2, 0⟩ false true

/-- A string operation starts; its steps follow (R73, R74). -/
def Eff.runString (k : Ctx) (e : Eff) (o : Op) : Eff :=
  if (k.r (lo5 o.e1)).pay = 0 then e
  else
    let f := (e.s.coreAt k.pos).arch.flow
    let x : StrOp := ⟨o.opc, regKey k.priv o.r, regKey k.priv (hi5 o.e1), regKey k.priv (lo5 o.e1), o.syl⟩
    { e with s := e.s.setFlow k.pos { f with str := some x } }

def Eff.runMem (k : Ctx) (e : Eff) (o : Op) : Eff :=
  if isLoad o then Eff.runLoad k e o else if isStore o then Eff.runStore k e o else if isAmo o then Eff.runAmo k e o else Eff.runString k e o

/-- rpt (R66): the registers of a level. -/
def setLoop (k : Ctx) (len count : Nat) : Loop :=
  let at' (x : Nat) : Tagged := ⟨BitVec.ofNat 64 (x % 2 ^ 43), 5⟩
  { ls := at' (k.leaf + 1), le := at' (k.leaf + 1 + len), p := k.priv, count := min count 0xFFFFFFFF }

/-- The results of a control operation, its transfer of control apart (R64 to R66). -/
def Eff.runControl (k : Ctx) (e : Eff) (o : Op) : Eff :=
  let a := (e.s.coreAt k.pos).arch
  let link : Tagged := ⟨BitVec.ofNat 64 (k.leaf + 2), 5⟩
  match o.opc with
  | 0x03 | 0x05 => e.wr k 30 link
  | 0x06 => { e with s := e.s.setArch k.pos { a with loop0 := setLoop k o.e1 (k.r o.r).pay.toNat } }
  | 0x07 => { e with s := e.s.setArch k.pos { a with loop1 := setLoop k o.e1 (k.r o.r).pay.toNat } }
  | 0x08 => { e with s := e.s.setArch k.pos { a with loop0 := setLoop k o.e1 o.e2 } }
  | 0x09 => { e with s := e.s.setArch k.pos { a with loop1 := setLoop k o.e1 o.e2 } }
  | _ => e

/-- A headbox operation (R75, R77). -/
def Eff.runTransfer (k : Ctx) (e : Eff) (o : Op) : Eff :=
  let c := o.e1 / 128
  let n := Sparse.get zeroWord k.a.hbc c
  match o.opc with
  | 2 =>
    let a := (e.s.coreAt k.pos).arch
    { e with s := e.s.setArch k.pos { a with hbc := Sparse.set zeroWord a.hbc c (Sparse.get zeroWord a.hbc c - (k.r o.r).pay) } }
  | 3 => e.wr k o.r ⟨n, 0⟩
  | op => { e with s := e.s.hbQueue k.pos (op = 1) c (e.old.readDesc k.pos (k.r o.r).pay.toNat) k.leaf }

/-- A prefetch by cmo: dropped where a load would fault or meets bad data (R280, R289, R290). It fills the L2 line of an L1 line that it brings (R278), and its
fill meets what the line holds (R247, R252). -/
def State.cmoPrefetch (s : State) (pos a : Nat) (l2 : Bool) : State :=
  let kind := s.cacheKind pos a
  let strm := s.pageStrm (some (pos / 13)) (some pos) a
  if kind = 0 ∨ (s.rangeKind pos .read a).isSome ∨ (kind ≠ 1 ∧ !l2) ∨ s.hostLost (some pos) a then s
  else
    let l := if l2 then a / 128 * 128 else a / 64 * 64
    let r := s.readMeets (s.coreWho pos) (some pos) l (if l2 then 128 else 64)
    let s := if r.1.fills pos a && !l2 then r.1.fillMeets (r.1.coreWho pos) (some pos) l 64 else r.1
    if r.2 then s
    else if l2 then s.l2Fill pos a strm
    else if (s.coreAt pos).caches.l1Has (a / 64) then s.l1Hit pos (a / 64) false
    else s.coreFilled pos a

/-- One way of a cache, where the geometry has it: a dirty line is written to memory (R289). -/
def State.cmoWay (s : State) (pos : Nat) (l2 inval : Bool) (set way : Nat) : State :=
  let c := pos / 13
  if l2 then
    (if 2048 ≤ set then s
     else
       let l := Sparse.get emptyLine (s.cluAt c).l2 (set * 16 + way)
       if !l.valid then s else (if l.dirty then (s.reach (s.coreWho pos) (128 * l.line)).l2ToMem c l.line else s).onL2 c l.line (cleanLine inval))
  else if 128 ≤ set ∨ 8 ≤ way then s
  else
    let l := Sparse.get emptyLine (s.coreAt pos).caches.l1 (set * 8 + way)
    if !l.valid then s else (if l.dirty then (s.reach (s.coreWho pos) (64 * l.line)).l1ToMem pos l.line else s).onL1 pos l.line (cleanLine inval)

/-- Cache maintenance (R289, R290). -/
def State.cmo (s : State) (pos code : Nat) (v : Word) : State :=
  let a := v.toNat
  let on := s.cacheKind pos a ≠ 0
  match code with
  | 0 => if on then s.cleanCopies pos a false else s
  | 1 => if on then (s.cleanCopies pos a true).dropSide pos (a / 64) else s
  | 2 => s.cmoPrefetch pos a false
  | 3 => s.cmoPrefetch pos a true
  | 4 =>
    if on ∧ (s.rangeKind pos .read a).isNone then
      (s.onL1 pos (a / 64) fun l => { l with age := 3 }).onL2 (pos / 13) (a / 128) fun l => { l with age := 3 }
    else s
  | 0xC => s.psInvalidateLine pos a
  | _ => s.cmoWay pos (0xA ≤ code) (code % 2 = 1) (wfld v 10 0) (wfld v 19 16)

/-- A system operation (R79, R81). Fences take their effect by what they wait for. -/
def Eff.runSystem (k : Ctx) (e : Eff) (o : Op) : Eff :=
  match o.opc with
  | 0 => e.wr k o.r (e.s.sprRead k.pos k.a o.e1)
  | 1 => { e with s := e.s.setArch k.pos ((e.s.coreAt k.pos).arch.sprWrite k.priv o.e1 (k.r o.r)) }
  | 4 => { e with s := e.s.cmo k.pos (o.e1 % 16) (k.r o.r).pay }
  | 5 => { e with s := e.s.psInvalidate k.pos }
  | _ => e

/-- The operations of a leaf that act at its issue, in syllable order; vector, tile and matrix operations are queued apart. -/
def Eff.run (k : Ctx) (e : Eff) (o : Op) : Eff :=
  match o.cls with
  | 1 | 2 | 3 => Eff.runAlu k e o
  | 4 => Eff.runControl k e o
  | 5 => Eff.runMem k e o
  | 0xA => Eff.runTransfer k e o
  | 0xB => Eff.runSystem k e o
  | _ => e

/-- The vector operations that a leaf queues: the one that reads what the other writes goes first, and where each does, the memory operation keeps the
registers as they stood (R55). -/
def Ctx.vjobs (k : Ctx) (ops : List Op) (start seq : Nat) : List VJob :=
  let ar := ops.filter (·.cls = 6)
  let me := ops.filter (·.cls = 7)
  let job (o : Op) : VJob := k.vjob o start seq
  match ar, me with
  | [x], [y] =>
    if crossed ops then [job x, { job y with alt := some (k.a.vregs, k.a.mregs) }]
    else if feeds x y then [job y, job x]
    else [job x, job y]
  | xs, ys => (xs ++ ys).map job

/-- The tile and the matrix operation that a leaf queues. -/
def Ctx.tjobs (k : Ctx) (ops : List Op) (seq : Nat) : List TJob :=
  ((ops.filter (·.cls = 8)) ++ ops.filter (·.cls = 9)).map fun o => k.tjob o seq

/-- All effects of a leaf's operations but its transfer of control; `seq` is its issue number. -/
def State.runOps (s : State) (k : Ctx) (ops : List Op) (start seq : Nat) : State :=
  let e := ops.foldl (Eff.run k) { old := s, s := s, out := [] }
  let js := k.vjobs ops start seq
  let s := e.s
  let c := s.coreAt k.pos
  let a := e.out.foldl (fun (a : Arch) w => a.setReg w.1 w.2) c.arch
  s.setCore k.pos { c with arch := a, work := { c.work with vq := c.work.vq ++ js, tq := c.work.tq ++ k.tjobs ops seq } }

/-! ### The end of a leaf -/

/-- The target of a branch that is taken (R64). -/
def Ctx.target (k : Ctx) (src : Option Tagged) (o : Op) : Option Nat :=
  let rc := (k.rc src o).pay
  let rel := toBits 43 ((k.leaf : Int) + sext 20 (o.e1 * 1024 + o.e2))
  match o.opc with
  | 0x00 | 0x03 => some rel
  | 0x01 => if rc.getLsbD 0 then some rel else none
  | 0x02 => if rc.getLsbD 0 then none else some rel
  | _ => some rc.toNat

/-- The branch whose delay leaf stands next; BRSRC is 0 for br and bl (R104). -/
def Ctx.brCtx (k : Ctx) (src : Option Tagged) (o : Op) : BrCtx :=
  ⟨k.leaf, k.target src o, if o.opc = 0 ∨ o.opc = 3 then ⟨0, 0⟩ else k.rc src o⟩

/-- Does an operation change MODE or PSR (R69)? -/
def isModeChange (o : Op) : Bool := o.cls = 0xB && o.opc = 1 && (o.e1 = 0 || o.e1 = 8)

/-- The shadow after the leaf, whose operations are `all` and of which `ops` issue now: a new one of two leaves when it changes MODE or PSR (R69). A resumed leaf
that made its change before the entry leaves the shadow that it began as it stands (R103, R106). -/
def Ctx.shadowAfter (k : Ctx) (now : Arch) (all ops : List Op) : Option Shadow :=
  match ops.find? isModeChange with
  | some o => if o.e1 = 8 then some ⟨1, 2, k.a.spr.mode, now.spr.mode⟩ else some ⟨2, 2, k.a.spr.psr, now.spr.psr⟩
  | none => if all.any isModeChange then k.a.flow.shadow else Shadow.next k.a.flow.shadow

/-- Is a couch of the logical core of a position requested? -/
def State.couchWanted (s : State) (pos : Nat) : Bool :=
  match (s.cluAt (pos / 13)).couch with
  | some r => s.lcidOf pos = 12 * (pos / 13) + r.slot
  | none => false

/-- A couch point reached (R35, R80, R411): the core stops with its branch group, or stands for its couch. -/
def State.couchPoint (s : State) (pos : Nat) : State :=
  let f := (s.coreAt pos).arch.flow
  if s.groupStop.contains (s.groupOf (pos / 13)) ∧ s.lcidOf pos ≠ 0x7FF then s.setStateOf pos 6
  else if s.couchWanted pos then s.setFlow pos { f with atCouch := true }
  else s

/-- The trap of svc or brk (R98, R112). -/
def trapExc (o : Op) : Exc := { leafExc (if o.opc = 0x0A then 0x0F else 0x0E) 0 o.syl 0 0 with info := o.e1, next := true }

/-- A block repeat with a count of zero: the core goes on behind the body (R66). The operations are those of the whole leaf, so that a leaf whose
vector or tile operations were interrupted goes on there as well. At LE of the other level, that level has counted and its loop-back does not take place (log row
169). -/
def Arch.skipBody (a : Arch) (ops : List Op) : Arch :=
  match ops.find? fun o => o.cls = 4 && 6 ≤ o.opc && o.opc ≤ 9 with
  | some o =>
    let l := if o.opc % 2 = 0 then a.loop0 else a.loop1
    if l.count = 0 then { a with flow := { a.flow with pc := (l.le.pay.toNat + 1) % 2 ^ 43 } } else a
  | none => a

/-- The end of a leaf whose operations have taken effect: the next leaf, the shadow, and what its control operation or couchpt does. `old` is the machine
before the leaf. -/
def State.endIssue (s old : State) (k : Ctx) (all ops : List Op) : State :=
  let a := (s.coreAt k.pos).arch
  let before := k.a.flow
  let shadow := k.shadowAfter a all ops
  match ops.find? fun o => o.cls = 4 && (o.opc ≤ 5 || 0x0A ≤ o.opc) with
  | some o =>
    if isJump o then
      s.setFlow k.pos { a.flow with pc := k.leaf + 1, br := some (k.brCtx none o), shadow := shadow, resume := none, prev := none }
    else if o.opc = 0x0C then s.rfe old k.pos shadow
    else
      let x := a.endLeaf k.priv before shadow
      s.setArch k.pos { x with flow := { x.flow with exc := some (trapExc o) } }
  | none =>
    if a.flow.str.isSome then s
    else
      let s := s.setArch k.pos ((a.endLeaf k.priv before shadow).skipBody all)
      let ctl := ops.any fun o => o.cls = 4
      if (ops.any fun o => o.cls = 0xB && o.opc = 3) && !ctl && before.br.isNone && before.shadow.isNone then s.couchPoint k.pos else s

/-- A halt leaf: issue stops, at a couch point (R52). -/
def State.haltLeaf (s : State) (k : Ctx) : State :=
  let a := (s.coreAt k.pos).arch
  ((s.setArch k.pos (a.endLeaf k.priv k.a.flow (Shadow.next k.a.flow.shadow))).setStateOf k.pos 2).couchPoint k.pos

/-! ### Issue -/

/-- The exception of the leaf that would issue (R96). -/
def State.raise (s : State) (pos : Nat) (e : Exc) : State := s.setFlow pos { (s.coreAt pos).arch.flow with exc := some e }

/-- A leaf that cannot be fetched: the fault when it would issue, or a third fault at reset entry (R108, R120, R122). -/
def State.fetchFault (s : State) (pos code kind : Nat) : State :=
  let f := (s.coreAt pos).arch.flow
  if f.seq = 0 then (s.fetchFailed pos code f.pc).thirdFault pos 6 0x00 0xFF code f.pc else (s.psGiveUp pos code f.pc).raise pos (leafExc code kind 0 0 (32 * f.pc))

/-- A leaf counted and its number taken. A resumed leaf counts again when its pending operations issue (R88, R103; log row 144). -/
def State.countLeaf (s : State) (pos : Nat) : State :=
  let f := (s.coreAt pos).arch.flow
  (s.setFlow pos { f with seq := f.seq + 1 }).bump (Reg.coreLeaves pos) 1

/-- The operations of a leaf that a resumed leaf still finishes (R103). PEND has one bit for the tile and the matrix operation of a leaf, and both issue again
under it, also where one of them had ended (R92; log row 145). -/
def pendOps (pend : Option Nat) (ops : List Op) : List Op :=
  match pend with
  | none => ops
  | some p => ops.filter fun o => (o.cls = 6 && bitAt p 0) || (o.cls = 7 && bitAt p 1) || ((o.cls = 8 || o.cls = 9) && bitAt p 2)

/-- A leaf whose encoding and place are allowed: waits, checks, effects. -/
def State.issueOps (s : State) (k : Ctx) (leaf : Leaf) : State :=
  let f := k.a.flow
  let ops := pendOps f.resume leaf.ops
  let w := (s.coreAt k.pos).work
  let start := if w.vq.isEmpty then k.a.spr.vstart.toNat else 0
  if leaf.halt ∧ !k.priv then s.raise k.pos (leafExc 2 0 0 0 0)
  else if s.leafWait k start ops then s.bump (Reg.coreStalls k.pos) 1
  else
    let s := ops.foldl (fun s o => (s.opMeets k o).opPages k start o) s
    match firstFault (ops.flatMap fun o => (s.opFaults k none start o).map fun x => (o.syl, x)) with
    | some (syl, x) =>
      let s := match x.unit with
        | some u => s.metBad 1 (s.lcidOf k.pos) u
        | none => s
      s.raise k.pos (leafExc x.code x.kind syl x.reg x.addr)
    | none =>
      let s := (s.psHit k.pos k.leaf).countLeaf k.pos
      if leaf.halt then s.haltLeaf k else (s.runOps k ops start (f.seq + 1)).endIssue s k leaf.ops ops

/-- The control operation of a branch leaf repeated after a return with DS = 1 (R104, R524). -/
def State.repeatBranch (s : State) (k : Ctx) (leaf : Leaf) (src : Tagged) (pend : Nat) : State :=
  match leaf.ops.find? isJump with
  | none => s.raise k.pos (leafExc 1 6 0 0 (32 * k.leaf))
  | some o =>
    match s.controlFaults k (some src) o with
    | x :: _ => s.raise k.pos (leafExc x.code x.kind o.syl x.reg x.addr)
    | [] =>
      let s := s.psHit k.pos k.leaf
      let a := (s.coreAt k.pos).arch
      let a := if o.opc = 3 ∨ o.opc = 5 then a.setReg 30 ⟨BitVec.ofNat 64 (k.leaf + 2), 5⟩ else a
      s.setArch k.pos
        { a with flow := { a.flow with pc := k.leaf + 1, br := some (k.brCtx (some src) o), resume := if pend = 0 then none else some pend
                                       ctlOnly := none, prev := none } }

/-- The leaf at the flow's address, fetched as `bits`. The rules of place bind the operations that issue (R103, R104). -/
def State.issueLeaf (s : State) (pos : Nat) (bits : BitVec 256) : State :=
  let a := (s.coreAt pos).arch
  let k : Ctx := { pos := pos, leaf := a.flow.pc, priv := a.priv, a := a, lit := (decodeLeaf a.priv bits).lit
                   seed := (s.cur Reg.numSeed).toNat, step := (s.cur (Reg.calStep (pos / 13))).toNat }
  let leaf := decodeLeaf a.priv bits
  let ops := if a.flow.ctlOnly.isSome then leaf.ops.filter isJump else pendOps a.flow.resume leaf.ops
  match firstViol (leaf.viols ++ a.placeViols a.priv k.leaf ops) with
  | some v =>
    -- an operation of the same or a lower syllable may be illegal by its operands, once they are there
    let near := ops.filter fun o => o.mayFail1 && decide (o.syl ≤ v.syl)
    if s.leafWait k 0 near then s.bump (Reg.coreStalls pos) 1
    else
      let v := (firstViol (v :: s.operandViols k near)).getD v
      s.raise pos (leafExc 1 v.kind v.syl 0 (32 * k.leaf))
  | none =>
    match a.flow.ctlOnly with
    | some (src, pend) => s.repeatBranch k leaf src pend
    | none => s.issueOps k leaf

/-- LEAF_ISSUE: a running core issues its next leaf, when no exception stands before it (R110). -/
def State.leafIssue (s : State) (pos : Nat) : State :=
  let f := (s.coreAt pos).arch.flow
  if s.stateOf pos ≠ 1 ∨ f.atCouch ∨ f.str.isSome ∨ f.exc.isSome ∨ !f.deferred.isEmpty ∨ (s.allowedInt pos).isSome then s
  else
    match s.fetched pos f.pc with
    | .wait => s.startFill pos f.pc
    | .fault code kind => s.fetchFault pos code kind
    | .leaf bits => s.issueLeaf pos bits

/-- What has upset before a leaf issues: bits of the leaf in the program store, and words of cached lines (R47, R287). -/
def State.disturb (s : State) (leaf : LeafTry) : State :=
  let s := if leaf.flips = 0 then s else s.psFlip leaf.pos leaf.flips
  leaf.upsets.foldl (fun s x => s.upset leaf.pos x) s

/-- LEAF_ISSUE. Upsets stand whether or not the leaf has to wait. -/
def execLeafIssue (leaf : LeafTry) (s : State) : Host.Outcome State Fault Refusal :=
  answer (Instr.wf (.leafIssue leaf)) (s.disturb leaf) fun s => s.leafIssue leaf.pos

end Sys2Proof.Machine
end

