-- ==== Sys2Proof/Machine/Tender.lean ====
section
/-! DEFINITION. The management port, its sessions and commands, SMBus, JTAG, events off the device (R457, R462, R470 to R494). -/

namespace Sys2Proof.Machine

/-! ### Sessions (R480 to R486) -/

/-- SEC.SESS shows the open and the pending sessions, one bit each. -/
def State.showSess (s : State) : State :=
  let s := s.putFld Reg.secSess 3 0 ((s.tender.sessions.map fun x => 2 ^ x.slot).foldl (· + ·) 0)
  s.putFld Reg.secSess 7 4 ((s.tender.pending.map fun x => 2 ^ x.slot).foldl (· + ·) 0)

def State.setSessions (s : State) (xs : List Sess) : State := ({ s with tender := { s.tender with sessions := xs } }).showSess
def State.setPending (s : State) (xs : List PendSess) : State := ({ s with tender := { s.tender with pending := xs } }).showSess

/-- The lowest of the four places that is not taken. -/
def freePlace (used : List Nat) : Nat := ((upto 4).find? fun k => !(used.contains k)).getD 0

def State.closeIf (s : State) (p : Sess → Bool) : State := s.setSessions (s.tender.sessions.filter fun x => !(p x))

/-- A session of the list replaced, when it is still open. -/
def State.putSess (s : State) (x : Sess) : State :=
  { s with tender := { s.tender with sessions := s.tender.sessions.map fun (y : Sess) => if y.sid = x.sid then x else y } }

/-- SESSION_TIMEOUT (R486): the session in place `k` of SEC.SESS.OPEN has had no request for TIMEOUT seconds. -/
def execSessionTimeout (k : Nat) (s : State) : Host.Outcome State Fault Refusal :=
  answer (Instr.wf (.sessionTimeout k)) s fun s => s.closeIf fun x => x.slot == k

/-- PENDING_SESSION_EXPIRY (R481): the pending session in place `k` is 10 s old. -/
def execPendingSessionExpiry (k : Nat) (s : State) : Host.Outcome State Fault Refusal :=
  answer (Instr.wf (.pendingSessionExpiry k)) s fun s => s.setPending (s.tender.pending.filter fun x => x.slot != k)

/-! ### Credentials (R484, R485) -/

def State.cred (s : State) (k : Nat) : Option Cred := (s.tender.creds.find? fun (c : Nat × Cred) => c.1 == k).map fun c => c.2

def State.setCred (s : State) (k : Nat) (c : Cred) : State :=
  { s with tender := { s.tender with creds := (s.tender.creds.filter fun x => x.1 != k) ++ [(k, c)] } }

/-- A failed opening (R485): from the fifth failure in a row on, each starts a refusal period. -/
def State.authFail (s : State) (k : Nat) : State :=
  let s := s.bump Reg.secAuthfail 1
  match s.cred k with
  | none => s
  | some c =>
    let c := { c with fails := c.fails + 1, locked := decide (5 ≤ c.fails + 1) }
    if c.locked then (s.setCred k c).secEvent 3 0 else s.setCred k c

/-- LOCKOUT_EXPIRY: the refusal period of credential `k` ends. -/
def execLockoutExpiry (k : Nat) (s : State) : Host.Outcome State Fault Refusal :=
  answer (Instr.wf (.lockoutExpiry k)) s fun s =>
    match s.cred k with
    | some c => s.setCred k { c with locked := false }
    | none => s

/-! ### Events off the device (R457, R490) -/

/-- The records of the ring that a session has yet to acknowledge, at its severity and above. -/
def State.owedEvents (s : State) (x : Sess) : List Nat :=
  match x.sub with
  | none => []
  | some (start, sev) =>
    let head := (s.raw Reg.relEvhead).toNat
    let first := max (max start x.acked) (head - 1024)
    ((upto (head - first)).map (first + ·)).filter fun n => decide (sev ≤ wfld (s.raw (Reg.relRing (n % 1024) 0)) 15 8)

/-- Records sent to a session, up to 22 in a datagram. -/
def State.sendRecords : Nat → State → Sess → List Nat → State
  | 0, s, x, _ => s.putSess x
  | n + 1, s, x, ns =>
    if ns.isEmpty then s.putSess x
    else
      let r := s.sendSeries x 2 ((ns.take 22).flatMap s.ringBytes)
      State.sendRecords n r.1 r.2 (ns.drop 22)

/-- EVENT_RESEND: every session is sent again what it has not acknowledged. -/
def State.resend (s : State) : State :=
  if !s.sys.fwRuns then s
  else s.tender.sessions.foldl (fun s x => let ns := s.owedEvents x; State.sendRecords ns.length s x ns) s

/-- EVENT_RESEND. -/
def execEventResend (s : State) : Host.Outcome State Fault Refusal := answer (Instr.wf .eventResend) s fun s => s.resend

/-- CE_PERIOD_END (R457): a period with corrections posts their count and opens a new one; a period without any closes. -/
def State.cePeriod (s : State) (ukind uidx : Nat) : State :=
  let k := ceKey ukind uidx
  let r := Sparse.get ceReset s.ce k
  if !r.isOpen then s
  else if r.count = 0 then { s with ce := Sparse.set ceReset s.ce k (ceReset k) }
  else
    let s := { s with ce := Sparse.set ceReset s.ce k { ceReset k with isOpen := true } }
    s.post { cls := 1, sev := 0, ukind := ukind, uidx := uidx, addr := r.addr.toNat, d0 := r.place, d1 := r.count, d2 := r.d2.toNat }

/-- CE_PERIOD_END. -/
def execCePeriodEnd (ukind uidx : Nat) (s : State) : Host.Outcome State Fault Refusal :=
  answer (Instr.wf (.cePeriodEnd ukind uidx)) s fun s => s.cePeriod ukind uidx

/-! ### Opening a session (R481 to R483) -/

/-- What a command answers: state, status and payload. -/
abbrev Reply := State × Nat × List Byte

/-- HELLO. -/
def State.hello (s : State) : Reply :=
  if 4 ≤ s.tender.pending.length then (s, 4, [])
  else
    let sid := s.tender.sids + 1
    let (d, s) := s.draw
    let (_, s) := s.draw
    let s := { s with tender := { s.tender with sids := sid } }
    let nd := drawBytes d 48
    let qd := ecPublic (drawScalar (d + 1))
    let (sig, s) := s.aliasSign (nd ++ qd ++ leBytes 4 sid)
    let s := s.setPending (s.tender.pending ++ [⟨freePlace (s.tender.pending.map fun x => x.slot), sid, d, none⟩])
    (s, 0, leBytes 4 sid ++ nd ++ qd ++ sig ++ leBytes 4 (s.fld Reg.secBoot 63 32) ++ leBytes 1 (s.fld Reg.secBoot 23 16))

/-- The key K of a session (R482). -/
def PendSess.key (p : PendSess) (qo : List Byte) : Option (List Byte) :=
  (ecdh (drawScalar (p.draw + 1)) qo).map fun z => hmac384 (drawBytes p.draw 48) (z ++ qo ++ ecPublic (drawScalar (p.draw + 1)) ++ leBytes 4 p.sid)

/-- The password hash with `n` rounds (R483). -/
def passHash (salt pw : List Byte) (n : Nat) : List Byte := (upto (n - 1)).foldl (fun h _ => sha384 (h ++ salt)) (sha384 (salt ++ pw))

/-- A session opened from a pending one. -/
def State.openSess (s : State) (p : PendSess) (k : Nat) (c : Cred) (key : List Byte) (seq cmd : Nat) : State × Nat × List Byte × Option (List Byte) :=
  let kmac := hmac384 key [2]
  let s := s.setCred k { c with fails := 0 }
  let s := s.setPending (s.tender.pending.filter fun x => x.sid != p.sid)
  let x : Sess := { slot := freePlace (s.tender.sessions.map fun x => x.slot), sid := p.sid, cred := k, role := c.role, kmac := kmac, seq := seq, resp := []
                    sub := none, census := false, acked := 0, evSeq := 1 }
  (s.setSessions (s.tender.sessions ++ [x]), 0, Config.mgmtReply cmd [c.role] [], some kmac)

/-- SESSION_KEY (2) and SESSION_PW (3). -/
def State.opening (s : State) (p : PendSess) (cmd seq : Nat) (pay : List Byte) : State × Nat × List Byte × Option (List Byte) :=
  let k := ofLe (pay.take 1)
  let qo := (pay.drop 1).take 97
  let rest := pay.drop 98
  if 16 ≤ k ∨ (cmd = 2 ∧ pay.length ≠ 194) then (s, 3, [], none)
  else if 4 ≤ s.tender.sessions.length then (s, 4, [], none)
  else
    match s.cred k with
    | none => (s.authFail k, 6, [], none)
    | some c =>
      if c.locked then (s, 8, [], none)
      else
        match p.key qo with
        | none => (s.authFail k, 6, [], none)
        | some key =>
          let qd := ecPublic (drawScalar (p.draw + 1))
          let ok :=
            if cmd = 2 then c.isKey && ecdsaVerify c.key (drawBytes p.draw 48 ++ qd ++ qo ++ leBytes 4 p.sid ++ leBytes 1 k) rest
            else
              match gcmOpen ((hmac384 key [1]).take 32) (leBytes 4 p.sid ++ List.replicate 8 0) rest with
              | some pw => !c.isKey && decide (1 ≤ pw.length) && decide (pw.length ≤ 64) && passHash c.salt pw c.iters == c.key
              | none => false
          if ok then s.openSess p k c key seq cmd else (s.authFail k, 6, [], none)

/-! ### Commands (R470, R471, R477, R487 to R493) -/

/-- The role that a command needs: 1 observer, 2 operator, 3 administrator; 0 for a command that does not exist. -/
def cmdRole (cmd : Nat) : Nat :=
  if [0x04, 0x05, 0x10, 0x12, 0x13, 0x15, 0x16, 0x17].contains cmd then 1
  else if [0x11, 0x14, 0x20, 0x21].contains cmd then 2
  else if [0x22, 0x23, 0x24, 0x25, 0x26, 0x30, 0x31, 0x32, 0x33, 0x34, 0x35, 0x36, 0x37].contains cmd then 3
  else 0

/-- CSR_READ. -/
def State.cmdRead (s : State) (args : List Nat) : Reply :=
  if 64 < args.length ∨ args.any (fun o => o % 8 != 0 || decide (csrSize ≤ o)) then (s, 3, [])
  else
    let r := args.foldl (fun (acc : State × List Nat) o => let x := acc.1.readCsr o 8; (x.1, acc.2 ++ [x.2.toNat])) (s, [])
    (r.1, 0, Config.mgmtReply 0x10 r.2 [])

/-- One register of a CSR_WRITE record: a MASK of all ones is one write; any other mask a read, and a write of the masked bits (R16, R488). -/
def State.maskedWrite (s : State) (off mask : Nat) (v : Word) : State :=
  let t := if mask = 2 ^ 64 - 1 then s else (s.readCsr off 8).1
  if t.mayWrite .mgmt off then t.writeAny off mask v else t

/-- The registers of a CSR_WRITE record in this seat, by their offsets; none when the record fails a check. Its first word is that of R384; where all but OFF is
zero it names one register (log row 191). -/
def State.recordRegs (s : State) (w0 : Word) : Option (List Nat) :=
  let off := wfld w0 25 0
  let stride := wfld w0 63 56
  let regs := (upto (wfld w0 55 48 + 1)).map fun i => off + i * 2 ^ stride
  if wfld w0 63 26 = 0 then (if off % 8 = 0 then some [off] else none)
  else if wfld w0 47 41 ≠ 0 ∨ wfld w0 31 26 ≠ 0 ∨ stride < 3 ∨ 25 < stride ∨ off % 8 ≠ 0 ∨ regs.any fun o => decide (csrSize ≤ o) then none
  else if w0.getLsbD (32 + s.fld Reg.cfgStraps 3 0) then some regs
  else some []

/-- CSR_WRITE (R488): the records in order; the first that fails a check ends the command with status 3, and those before it stand. -/
def State.cmdWrite : State → List SetRec → State × Nat
  | s, [] => (s, 0)
  | s, r :: rs =>
    match s.recordRegs r.w0 with
    | none => (s, 3)
    | some regs => State.cmdWrite (regs.foldl (fun s o => s.maskedWrite o r.mask.toNat r.value) s) rs

/-- The records of a CSR_WRITE. -/
def writeRecords (pay : List Byte) : List SetRec :=
  let w (i : Nat) : Word := BitVec.ofNat 64 (ofLe ((pay.drop (8 * i)).take 8))
  (upto (pay.length / 24)).map fun i => ⟨w (3 * i), w (3 * i + 1), w (3 * i + 2)⟩

/-- Does a record reach the SEC block, which takes an administrator (R487)? -/
def State.reachesSec (s : State) (r : SetRec) : Bool :=
  ((s.recordRegs r.w0).getD []).any fun o => decide (0xA00000 ≤ o) && decide (o < 0xB00000)

/-- ATTEST (R477): measurements, nonce, clock and signature, or a fragment of the certificate chain. -/
def State.attest (s : State) (args : List Nat) (nonce : List Byte) : Reply :=
  if args.getD 0 0 = 1 then (s, 0, (s.certChain.drop (args.getD 1 0)).take 1024)
  else
    let m := ((upto 7).flatMap fun i => s.meas (i + 1)) ++ takePad 0 48 nonce ++ leBytes 8 s.tclk
    let (sig, s) := s.aliasSign m
    (s, 0, m ++ sig)

/-- FW_WRITE. -/
def State.fwWrite (s : State) (slot off : Nat) (chunk : List Byte) : Reply :=
  if 2 ≤ slot ∨ 1024 < chunk.length ∨ off % 1024 ≠ 0 ∨ 1572864 < off + chunk.length then (s, 3, [])
  else if slot = s.tender.boot.active then (s, 5, [])
  else
    let s := s.setSlot slot (memPut (s.slot slot) off chunk)
    ((s.setBoot { s.tender.boot with ready := false }).showBoot, 0, [])

/-- FW_COMMIT: a slot that fails posts class 0x0A, kind 1 (R465). -/
def State.fwCommit (s : State) : Reply :=
  if s.slotPasses s.otherSlot then ((s.setBoot { s.tender.boot with ready := true }).showBoot, 0, [])
  else (s.secEvent 1 0, if fwSvn (s.slot s.otherSlot) < s.fld (Reg.secArb 0) 31 0 then 7 else 6, [])

/-- FW_ACTIVATE: the status, and whether the tender restarts in the other slot (R471). -/
def State.fwActivate (s : State) : State × Nat × Bool :=
  let lmax := fwLmax (s.slot s.otherSlot)
  if s.activationBar ≠ 0 then (s, s.activationBar, false)
  else if s.jobRuns ∧ (lmax < s.fld Reg.fabLevel 11 8 ∨ (s.fab.raiseReq ∧ lmax < s.fld Reg.fabRaise 35 32)) then (s.putBit Reg.secBoot 1 true, 5, false)
  else (s, 0, true)

/-- DEBUG_UNLOCK (R493, R494). A new nonce is drawn in every case. -/
def State.debugUnlock (s : State) (tok : List Byte) : Reply :=
  let n (a k : Nat) : Nat := ofLe ((tok.drop a).take k)
  let key := if s.bit Reg.secPolicy 2 then ((s.tender.owners.find? fun (o : Nat × List Byte) => o.1 == 0).map fun o => o.2).getD [] else Config.debugKey
  let status :=
    if tok.length ≠ 168 ∨ n 0 4 ≠ 0x44424C48 ∨ n 0x41 7 ≠ 0 ∨ n 8 8 ≠ Config.serial.toNat ∨ (tok.drop 0x10).take 48 ≠ s.dbgNonce then 3
    else if n 4 4 < s.fld (Reg.secArb 2) 31 0 then 7
    else if ecdsaVerify key (tok.take 0x48) (tok.drop 0x48) then 0 else 6
  let s := s.newNonce
  if status ≠ 0 then (s, status, [])
  else
    let scope := n 0x40 1 % 8
    let s := s.putFld Reg.secDbg 2 0 (s.fld Reg.secDbg 2 0 ||| scope)
    let digest := sha384 tok
    let s := { s with tender := { s.tender with token := digest } }
    ((s.setMeas 7 (leBytes 1 (s.fld Reg.secDbg 2 0) ++ digest.take 47)).secEvent 4 scope, 0, [])

/-- CRED_SET: credential, role, kind and rounds as arguments, key or salt and verifier as bytes. -/
def State.credSet (s : State) (args : List Nat) (bs : List Byte) : Reply :=
  let k := args.getD 0 0
  let role := args.getD 1 0
  let isKey := args.getD 2 0 = 0
  let n := args.getD 3 0
  if 16 ≤ k ∨ role = 0 ∨ 3 < role ∨ (isKey ∧ bs.length ≠ 97) ∨ (!isKey ∧ (bs.length ≠ 80 ∨ n < 10000 ∨ 1000000 < n)) then (s, 3, [])
  else
    let c : Cred := { role := role, isKey := isKey, key := if isKey then bs else bs.drop 32, salt := if isKey then [] else bs.take 32, iters := n, fails := 0, locked := false }
    ((s.setCred k c).secEvent 5 0, 0, [])

/-- CRED_DEL: the last administrator stays. -/
def State.credDel (s : State) (k : Nat) : Reply :=
  match s.cred k with
  | none => (s, 3, [])
  | some c =>
    if c.role = 3 ∧ (s.tender.creds.filter fun (x : Nat × Cred) => x.2.role == 3).length = 1 then (s, 5, [])
    else ({ s with tender := { s.tender with creds := s.tender.creds.filter fun x => x.1 != k } }, 0, [])

/-- MILL_AUTH (R489): 0 adds a MILLID, a ninth replacing the oldest; 1 removes one. -/
def State.millAuthCmd (s : State) (sub id : Nat) : State :=
  let l := s.tender.millAuth.filter (· != id)
  let l := if sub = 1 then l else l ++ [id]
  { s with tender := { s.tender with millAuth := l.drop (l.length - 8) } }

/-- Commands on channels, settings and the clock. -/
def State.cmdDevice (s : State) (cmd : Nat) (args : List Nat) (bs : List Byte) : Reply :=
  let a := args.getD 0 0
  if cmd = 0x20 then (if 1280 ≤ a then (s, 3, []) else if s.chState a ≠ 0 then (s, 5, []) else (s.toSuspect a 5, 0, []))
  else if cmd = 0x21 then (if 1280 ≤ a then (s, 3, []) else let r := s.withdraw a; (r.1, if r.2 then 0 else 5, []))
  else if cmd = 0x22 then (if 1280 ≤ a then (s, 3, []) else if s.chState a ≠ 3 then (s, 5, []) else (s.broke (6 + a * 2 ^ 8), 0, []))
  else if cmd = 0x23 then
    if 1 < a then (s, 3, [])
    else let s := s.storeAsk (if a = 1 then [] else s.storeRecs); (s, 0, Config.mgmtReply cmd [s.fld Reg.cfgStore 15 8] [])
  else if cmd = 0x25 then (if a < s.tclk then (s, 3, []) else ({ s with sys := { s.sys with tclk0 := a - s.sys.time / 1000 } }, 0, []))
  else (if 1 < a ∨ bs.length ≠ 16 then (s, 3, []) else (s.millAuthCmd a (ofLe bs), 0, []))

/-- Commands on firmware, counters, credentials and keys. -/
def State.cmdSecure (s : State) (cmd : Nat) (args : List Nat) (bs pay : List Byte) : Reply :=
  let a := args.getD 0 0
  let b := args.getD 1 0
  if cmd = 0x30 then s.fwWrite a b bs
  else if cmd = 0x31 then s.fwCommit
  else if cmd = 0x33 then
    if 2 < a ∨ 2 ^ 32 ≤ b then (s, 3, [])
    else if b < s.fld (Reg.secArb a) 31 0 then (s, 7, [])
    else (s.setBoot { s.tender.boot with advance := some (a, b) }, 0, [])
  else if cmd = 0x34 then s.credSet args bs
  else if cmd = 0x35 then s.credDel a
  else if cmd = 0x36 then
    if 3 < a ∨ (bs ≠ [] ∧ bs.length ≠ 97) then (s, 3, [])
    else
      let l := s.tender.owners.filter fun x => x.1 != a
      (({ s with tender := { s.tender with owners := if bs = [] then l else l ++ [(a, bs)] } }).secEvent 8 0, 0, [])
  else s.debugUnlock pay

/-- Commands on registers, events, mailboxes and attestation. A LOG_READ answers with as many entries of 57 bytes as a payload holds (R479). -/
def State.cmdPlain (s : State) (x : Sess) (cmd : Nat) (args : List Nat) (bs pay : List Byte) : Reply :=
  let a := args.getD 0 0
  if cmd = 0x10 then s.cmdRead args
  else if cmd = 0x11 then
    if pay.length % 24 ≠ 0 ∨ 58 * 24 < pay.length then (s, 3, [])
    else if x.role < 3 ∧ (writeRecords pay).any s.reachesSec then (s, 2, [])
    else let r := s.cmdWrite (writeRecords pay); (r.1, r.2, [])
  else if cmd = 0x12 then (s.putSess { x with sub := some (a, args.getD 1 0), census := args.getD 2 0 = 1, acked := a }, 0, [])
  else if cmd = 0x13 then (s.putSess { x with acked := max x.acked (a + 1) }, 0, [])
  else if cmd = 0x14 then
    if 1200 ≤ a then (s, 3, [])
    else if s.bit (Reg.secMboxIn a) 63 then (s, 4, [])
    else (s.put (Reg.secMboxIn a) (BitVec.ofNat 64 (2 ^ 63 + args.getD 1 0 % 2 ^ 63)), 0, [])
  else if cmd = 0x15 then (if 1200 ≤ a then (s, 3, []) else (s.put (Reg.secMboxOut a) 0, 0, Config.mgmtReply cmd [(s.raw (Reg.secMboxOut a)).toNat] []))
  else if cmd = 0x16 then s.attest args bs
  else if cmd = 0x17 then (s, 0, Config.mgmtReply cmd [] (((s.tender.log.drop a).take 24).flatMap fun e => leBytes 8 e.1 ++ leBytes 1 e.2.1 ++ e.2.2))
  else (s, 0, [])

/-- A command of an open session: what it answers, and what follows the response: 1 CLOSE, 2 tender restart, 3 device reset, 4 a cold device reset,
5 activation. -/
def State.runCmd (s : State) (x : Sess) (cmd : Nat) (pay : List Byte) : Reply × Nat :=
  let need := cmdRole cmd
  let args := Config.mgmtArgs cmd pay
  let bs := Config.mgmtBytes cmd pay
  let sub := args.getD 0 0
  if need = 0 then ((s, 1, []), 0)
  else if x.role < need then ((s, 2, []), 0)
  else if cmd = 0x04 then ((s, 0, []), 1)
  else if cmd = 0x24 then (if 2 < sub then ((s, 3, []), 0) else ((s, 0, []), sub + 2))
  else if cmd = 0x32 then let r := s.fwActivate; ((r.1, r.2.1, []), if r.2.2 then 5 else 0)
  else if cmd < 0x20 then (s.cmdPlain x cmd args bs pay, 0)
  else if cmd < 0x30 then (s.cmdDevice cmd args bs, 0)
  else (s.cmdSecure cmd args bs pay, 0)

/-- What follows a response (R471, R486, R487, R495); a device reset samples the straps, which stand as `straps` (R382). -/
def State.after (s : State) (straps : Nat × Nat × Nat) (x : Sess) (what cmd : Nat) (args : List Nat) (ok : Bool) : State :=
  if what = 1 then s.closeIf fun y => y.sid == x.sid
  else if what = 2 then s.restartTender
  else if what = 3 then s.resetAndStart straps.1 straps.2.1 straps.2.2
  else if what = 4 then ({ s with sys := { s.sys with train := ⟨[], [], []⟩ } }).resetAndStart straps.1 straps.2.1 straps.2.2
  else if what = 5 then s.activate
  else if ok ∧ (cmd = 0x34 ∨ cmd = 0x35) then s.closeIf fun y => y.cred == args.getD 0 0
  else s

/-! ### Datagrams (R479, R480) -/

/-- A datagram dropped without a response: SEC.BADTAG, and an event after 64 drops within a second. -/
def State.dropDatagram (s : State) : State :=
  let s := s.bump Reg.secBadtag 1
  let l := (s.tender.drops.filter fun t => decide (s.sys.time < t + 1000000000)) ++ [s.sys.time]
  if 64 ≤ l.length then ({ s with tender := { s.tender with drops := [] } }).secEvent 2 0
  else { s with tender := { s.tender with drops := l } }

/-- A request of an open session. -/
def State.mgmtRequest (s : State) (straps : Nat × Nat × Nat) (x : Sess) (seq cmd : Nat) (pay : List Byte) : State :=
  if seq < x.seq then s
  else if seq = x.seq then s.emit (.datagram x.resp)
  else
    let (r, what) := s.runCmd x cmd pay
    let resp := datagram (some x.kmac) 1 x.sid seq cmd r.2.1 (r.2.2.take 1408)
    let s := { r.1 with tender := { r.1.tender with sessions := r.1.tender.sessions.map fun (y : Sess) => if y.sid = x.sid then { y with seq := seq, resp := resp } else y } }
    let s := (s.emit (.datagram resp)).after straps x what cmd (Config.mgmtArgs cmd pay) (r.2.1 == 0)
    if cmd = 0x12 ∧ r.2.1 = 0 then
      (match s.tender.sessions.find? fun (y : Sess) => y.sid == x.sid with
       | some y => let ns := s.owedEvents y; State.sendRecords ns.length s y ns
       | none => s)
    else s

/-- The IPv4 address that the management port answers on (R478). -/
def State.netAddr (s : State) : Nat := if s.fld Reg.secNet 63 32 = 0 then 0xA9FE3000 + 20 + s.fld Reg.cfgStraps 3 0 else s.fld Reg.secNet 63 32

/-- Does a datagram break the form of R479? -/
def badForm (bs : List Byte) : Bool :=
  let n (a k : Nat) : Nat := ofLe ((bs.drop a).take k)
  n 0 2 != 0x5A4C || n 2 1 != 1 || n 3 1 != 0 || n 0x12 2 != 0 || decide (1408 < n 0x14 4) || n 0x18 8 != 0 || bs.length != 0x20 + n 0x14 4 + 16

/-- SESSION_KEY or SESSION_PW of a pending session: a request runs once, and its repetition is answered from memory (R480). -/
def State.openRequest (s : State) (p : PendSess) (cmd seq : Nat) (pay : List Byte) : State :=
  match p.last.filter fun (l : Nat × List Byte) => decide (seq ≤ l.1) with
  | some l => if seq = l.1 then s.emit (.datagram l.2) else s
  | none =>
    let r := s.opening p cmd seq pay
    let resp := datagram r.2.2.2 1 p.sid seq cmd r.2.1 r.2.2.1
    let d := r.1.tender
    let sessions := d.sessions.map fun (y : Sess) => if y.sid = p.sid then { y with resp := resp } else y
    let pend := d.pending.map fun (q : PendSess) => if q.sid = p.sid then { q with last := some (seq, resp) } else q
    ({ r.1 with tender := { d with sessions := sessions, pending := pend } }).emit (.datagram resp)

/-- SESSION_KEY or SESSION_PW: of a pending session, or repeated when the session has opened. In an open session another opening is not a request (log row 194). -/
def State.openIn (s : State) (sid seq cmd : Nat) (pay : List Byte) : State :=
  match s.tender.pending.find? (fun (p : PendSess) => p.sid == sid), s.tender.sessions.find? fun (x : Sess) => x.sid == sid with
  | some p, _ => s.openRequest p cmd seq pay
  | none, some x => if seq = x.seq then s.emit (.datagram x.resp) else if seq < x.seq then s else s.dropDatagram
  | none, none => s.dropDatagram

/-- A datagram that the firmware reads. -/
def State.datagramRead (s : State) (straps : Nat × Nat × Nat) (bs : List Byte) : State :=
  let n (a k : Nat) : Nat := ofLe ((bs.drop a).take k)
  let len := n 0x14 4
  let sid := n 4 4
  let seq := n 8 8
  let cmd := n 0x10 2
  let pay := (bs.drop 0x20).take len
  let tag := bs.drop (0x20 + len)
  if badForm bs then s.dropDatagram
  else if cmd = 1 then
    if sid ≠ 0 ∨ tag ≠ List.replicate 16 0 then s.dropDatagram
    else let r := s.hello; r.1.emit (.datagram (datagram none 1 0 seq cmd r.2.1 r.2.2))
  else if cmd = 2 ∨ cmd = 3 then (if tag ≠ List.replicate 16 0 then s.dropDatagram else s.openIn sid seq cmd pay)
  else
    match s.tender.sessions.find? fun (x : Sess) => x.sid == sid with
    | none => s.dropDatagram
    | some x => if tag ≠ (hmac384 x.kmac (bs.take (0x20 + len))).take 16 then s.dropDatagram else s.mgmtRequest straps x seq cmd pay

/-- A datagram that comes while the tender restarts: a STORE is answered once the port serves again (R495). In recovery the port is silent (R466). -/
def State.datagramLater (s : State) (bs : List Byte) : State :=
  let n (a k : Nat) : Nat := ofLe ((bs.drop a).take k)
  if s.bit Reg.secBoot 4 ∨ badForm bs ∨ n 0x10 2 ≠ 0x23 then s
  else { s with tender := { s.tender with storeAsks := s.tender.storeAsks ++ [(n 4 4, n 8 8)] } }

/-- DATAGRAM_RECEIVE: the device takes what is sent to its address and its port (R478). -/
def State.datagramIn (s : State) (d : Datagram) : State :=
  if d.addr ≠ s.netAddr ∨ d.udp ≠ s.fld Reg.secNet 15 0 ∨ !s.sys.standby then s
  else if s.sys.fwRuns then s.datagramRead (d.seat, d.role, d.bootSrc) d.bytes
  else s.datagramLater d.bytes

/-- DATAGRAM_RECEIVE. -/
def execDatagramReceive (dgram : Datagram) (s : State) : Host.Outcome State Fault Refusal :=
  answer (Instr.wf (.datagramReceive dgram)) s fun s => s.datagramIn dgram

/-- ARP_OR_ICMP_ECHO (R478): the port answers with its MAC and IPv4 address. -/
def State.netAnswer (s : State) (icmp : Bool) (body : List Byte) : State :=
  let mac := [0x02, 0x4C, 0x48] ++ beBytes 3 (Config.serial.toNat % 2 ^ 24)
  if s.sys.fwRuns then s.emit (.net (Config.netReply icmp body mac s.netAddr)) else s

/-- ARP_OR_ICMP_ECHO. -/
def execArpOrIcmpEcho (icmp : Bool) (body : List Byte) (s : State) : Host.Outcome State Fault Refusal :=
  answer (Instr.wf (.arpOrIcmpEcho icmp body)) s fun s => s.netAnswer icmp body

/-! ### SMBus (R484, R492) -/

/-- The records of SEV 2 and above that the ring still holds and command 0x10 has not read. -/
def State.unread (s : State) : List Nat := s.tender.unread.filter fun n => decide ((s.raw Reg.relEvhead).toNat ≤ n + 1024)

def State.recordSev (s : State) (n : Nat) : Nat := wfld (s.raw (Reg.relRing (n % 1024) 0)) 15 8

/-- Is the alert line SMB_ALERT_N asserted, which is low (R492, R514)? -/
def State.smbAlert (s : State) : Bool := !s.unread.isEmpty

/-- Is an SMBus command served? The target answers while standby is good; in recovery it serves the recovery commands, and else the other ones (R466, R492,
R515). -/
def State.smbServes (s : State) (recovery : Bool) : Bool := s.sys.standby && s.bit Reg.secBoot 4 == recovery

/-- The PEC of SMBus: a CRC-8 with the polynomial x⁸ + x² + x + 1 over all bytes of a transaction (log row 192). -/
def pec (bs : List Byte) : Byte :=
  bs.foldl (fun c b => (upto 8).foldl (fun (x : Byte) _ => if x.msb then (x <<< 1) ^^^ 0x07 else x <<< 1) (c ^^^ b)) 0

/-- The 7-bit address of the SMBus target (R492). -/
def State.smbAddr (s : State) : Nat := 0x58 + s.fld Reg.cfgStraps 3 0

/-- The answer to a read command, with its PEC. -/
def State.smbReply (s : State) (code : Nat) (bs : List Byte) : State :=
  let addr (r : Nat) : Byte := BitVec.ofNat 8 (2 * s.smbAddr + r)
  s.emit (.smbus s.smbAddr bs (pec ([addr 0, BitVec.ofNat 8 code, addr 1] ++ bs)))

/-- The 8 bytes of command 0x01. -/
def State.smbStatus (s : State) : List Byte :=
  leBytes 1 s.phase ++ leBytes 1 (s.fld Reg.cfgStat 15 8) ++ leBytes 1 (s.fld Reg.secBoot 4 4) ++
    leBytes 1 ((s.unread.map s.recordSev).foldl max 0) ++ leBytes 4 s.unread.length

/-- SMB_STATUS_READ. -/
def execSmbStatusRead (s : State) : Host.Outcome State Fault Refusal :=
  answer (Instr.wf .smbStatusRead) s fun s => if s.smbServes false then s.smbReply 0x01 s.smbStatus else s

/-- SMB_RECORD_READ. -/
def State.smbRecord (s : State) : State :=
  match (if s.smbServes false then s.unread else []) with
  | [] => s
  | n :: rest => ({ s with tender := { s.tender with unread := rest } }).smbReply 0x10 (s.ringBytes n)

/-- SMB_RECORD_READ. -/
def execSmbRecordRead (s : State) : Host.Outcome State Fault Refusal := answer (Instr.wf .smbRecordRead) s fun s => s.smbRecord

/-- SMB_ENROLL: credential 0, while none exists and SEC.POLICY.SMBENR = 1. -/
def execSmbEnroll (key : List Byte) (s : State) : Host.Outcome State Fault Refusal :=
  answer (Instr.wf (.smbEnroll key)) s fun s =>
    if s.smbServes false ∧ s.tender.creds = [] ∧ s.bit Reg.secPolicy 0 then
      s.setCred 0 { role := 3, isKey := true, key := key, salt := [], iters := 0, fails := 0, locked := false }
    else s

/-- SMB_RECOVERY_WRITE: a chunk of 32 bytes of slot A, in recovery. -/
def execSmbRecoveryWrite (off : Nat) (chunk : List Byte) (s : State) : Host.Outcome State Fault Refusal :=
  answer (Instr.wf (.smbRecoveryWrite off chunk)) s fun s =>
    if s.smbServes true ∧ chunk.length = 32 ∧ off + 32 ≤ 1572864 then s.setSlot 0 (memPut (s.slot 0) off chunk) else s

/-- SMB_RECOVERY_VERIFY: slot A, when it passes, becomes ACTIVE in a boot record written anew, and the boot ROM runs again; when it fails, the record of R465
follows once the tender runs. -/
def execSmbRecoveryVerify (s : State) : Host.Outcome State Fault Refusal :=
  answer (Instr.wf .smbRecoveryVerify) s fun s =>
    if !s.smbServes true then s
    else if s.slotPasses 0 then
      (s.setBoot { s.tender.boot with ok := true, active := 0, ready := false, trial := false }).bootRom
    else s.badSlot

/-! ### JTAG (R493) -/

/-- Scan stops the units of clusters: their running cores stand as those of a stopped branch group, and calender and ORBs with them (R35, R494). -/
def State.scanStop (s : State) (cs : List Nat) : State :=
  let s := { s with sys := { s.sys with scanned := cs.foldl addNew s.sys.scanned } }
  (cs.flatMap fun c => (upto 13).map (13 * c + ·)).foldl (fun s p => if s.stateOf p = 1 then s.setStateOf p 6 else s) s

/-- JTAG_INSTRUCTION: while locked, IDCODE and BYPASS alone are reached. Other instructions shift out a free value (log row 5), and with full scan unlocked
they stop the clusters that the scan reaches; what else they do within the unlocked scope the manual does not say (R493, R494; log row 129). Without standby the port is dead (R515). -/
def State.jtag (s : State) (code : Nat) (clusters : List Nat) : State :=
  if !s.sys.standby then s
  else if code = Config.jtagIdcodeCode then s.emit (.jtag (Config.jtagIdcode.zeroExtend 64))
  else if code = Config.jtagBypassCode then s.emit (.jtag 0)
  else if s.fld Reg.secDbg 2 0 = 0 then s
  else
    let (n, s) := (if s.bit Reg.secDbg 2 then s.scanStop clusters else s).freeDraw
    s.emit (.jtag (Config.jtagData code n))

/-- JTAG_INSTRUCTION. -/
def execJtagInstruction (scan : JtagScan) (s : State) : Host.Outcome State Fault Refusal :=
  answer (Instr.wf (.jtagInstruction scan)) s fun s => s.jtag scan.code scan.clusters

end Sys2Proof.Machine
end

