-- ==== Sys2Proof/Machine/Dispatch.lean ====
section
/-! DEFINITION. One arm per command: a direct call of its meaning. -/

namespace Sys2Proof.Machine

def exec (i : Instr) (s : State) : Host.Outcome State Fault Refusal :=
  match i with
  | .leafIssue leaf => Sys2Proof.Machine.execLeafIssue leaf s
  | .programStoreFill pos => Sys2Proof.Machine.execProgramStoreFill pos s
  | .stringStep pos => Sys2Proof.Machine.execStringStep pos s
  | .loadReturn pos idx err => Sys2Proof.Machine.execLoadReturn pos idx err s
  | .headboxTransferComplete pos idx => Sys2Proof.Machine.execHeadboxTransferComplete pos idx s
  | .vectorOpComplete pos err => Sys2Proof.Machine.execVectorOpComplete pos err s
  | .tileOpCommit pos => Sys2Proof.Machine.execTileOpCommit pos s
  | .arrayCheckFault pos fault => Sys2Proof.Machine.execArrayCheckFault pos fault s
  | .exceptionEntry pos done => Sys2Proof.Machine.execExceptionEntry pos done s
  | .spareTakeover c => Sys2Proof.Machine.execSpareTakeover c s
  | .timerCompare c slot => Sys2Proof.Machine.execTimerCompare c slot s
  | .couch c => Sys2Proof.Machine.execCouch c s
  | .couchLimitExpiry c => Sys2Proof.Machine.execCouchLimitExpiry c s
  | .cluCouchGo c v => Sys2Proof.Machine.execCluCouchGo c v s
  | .rotationTurn c => Sys2Proof.Machine.execRotationTurn c s
  | .suspectDue k => Sys2Proof.Machine.execSuspectDue k s
  | .testSessionStart c => Sys2Proof.Machine.execTestSessionStart c s
  | .selfTestSliceEnd c obtained => Sys2Proof.Machine.execSelfTestSliceEnd c obtained s
  | .relPosreqTest k => Sys2Proof.Machine.execRelPosreqTest k s
  | .relPosreqMark k => Sys2Proof.Machine.execRelPosreqMark k s
  | .relPosreqUnmark k => Sys2Proof.Machine.execRelPosreqUnmark k s
  | .norm c => Sys2Proof.Machine.execNorm c s
  | .contrib c => Sys2Proof.Machine.execContrib c s
  | .update c => Sys2Proof.Machine.execUpdate c s
  | .endEntry c => Sys2Proof.Machine.execEndEntry c s
  | .calenderEntryDone c => Sys2Proof.Machine.execCalenderEntryDone c s
  | .deviceRecord b => Sys2Proof.Machine.execDeviceRecord b s
  | .millTotalReturn b => Sys2Proof.Machine.execMillTotalReturn b s
  | .stepEnd b => Sys2Proof.Machine.execStepEnd b s
  | .calCtrlQreset c => Sys2Proof.Machine.execCalCtrlQreset c s
  | .numSlotCtrlClr j v => Sys2Proof.Machine.execNumSlotCtrlClr j v s
  | .orbReduction c j => Sys2Proof.Machine.execOrbReduction c j s
  | .l2OrbCtrlEn c j v => Sys2Proof.Machine.execL2OrbCtrlEn c j v s
  | .prefetchFillReturn pos idx => Sys2Proof.Machine.execPrefetchFillReturn pos idx s
  | .backInvalidateResponse line => Sys2Proof.Machine.execBackInvalidateResponse line s
  | .memPatvalWrite v => Sys2Proof.Machine.execMemPatvalWrite v s
  | .patUpdateDone => Sys2Proof.Machine.execPatUpdateDone s
  | .memPatctlEn v => Sys2Proof.Machine.execMemPatctlEn v s
  | .bankGrant ch bank => Sys2Proof.Machine.execBankGrant ch bank s
  | .scrubPass addr err => Sys2Proof.Machine.execScrubPass addr err s
  | .feltScrub addr err => Sys2Proof.Machine.execFeltScrub addr err s
  | .retrainingWindowStart ch => Sys2Proof.Machine.execRetrainingWindowStart ch s
  | .retrainingWindowEnd ch ok => Sys2Proof.Machine.execRetrainingWindowEnd ch ok s
  | .rowRemap ch rank bank row => Sys2Proof.Machine.execRowRemap ch rank bank row s
  | .surrenderRequest => Sys2Proof.Machine.execSurrenderRequest s
  | .surrenderDeadline => Sys2Proof.Machine.execSurrenderDeadline s
  | .memSurack v => Sys2Proof.Machine.execMemSurack v s
  | .migrationDone => Sys2Proof.Machine.execMigrationDone s
  | .cellReceive p cell => Sys2Proof.Machine.execCellReceive p cell s
  | .sheet p => Sys2Proof.Machine.execSheet p s
  | .replayTimeout p => Sys2Proof.Machine.execReplayTimeout p s
  | .cellStallTimeout stall => Sys2Proof.Machine.execCellStallTimeout stall s
  | .laneLockLoss p => Sys2Proof.Machine.execLaneLockLoss p s
  | .fabPCtrlRetrain p => Sys2Proof.Machine.execFabPCtrlRetrain p s
  | .portRetrainWindowEnd p ok => Sys2Proof.Machine.execPortRetrainWindowEnd p ok s
  | .portTrainingDone p trained rtt => Sys2Proof.Machine.execPortTrainingDone p trained rtt s
  | .epochBoundary => Sys2Proof.Machine.execEpochBoundary s
  | .collectiveStart n => Sys2Proof.Machine.execCollectiveStart n s
  | .collectiveChunk n seg chunk => Sys2Proof.Machine.execCollectiveChunk n seg chunk s
  | .fabHold v => Sys2Proof.Machine.execFabHold v s
  | .fabPatch v => Sys2Proof.Machine.execFabPatch v s
  | .fabRaise v => Sys2Proof.Machine.execFabRaise v s
  | .fabSubst v => Sys2Proof.Machine.execFabSubst v s
  | .fabJobctlLoad => Sys2Proof.Machine.execFabJobctlLoad s
  | .fabJobctlStart => Sys2Proof.Machine.execFabJobctlStart s
  | .fabJobctlStop => Sys2Proof.Machine.execFabJobctlStop s
  | .fabStrCtrlReload st => Sys2Proof.Machine.execFabStrCtrlReload st s
  | .hostCounterRead off => Sys2Proof.Machine.execHostCounterRead off s
  | .rcRead src off size => Sys2Proof.Machine.execRcRead src off size s
  | .hostMemAccess write hpa len data => Sys2Proof.Machine.execHostMemAccess write hpa len data s
  | .hifQSqtail n v => Sys2Proof.Machine.execHifQSqtail n v s
  | .hifQCqhead n v => Sys2Proof.Machine.execHifQCqhead n v s
  | .hifQCtrlEn n v => Sys2Proof.Machine.execHifQCtrlEn n v s
  | .commandCompletion n => Sys2Proof.Machine.execCommandCompletion n s
  | .devFeatctlCommit => Sys2Proof.Machine.execDevFeatctlCommit s
  | .hifHdmctlEn v => Sys2Proof.Machine.execHifHdmctlEn v s
  | .hifCdb w v => Sys2Proof.Machine.execHifCdb w v s
  | .hifCdbc w v => Sys2Proof.Machine.execHifCdbc w v s
  | .msixUnmask vec => Sys2Proof.Machine.execMsixUnmask vec s
  | .linkReset => Sys2Proof.Machine.execLinkReset s
  | .cxlReset => Sys2Proof.Machine.execCxlReset s
  | .ideKm body => Sys2Proof.Machine.execIdeKm body s
  | .getVersion body => Sys2Proof.Machine.execGetVersion body s
  | .getCapabilities body => Sys2Proof.Machine.execGetCapabilities body s
  | .negotiateAlgorithms body => Sys2Proof.Machine.execNegotiateAlgorithms body s
  | .getDigests body => Sys2Proof.Machine.execGetDigests body s
  | .getCertificate body => Sys2Proof.Machine.execGetCertificate body s
  | .challenge body => Sys2Proof.Machine.execChallenge body s
  | .getMeasurements body => Sys2Proof.Machine.execGetMeasurements body s
  | .keyExchange body => Sys2Proof.Machine.execKeyExchange body s
  | .finish body => Sys2Proof.Machine.execFinish body s
  | .endSession body => Sys2Proof.Machine.execEndSession body s
  | .mainPowerGood seat role bootSrc => Sys2Proof.Machine.execMainPowerGood seat role bootSrc s
  | .p1 => Sys2Proof.Machine.execP1 s
  | .p2 run => Sys2Proof.Machine.execP2 run s
  | .p3 run => Sys2Proof.Machine.execP3 run s
  | .p4 => Sys2Proof.Machine.execP4 s
  | .p5 failed channels rows ways shared => Sys2Proof.Machine.execP5 failed channels rows ways shared s
  | .p6 => Sys2Proof.Machine.execP6 s
  | .memberImageTimeout => Sys2Proof.Machine.execMemberImageTimeout s
  | .cfgStoreStore => Sys2Proof.Machine.execCfgStoreStore s
  | .cfgStoreErase => Sys2Proof.Machine.execCfgStoreErase s
  | .storeComplete ok => Sys2Proof.Machine.execStoreComplete ok s
  | .mainInputLow mV => Sys2Proof.Machine.execMainInputLow mV s
  | .mainCutoff mV => Sys2Proof.Machine.execMainCutoff mV s
  | .standbyLoss => Sys2Proof.Machine.execStandbyLoss s
  | .modResetN seat role bootSrc => Sys2Proof.Machine.execModResetN seat role bootSrc s
  | .governorSample mW mV inlet outlet => Sys2Proof.Machine.execGovernorSample mW mV inlet outlet s
  | .thermalCapStep c temp => Sys2Proof.Machine.execThermalCapStep c temp s
  | .thermalCutoff island temp => Sys2Proof.Machine.execThermalCutoff island temp s
  | .clockStepChange c => Sys2Proof.Machine.execClockStepChange c s
  | .timingMonitorRaise island => Sys2Proof.Machine.execTimingMonitorRaise island s
  | .protectionInstant => Sys2Proof.Machine.execProtectionInstant s
  | .snapCtrlNow => Sys2Proof.Machine.execSnapCtrlNow s
  | .poolCopyDone page => Sys2Proof.Machine.execPoolCopyDone page s
  | .pageDrained => Sys2Proof.Machine.execPageDrained s
  | .shareCopy => Sys2Proof.Machine.execShareCopy s
  | .snapRestoreGo v => Sys2Proof.Machine.execSnapRestoreGo v s
  | .restoreComplete => Sys2Proof.Machine.execRestoreComplete s
  | .datagramReceive dgram => Sys2Proof.Machine.execDatagramReceive dgram s
  | .bootRomRun => Sys2Proof.Machine.execBootRomRun s
  | .confirm => Sys2Proof.Machine.execConfirm s
  | .trialTimeout => Sys2Proof.Machine.execTrialTimeout s
  | .pendingActivation => Sys2Proof.Machine.execPendingActivation s
  | .sessionTimeout k => Sys2Proof.Machine.execSessionTimeout k s
  | .pendingSessionExpiry k => Sys2Proof.Machine.execPendingSessionExpiry k s
  | .lockoutExpiry k => Sys2Proof.Machine.execLockoutExpiry k s
  | .eventResend => Sys2Proof.Machine.execEventResend s
  | .cePeriodEnd ukind uidx => Sys2Proof.Machine.execCePeriodEnd ukind uidx s
  | .mboxOutWrite pos lcid v => Sys2Proof.Machine.execMboxOutWrite pos lcid v s
  | .mboxInRead lcid => Sys2Proof.Machine.execMboxInRead lcid s
  | .smbStatusRead => Sys2Proof.Machine.execSmbStatusRead s
  | .smbRecordRead => Sys2Proof.Machine.execSmbRecordRead s
  | .smbEnroll key => Sys2Proof.Machine.execSmbEnroll key s
  | .smbRecoveryWrite off chunk => Sys2Proof.Machine.execSmbRecoveryWrite off chunk s
  | .smbRecoveryVerify => Sys2Proof.Machine.execSmbRecoveryVerify s
  | .registerWrite src off size v => Sys2Proof.Machine.execRegisterWrite src off size v s
  | .fabPCtrlEn p v => Sys2Proof.Machine.execFabPCtrlEn p v s
  | .relWmwDbaseEn n v => Sys2Proof.Machine.execRelWmwDbaseEn n v s
  | .snapPmemWrite m v => Sys2Proof.Machine.execSnapPmemWrite m v s
  | .calQbaseStepWrite c step v => Sys2Proof.Machine.execCalQbaseStepWrite c step v s
  | .numContextOrGroupWrite off v => Sys2Proof.Machine.execNumContextOrGroupWrite off v s
  | .suspectHoursElapsed k => Sys2Proof.Machine.execSuspectHoursElapsed k s
  | .mainInputBackInRange mV => Sys2Proof.Machine.execMainInputBackInRange mV s
  | .reelStackRefreshDoubled stack temp => Sys2Proof.Machine.execReelStackRefreshDoubled stack temp s
  | .coolantInletAboveTinlet inlet => Sys2Proof.Machine.execCoolantInletAboveTinlet inlet s
  | .linkReturnToL0 => Sys2Proof.Machine.execLinkReturnToL0 s
  | .cxlCacheHostSnoop line kind => Sys2Proof.Machine.execCxlCacheHostSnoop line kind s
  | .jtagInstruction scan => Sys2Proof.Machine.execJtagInstruction scan s
  | .arpOrIcmpEcho icmp body => Sys2Proof.Machine.execArpOrIcmpEcho icmp body s

end Sys2Proof.Machine
end

