-- ==== Sys2Proof/Machine/Step.lean ====
section
/-! DEFINITION. One step: the command at the front of the queue runs with the rest of the queue; an empty queue lets the clock
advance by 1 ns (assumption log, row 1). -/

namespace Sys2Proof.Machine

/-- What an empty queue does: the device idles and 1 ns passes. -/
def State.idle (s : State) : State := { s with sys := { s.sys with time := s.sys.time + 1 } }

/-- One step of the machine. -/
def step (s : State) : Host.Outcome State Fault Refusal :=
  match s.pending with
  | [] => .next s.idle
  | c :: rest => exec c { s with pending := rest }

/-- The state with the command that a table word spells put in front of the queue. -/
def State.withFetchWord (s : State) (nbits w : Nat) : State :=
  match Sys2Proof.decodeTableWord nbits w with
  | some c => { s with pending := c :: s.pending }
  | none => s

end Sys2Proof.Machine
end

