-- ==== Sys2Proof/Safety.lean ====
section
/-! DEFINITION. The terms in which statements about the machine are made: what it is for a command to complete, when nothing
makes a command wait, what stays the same, and where a core stands before a leaf. -/

namespace Sys2Proof.Machine

/-- Command `c` completes in state `s`, and the next state has property `P`. -/
def Completes (c : Instr) (s : State) (P : State → Prop) : Prop := ∃ t, exec c s = .next t ∧ P t

/-- Nothing stands that a command could wait for, and no command is at work: no page protected for a snapshot, no line that the host holds, no position under
self-test, no channel in a retraining window, no bank queue that is full or kept waiting for, and no update of the page table under way. -/
structure State.Calm (s : State) : Prop where
  waits : s.waits = []
  prot : s.snap.prot = []
  snoop : s.hif.snoop = []
  back : s.hif.biWait = []
  test : ∀ c, (s.cluAt c).rot.session = none
  window : ∀ ch, ch < 1280 → s.bit (Reg.memChStat ch) 4 = false
  banks : ∀ b, (s.bankAt b).queue.length < 16 ∧ (s.bankAt b).waiting = []
  parked : s.mem.parked = []
  update : s.mem.patBusy = none

/-- Every byte reads as before: both tiers, every LDM, and host memory. -/
def SameBytes (s t : State) : Prop := ∀ l : Loc, t.byteAt l = s.byteAt l

/-- Every register of CSR space holds what it held, but for those listed. -/
def SameRegs (s t : State) (but : List Nat) : Prop := ∀ off, off ∉ but → t.raw off = s.raw off

/-- Every position is as it was, but for those listed. -/
def SameCores (s t : State) (but : List Nat) : Prop := ∀ p, p ∉ but → t.coreAt p = s.coreAt p

/-- Every cluster is as it was beyond its registers, but for those listed. -/
def SameClusters (s t : State) (but : List Nat) : Prop := ∀ c, c ∉ but → t.cluAt c = s.cluAt c

/-- The `n` bytes at `a` lie in the felt or the reel tier. -/
def State.InTiers (s : State) (a n : Nat) : Prop := ∀ i, i < n → s.locate none (a + i) = .tier (a + i)

/-- What accesses note of a memory beside its data: errors, sectors that have been corrected, and requests to the banks, as memory `n` has them. -/
def Mem.noted (m n : Mem) : Mem :=
  { m with errs := n.errs, flips := n.flips, ceSectors := n.ceSectors, bankq := n.bankq, nextReq := n.nextReq }

/-- What a leaf of position `pos` encoded as `bits` issues under. -/
def State.ctx (s : State) (pos : Nat) (bits : BitVec 256) : Ctx :=
  let a := (s.coreAt pos).arch
  { pos := pos, leaf := a.flow.pc, priv := a.priv, a := a, lit := (decodeLeaf a.priv bits).lit
    seed := (s.cur Reg.numSeed).toNat, step := (s.cur (Reg.calStep (pos / 13))).toNat }

/-- A position stands before leaf `bits`, which is the delay leaf of `br` when there is one: the core runs, no exception and no interrupt
stands before the issue, nothing of the core is in flight, no mode shadow is in force, and its program store holds
the leaf at its program counter with sound parity. -/
structure State.Before (s : State) (pos : Nat) (bits : BitVec 256) (br : Option BrCtx) : Prop where
  unit : pos < 1300
  calm : s.Calm
  running : s.stateOf pos = 1
  quiet : s.allowedInt pos = none
  flow : (s.coreAt pos).arch.flow.br = br ∧ (s.coreAt pos).arch.flow.shadow = none ∧ (s.coreAt pos).arch.flow.resume = none ∧
    (s.coreAt pos).arch.flow.ctlOnly = none ∧ (s.coreAt pos).arch.flow.exc = none ∧ (s.coreAt pos).arch.flow.deferred = [] ∧
    (s.coreAt pos).arch.flow.str = none ∧ (s.coreAt pos).arch.flow.atCouch = false
  idle : (s.coreAt pos).work.loads = [] ∧ (s.coreAt pos).work.vq = [] ∧ (s.coreAt pos).work.tq = []
  hit : (s.coreAt pos).caches.psLeaf (s.coreAt pos).arch.flow.pc = some bits
  parity : parityOk bits.toNat = true

/-- The leaf has the one operation `o`, and nothing of its encoding or its place is forbidden. -/
structure State.Single (s : State) (pos : Nat) (bits : BitVec 256) (o : Op) : Prop where
  ops : (decodeLeaf (s.coreAt pos).arch.priv bits).ops = [o]
  plain : (decodeLeaf (s.coreAt pos).arch.priv bits).halt = false
  sound : (decodeLeaf (s.coreAt pos).arch.priv bits).viols = []
  placed : (s.coreAt pos).arch.placeViols (s.coreAt pos).arch.priv (s.coreAt pos).arch.flow.pc [o] = []

/-- What a leaf leaves alone that writes no more than scalar and special registers and the flow of control of its own position: everything but CORE.LEAVES,
and of the position the scalar registers, the special registers, the headbox counters, the block repeats and the flow, and what the fetch notes in the program
store. -/
structure LeafOnly (s t : State) (pos : Nat) : Prop where
  rest : t = { s with csr := t.csr, cores := t.cores }
  counted : t.raw (Reg.coreLeaves pos) = s.raw (Reg.coreLeaves pos) + 1
  regs : SameRegs s t [Reg.coreLeaves pos]
  cores : SameCores s t [pos]
  ldm : (t.coreAt pos).ldm = (s.coreAt pos).ldm
  work : (t.coreAt pos).work = (s.coreAt pos).work
  caches : (t.coreAt pos).caches = { (s.coreAt pos).caches with ps := (t.coreAt pos).caches.ps, psRetry := (t.coreAt pos).caches.psRetry }
  arch : (t.coreAt pos).arch = { (s.coreAt pos).arch with
    sregs := (t.coreAt pos).arch.sregs, spr := (t.coreAt pos).arch.spr, flow := (t.coreAt pos).arch.flow, hbc := (t.coreAt pos).arch.hbc
    loop0 := (t.coreAt pos).arch.loop0, loop1 := (t.coreAt pos).arch.loop1 }

/-- The page checks that a leaf makes leave behind: the entries that its cluster caches, and MEM.PATMISS (R244). -/
structure PagesOnly (s t : State) : Prop where
  rest : t = { s with csr := t.csr, clusters := t.clusters }
  regs : SameRegs s t [Reg.memPatmiss]
  clu : ∀ c, t.cluAt c = { s.cluAt c with pat := (t.cluAt c).pat }

/-- As `LeafOnly`, after page checks. -/
def PagedLeaf (s t : State) (pos : Nat) : Prop := ∃ u, PagesOnly s u ∧ LeafOnly u t pos

/-- The block repeats and the program counter after a leaf are those that the choice of the next leaf gives. -/
def GoesOn (a b : Arch) (br : Option BrCtx) : Prop :=
  let n := a.nextLeaf a.priv a.flow.pc br
  b.flow.pc = n.flow.pc ∧ b.flow.br = none ∧ b.loop0 = n.loop0 ∧ b.loop1 = n.loop1

end Sys2Proof.Machine
end

