-- ==== Sys2Proof/Certificates/Slice0/Obligations.lean ====
section
/-! DEFINITION. The statements for the provers: what each command does, what it leaves alone, where it completes, and what every step keeps. -/

section Statements

open Sys2Proof Sys2Proof.Machine

/-! ### The queue -/

/-- A step takes the command at the front of the queue and answers what the command does with the rest of the queue. With no command waiting, one nanosecond passes
and nothing else changes (the model's choice, assumption log row 1). -/
def Obligations.StepRunsFrontCommand : Prop :=
  (∀ (c : Instr) (rest : List Instr) (s : State), step { s with pending := c :: rest } = exec c { s with pending := rest }) ∧
  ∀ s : State, s.pending = [] → step s = .next { s with sys := { s.sys with time := s.sys.time + 1 } }

/-- Every command that names units of the device ends in a next state; one that names a unit the device does not have is refused by the
fault of that name, and changes nothing. No command is refused in another way, none touches the queue of waiting commands, and none leaves anything that it waits for
behind. The fault and the empty list of waits are the model's choices (assumption log rows 2 and 7). -/
def Obligations.CommandsEndByTheirUnits : Prop :=
  ∀ (c : Instr) (s : State), (c.wf = true → ∃ t, exec c s = .next t ∧ t.pending = s.pending ∧ t.waits = []) ∧ (c.wf = false → exec c s = .fault .noSuchUnit)

/-- Every step keeps this: all commands that wait name units of the device, and nothing that a command waited for is left over. In such a
state a step always answers a next state, with the front command gone from the queue; so as many steps as commands wait leave none waiting. That such commands always
answer, and that nothing waited for is left over, are the model's choices (assumption log rows 2 and 7). -/
def Obligations.StepKeepsQueueInvariant : Prop :=
  ∀ s : State, (∀ c ∈ s.pending, c.wf = true) → s.waits = [] →
    (∃ t, step s = .next t ∧ (∀ c ∈ t.pending, c.wf = true) ∧ t.waits = [] ∧ t.pending = s.pending.tail) ∧
    ∃ t, Host.Core.run Sys2Proof.core s.pending.length s = .next t ∧ t.pending = []

/-! ### Leaves -/

/-- LEAF_ISSUE of a leaf with scalar arithmetic operations only, any number of them that the encoding allows, or none, as a delay leaf or not: each result
register takes its operation's result from the registers as they stood before the leaf, every other register keeps its value, the conditions
join SFLAGS, the leaf counts, and the program goes on at the leaf that the rule of the next leaf chooses. What has upset in the caches before a leaf issues stands first,
and the leaf then issues as one without upsets. -/
def Obligations.ScalarLeafRuns : Prop :=
  (∀ (s : State) (leaf : LeafTry), exec (.leafIssue leaf) s = exec (.leafIssue ⟨leaf.pos, [], 0⟩) (s.disturb leaf)) ∧
  ∀ (s : State) (pos : Nat) (bits : BitVec 256) (br : Option BrCtx), s.Before pos bits br →
    let k := s.ctx pos bits
    let ops := (decodeLeaf k.priv bits).ops
    (decodeLeaf k.priv bits).viols = [] → (decodeLeaf k.priv bits).halt = false → (∀ o ∈ ops, 1 ≤ o.cls ∧ o.cls ≤ 3) →
    (∀ o ∈ ops, ∃ v fl, s.alu k o = .ok v fl ∧ traps k.a.modeNow fl = false) →
    Completes (.leafIssue ⟨pos, [], 0⟩) s fun t =>
      LeafOnly s t pos ∧
      (∀ o ∈ ops, ∀ v fl, s.alu k o = .ok v fl → (t.coreAt pos).arch.reg (regKey k.priv o.r) = v) ∧
      (∀ n, (∀ o ∈ ops, regKey k.priv o.r ≠ n) → (t.coreAt pos).arch.reg n = k.a.reg n) ∧
      (t.coreAt pos).arch.spr = { k.a.spr with
        ksp := (t.coreAt pos).arch.spr.ksp
        sflags := ops.foldl (fun w o => match s.alu k o with | .ok _ fl => orFlags w fl | _ => w) k.a.spr.sflags } ∧
      (t.coreAt pos).arch.hbc = k.a.hbc ∧ (t.coreAt pos).arch.flow.exc = none ∧ GoesOn k.a (t.coreAt pos).arch br

/-- The results of the register-register class on integer operands, opcode by opcode: sums, differences, logic, shifts and rotation by the low six bits of the second
operand, products, quotients and remainders with the fixed results for a divisor of zero and for the most negative number divided by minus one, minima and maxima; each
with tag 0. clz, ctz and popc count in the first operand whatever the second register holds. Any other tag is a tag fault that names the register, but for address
arithmetic with add, sub and `and`. -/
def Obligations.IntegerResults : Prop :=
  ∀ (op ra rb : Nat) (a b : Tagged), op < 0x18 →
    let x := a.pay
    let y := b.pay
    let n := y.toNat % 64
    let gives (v : Word) : Prop := aluRR op ra rb a b = .ok ⟨v, 0⟩ 0
    (isInt a.tag = true → isInt b.tag = true →
      (op = 0x00 → gives (x + y)) ∧ (op = 0x01 → gives (x - y)) ∧ (op = 0x02 → gives (x &&& y)) ∧ (op = 0x03 → gives (x ||| y)) ∧
      (op = 0x04 → gives (x ^^^ y)) ∧
      (op = 0x05 → gives (BitVec.ofNat 64 (x.toNat * 2 ^ n))) ∧
      (op = 0x06 → gives (BitVec.ofNat 64 (x.toNat / 2 ^ n))) ∧
      (op = 0x07 → gives (BitVec.ofInt 64 (x.toInt / (2 ^ n : Nat)))) ∧
      (op = 0x08 → gives (BitVec.ofNat 64 (x.toNat * y.toNat))) ∧
      (op = 0x09 → gives (BitVec.ofInt 64 (x.toInt * y.toInt / (2 ^ 64 : Nat)))) ∧
      (op = 0x0A → gives (BitVec.ofNat 64 (x.toNat * y.toNat / 2 ^ 64))) ∧
      (op = 0x0B → y ≠ 0 → gives (BitVec.ofInt 64 (x.toInt.tdiv y.toInt))) ∧ (op = 0x0C → y ≠ 0 → gives (BitVec.ofNat 64 (x.toNat / y.toNat))) ∧
      (op = 0x0D → y ≠ 0 → gives (BitVec.ofInt 64 (x.toInt.tmod y.toInt))) ∧ (op = 0x0E → y ≠ 0 → gives (BitVec.ofNat 64 (x.toNat % y.toNat))) ∧
      (op = 0x0B ∨ op = 0x0C → y = 0 → gives 0xFFFFFFFFFFFFFFFF) ∧ (op = 0x0D ∨ op = 0x0E → y = 0 → gives x) ∧
      (x = 0x8000000000000000 → y = 0xFFFFFFFFFFFFFFFF → (op = 0x0B → gives 0x8000000000000000) ∧ (op = 0x0D → gives 0)) ∧
      (op = 0x0F → gives (if x.toInt ≤ y.toInt then x else y)) ∧ (op = 0x10 → gives (if x.toInt ≤ y.toInt then y else x)) ∧
      (op = 0x11 → gives (if x.toNat ≤ y.toNat then x else y)) ∧ (op = 0x12 → gives (if x.toNat ≤ y.toNat then y else x)) ∧
      (op = 0x13 → gives (x &&& ~~~y)) ∧
      (op = 0x14 → gives (BitVec.ofNat 64 (x.toNat * 2 ^ n + x.toNat / 2 ^ (64 - n))))) ∧
    (isInt a.tag = true →
      (op = 0x15 → ∃ m, m ≤ 64 ∧ gives (BitVec.ofNat 64 m) ∧ (m < 64 → x.toNat.testBit (63 - m) = true) ∧ ∀ i, i < m → x.toNat.testBit (63 - i) = false) ∧
      (op = 0x16 → ∃ m, m ≤ 64 ∧ gives (BitVec.ofNat 64 m) ∧ (m < 64 → x.toNat.testBit m = true) ∧ ∀ i, i < m → x.toNat.testBit i = false) ∧
      (op = 0x17 → gives (BitVec.ofNat 64 ((List.range 64).filter fun i => x.toNat.testBit i).length))) ∧
    (0x15 ≤ op → isInt a.tag = false → aluRR op ra rb a b = .tag ra) ∧
    (op < 0x15 → op ≠ 0 → op ≠ 1 → op ≠ 2 → isInt a.tag = false → aluRR op ra rb a b = .tag ra) ∧
    (op < 0x15 → op ≠ 0 → op ≠ 1 → op ≠ 2 → isInt a.tag = true → isInt b.tag = false → aluRR op ra rb a b = .tag rb)

/-- Address arithmetic, row by row of its table, and the tag fault of any other combination of an address operand with an operation of the three scalar classes, whatever
tag the other operand has. -/
def Obligations.AddressArithmetic : Prop :=
  ∀ (ra rb : Nat) (x y : Word) (t u : Tag),
    let ad (z : Tag) : Prop := z = 1 ∨ z = 5
    let int (z : Tag) : Prop := z = 0 ∨ z = 0xE
    let fails (r : AluRes) : Prop := r = .tag ra ∨ r = .tag rb
    (ad t → int u → aluRR 0 ra rb ⟨x, t⟩ ⟨y, u⟩ = .ok ⟨x + y, t⟩ 0 ∧ aluRR 0 ra rb ⟨y, u⟩ ⟨x, t⟩ = .ok ⟨y + x, t⟩ 0 ∧
      aluRR 1 ra rb ⟨x, t⟩ ⟨y, u⟩ = .ok ⟨x - y, t⟩ 0 ∧ ∀ imm, aluRI 0 ra ⟨x, t⟩ imm = .ok ⟨x + wordOfInt (sext 15 imm), t⟩ 0) ∧
    (ad t → aluRR 1 ra rb ⟨x, t⟩ ⟨y, t⟩ = .ok ⟨x - y, 0⟩ 0) ∧
    (int u → aluRR 2 ra rb ⟨x, 1⟩ ⟨y, u⟩ = .ok ⟨x &&& y, 1⟩ 0 ∧ ∀ imm, aluRI 1 ra ⟨x, 1⟩ imm = .ok ⟨x &&& wordOfInt (sext 15 imm), 1⟩ 0) ∧
    (ad t ∨ ad u → ¬(ad t ∧ int u) → ¬(int t ∧ ad u) → fails (aluRR 0 ra rb ⟨x, t⟩ ⟨y, u⟩)) ∧
    (ad t ∨ ad u → ¬(ad t ∧ int u) → t ≠ u → fails (aluRR 1 ra rb ⟨x, t⟩ ⟨y, u⟩)) ∧
    (ad t ∨ ad u → ¬(t = 1 ∧ int u) → fails (aluRR 2 ra rb ⟨x, t⟩ ⟨y, u⟩)) ∧
    (∀ op, 3 ≤ op → op < 0x15 → ad t ∨ ad u → fails (aluRR op ra rb ⟨x, t⟩ ⟨y, u⟩)) ∧
    (∀ op, 0x15 ≤ op → op < 0x18 → ad t → aluRR op ra rb ⟨x, t⟩ ⟨y, u⟩ = .tag ra) ∧
    (∀ op imm, op < 0x0A → op ≠ 0 → op ≠ 8 → ¬(op = 1 ∧ t = 1) → ad t → aluRI op ra ⟨x, t⟩ imm = .tag ra) ∧
    (∀ (mode lit : Word) (rc : Nat) (c : Tagged),
      let misc (op : Nat) : AluRes := aluMisc mode lit op ra rb rc ⟨x, t⟩ ⟨y, u⟩ c
      (ad t → t = u →
        misc 0x00 = .ok ⟨if x = y then 1 else 0, 6⟩ 0 ∧ misc 0x01 = .ok ⟨if x = y then 0 else 1, 6⟩ 0 ∧
        misc 0x03 = .ok ⟨if x.toNat < y.toNat then 1 else 0, 6⟩ 0 ∧ misc 0x05 = .ok ⟨if x.toNat ≤ y.toNat then 1 else 0, 6⟩ 0) ∧
      (∀ op, op = 0x00 ∨ op = 0x01 ∨ op = 0x03 ∨ op = 0x05 → ad t ∨ ad u → t ≠ u → fails (misc op)) ∧
      (ad t ∨ ad u → fails (misc 0x02) ∧ fails (misc 0x04) ∧ fails (misc 0x06) ∧ fails (misc 0x07)) ∧
      (∀ op, op = 0x08 ∨ (0x10 ≤ op ∧ op ≤ 0x1D) → ad t → misc op = .tag ra) ∧
      (∀ op, (0x10 ≤ op ∧ op ≤ 0x13) ∨ (0x15 ≤ op ∧ op ≤ 0x1A) → ad u → fails (misc op)))

/-- A leaf that violates a rule of encoding or place, or whose one operation meets a fault at issue, has no effect but that its exception stands
before the core: code 0x01 with the lowest syllable's violation, and for a single scalar arithmetic operation the tag fault 0x04 of the register
named, the arithmetic trap 0x0B, and in user state the privilege fault 0x02 of rfe, psinv, cmo by set and way or of a program store, mfsr and mtsr of a supervisor
register. A load, store or atomic whose base has another tag than 1 is a tag fault of the base. A vext of an element that its source does not have is code 0x01 with KIND
6, the model's choice (assumption log row 175). -/
def Obligations.FaultingLeafHasNoEffect : Prop :=
  ∀ (s : State) (pos : Nat) (bits : BitVec 256) (br : Option BrCtx), s.Before pos bits br →
    let k := s.ctx pos bits
    let leaf := decodeLeaf k.priv bits
    let raised (e : Exc) : State := s.setFlow pos { k.a.flow with exc := some e }
    let raises (e : Exc) : Prop := exec (.leafIssue ⟨pos, [], 0⟩) s = .next (raised e)
    (∀ v, firstViol (leaf.viols ++ k.a.placeViols k.priv k.leaf leaf.ops) = some v → (∀ o ∈ leaf.ops, o.syl ≤ v.syl → o.mayFail1 = false) →
      raises (leafExc 1 v.kind v.syl 0 (32 * k.leaf))) ∧
    (∀ o, s.Single pos bits o →
      (∀ r, 1 ≤ o.cls → o.cls ≤ 3 → s.alu k o = .tag r → raises (leafExc 4 0 o.syl r 0)) ∧
      (∀ v fl, 1 ≤ o.cls → o.cls ≤ 3 → s.alu k o = .ok v fl → traps k.a.modeNow fl = true → raises (leafExc 0x0B 0 o.syl 0 0)) ∧
      (k.priv = false →
        (o.cls = 4 ∧ o.opc = 0x0C) ∨ (o.cls = 0xB ∧ o.opc = 5) ∨ (o.cls = 0xB ∧ o.opc = 4 ∧ 8 ≤ o.e1 % 16) ∨ (o.cls = 0xB ∧ o.opc ≤ 1 ∧ o.e1 ≤ 6) →
        raises (leafExc 2 0 o.syl 0 0)) ∧
      (isLoad o = true ∨ isStore o = true ∨ isAmo o = true → (k.r (hi5 o.e1)).tag ≠ 1 → s.fillsOf (pos / 13) < 64 →
        raises (leafExc 4 0 o.syl (hi5 o.e1) 0)) ∧
      (o.cls = 6 → o.opc = 0x1F → o.vs = true → isInt (k.r o.vb).tag = true → o.vn ≤ (k.r o.vb).pay.toNat →
        raises (leafExc 1 6 o.syl 0 (32 * k.leaf)))) ∧
    (k.priv = false → leaf.viols = [] → leaf.halt = true → leaf.ops = [] → raises (leafExc 2 0 0 0 0))

/-- LEAF_ISSUE of a branch leaf: the delay leaf follows, with the target noted when the branch is taken; bl and jlr write s30 as the code
address A + 2, and every other register keeps its value. -/
def Obligations.BranchLeafRuns : Prop :=
  ∀ (s : State) (pos : Nat) (bits : BitVec 256) (o : Op), s.Before pos bits none → s.Single pos bits o → o.cls = 4 → o.opc ≤ 5 →
    let k := s.ctx pos bits
    let rc := k.r o.r
    let rel := toBits 43 ((k.leaf : Int) + sext 20 (o.e1 * 1024 + o.e2))
    let link : Tagged := ⟨BitVec.ofNat 64 (k.leaf + 2), 5⟩
    (o.opc = 1 ∨ o.opc = 2 → rc.tag = 6) → (4 ≤ o.opc → rc.tag = 5) →
    Completes (.leafIssue ⟨pos, [], 0⟩) s fun t =>
      LeafOnly s t pos ∧ (t.coreAt pos).arch.spr = k.a.spr ∧ (t.coreAt pos).arch.hbc = k.a.hbc ∧ (t.coreAt pos).arch.loop0 = k.a.loop0 ∧
      (t.coreAt pos).arch.loop1 = k.a.loop1 ∧ (t.coreAt pos).arch.flow.pc = k.leaf + 1 ∧ (t.coreAt pos).arch.flow.exc = none ∧
      (∀ n, (t.coreAt pos).arch.reg n = if n = 30 ∧ (o.opc = 3 ∨ o.opc = 5) then link else k.a.reg n) ∧
      ((t.coreAt pos).arch.flow.br.map fun b => (b.leaf, b.target)) =
        some (k.leaf,
          if o.opc = 0 ∨ o.opc = 3 then some rel
          else if o.opc = 1 then (if rc.pay.getLsbD 0 then some rel else none)
          else if o.opc = 2 then (if rc.pay.getLsbD 0 then none else some rel)
          else some rc.pay.toNat)

/-- The choice of the leaf that follows leaf `l`. At the end of the body of the inner block repeat, while repetitions remain, the count falls by one and the program
goes back to LS1; at the last one the count falls to zero and the outer level, when it is active and ends at the same leaf, goes back to LS0; else the
program goes on behind the leaf. A level counts only at the privilege under which it was set. After the delay leaf of a branch that is taken the target follows.
LEAF_ISSUE of rpt0, rpt1, rpti0 and rpti1 loads its level: the body begins at the next leaf and is as long as the field says, the count is cut off at 32 bits, and the
privilege is the leaf's; a count of zero goes on behind the body, at the end of the other level's body too (the model's choice there, assumption log row 169). -/
def Obligations.BlockRepeatLoops : Prop :=
  (∀ (a : Arch) (priv : Bool) (l : Nat),
    let back (x : Loop) : Bool := decide (x.count ≠ 0) && decide (x.p = priv) && decide (x.le.pay.toNat = l)
    let down (x : Loop) : Loop := if back x then { x with count := x.count - 1 } else x
    let t := a.nextLeaf priv l none
    (back a.loop1 = true → 1 < a.loop1.count →
      t = { a with loop1 := down a.loop1, flow := { a.flow with pc := a.loop1.ls.pay.toNat % 2 ^ 43, br := none } }) ∧
    (back a.loop1 = false ∨ a.loop1.count = 1 → back a.loop0 = true → 1 < a.loop0.count →
      t = { a with loop1 := down a.loop1, loop0 := down a.loop0, flow := { a.flow with pc := a.loop0.ls.pay.toNat % 2 ^ 43, br := none } }) ∧
    (back a.loop1 = false ∨ a.loop1.count = 1 → back a.loop0 = false ∨ a.loop0.count = 1 →
      t = { a with loop1 := down a.loop1, loop0 := down a.loop0, flow := { a.flow with pc := (l + 1) % 2 ^ 43, br := none } }) ∧
    (∀ b x, b.target = some x → a.nextLeaf priv l (some b) = { a with flow := { a.flow with pc := x, br := none } })) ∧
  ∀ (s : State) (pos : Nat) (bits : BitVec 256) (o : Op), s.Before pos bits none → s.Single pos bits o → o.cls = 4 → 6 ≤ o.opc → o.opc ≤ 9 →
    let k := s.ctx pos bits
    let n := if o.opc ≤ 7 then (k.r o.r).pay.toNat else o.e2
    let code (x : Nat) : Tagged := ⟨BitVec.ofNat 64 (x % 2 ^ 43), 5⟩
    let level : Loop := { ls := code (k.leaf + 1), le := code (k.leaf + 1 + o.e1), p := k.priv, count := min n 0xFFFFFFFF }
    let next := (if o.opc % 2 = 0 then { k.a with loop0 := level } else { k.a with loop1 := level }).nextLeaf k.priv k.leaf none
    (o.opc ≤ 7 → isInt (k.r o.r).tag = true) →
    Completes (.leafIssue ⟨pos, [], 0⟩) s fun t =>
      let x := (t.coreAt pos).arch
      LeafOnly s t pos ∧ x.sregs = k.a.sregs ∧ x.spr = k.a.spr ∧ x.hbc = k.a.hbc ∧ x.loop0 = next.loop0 ∧ x.loop1 = next.loop1 ∧ x.flow.br = none ∧
      x.flow.exc = none ∧ x.flow.pc = if n = 0 then ((k.leaf + 1 + o.e1) % 2 ^ 43 + 1) % 2 ^ 43 else next.flow.pc

/-- LEAF_ISSUE of a scalar store to the core's own LDM through any window, of any size: the bytes of the register's payload stand at the address, a whole
word takes the register's tag and a part of a word tag 0xE; every other byte of LDM, tiers and host memory and every register reads as before. A store of any size to
the felt or the reel tier, cached or not, stores the payload bytes alone. -/
def Obligations.StoreLeafWritesLdm : Prop :=
  ∀ (s : State) (pos : Nat) (bits : BitVec 256) (br : Option BrCtx) (o : Op), s.Before pos bits br → s.Single pos bits o → isStore o = true →
    let k := s.ctx pos bits
    let a := k.memAddr o
    let n := memSize o.opc
    let v := k.r o.r
    (k.r (hi5 o.e1)).tag = 1 → a % n = 0 → s.rangeKind pos .write a = none →
    (o.opc = 0x10 ∨ o.opc = 0x11 → isInt v.tag = true) → (o.opc = 0x12 → isInt v.tag = true ∨ v.tag = 3) →
    (∀ off, s.locate (some pos) a = .ldm pos off →
      s.errAt (physBase + pos * 2 ^ 18 + off / 8 * 8) = 0 → (∀ u, s.errAt (cacheUnit u a) = 0) →
      Completes (.leafIssue ⟨pos, [], 0⟩) s fun t =>
        t = { s with csr := t.csr, cores := t.cores, clusters := t.clusters, mem := s.mem.noted t.mem } ∧
        SameRegs s t [Reg.coreLeaves pos, Reg.memPatmiss] ∧ SameCores s t [pos] ∧
        (t.coreAt pos).arch = { k.a with flow := (t.coreAt pos).arch.flow, loop0 := (t.coreAt pos).arch.loop0, loop1 := (t.coreAt pos).arch.loop1 } ∧
        (t.coreAt pos).work = (s.coreAt pos).work ∧ (t.coreAt pos).arch.flow.exc = none ∧ GoesOn k.a (t.coreAt pos).arch br ∧
        (∀ b, (t.coreAt pos).ldmByte b = if off ≤ b ∧ b < off + n then BitVec.ofNat 8 (v.pay.toNat / 256 ^ (b - off)) else (s.coreAt pos).ldmByte b) ∧
        (∀ i, (t.ldmWord pos i).tag = if i = off / 8 then (if n = 8 then v.tag else 0xE) else (s.ldmWord pos i).tag) ∧
        (∀ l, (∀ b, l ≠ .ldm pos b) → t.byteAt l = s.byteAt l)) ∧
    (s.InTiers a n → inCsr a = false → (∀ u, s.errAt u = 0) → (s.coreAt pos).caches.side = [] → (o.opc = 0x13 ∨ o.opc = 0x14 → v.tag ≠ 0xF) →
      Completes (.leafIssue ⟨pos, [], 0⟩) s fun t =>
        (t.coreAt pos).arch = { k.a with flow := (t.coreAt pos).arch.flow, loop0 := (t.coreAt pos).arch.loop0, loop1 := (t.coreAt pos).arch.loop1 } ∧
        (t.coreAt pos).work = (s.coreAt pos).work ∧ (t.coreAt pos).arch.flow.exc = none ∧ (t.coreAt pos).arch.flow.deferred = [] ∧
        GoesOn k.a (t.coreAt pos).arch br ∧ t.num none a n = v.pay.toNat % 256 ^ n ∧
        ∀ l, (∀ i, i < n → l ≠ .tier (a + i)) → t.byteAt l = s.byteAt l)

/-- LEAF_ISSUE of a scalar load from the core's own LDM, of any size and kind: the register takes the bytes sign- or zero-extended with the tag of the kind of load,
a ld.d the word with its stored tag; nothing of memory changes. An atomic on a word of the own LDM replaces it by the word that its opcode gives, with tag 0, and returns
the old word with tag 0. -/
def Obligations.LoadLeafReadsLdm : Prop :=
  ∀ (s : State) (pos : Nat) (bits : BitVec 256) (br : Option BrCtx) (o : Op) (off : Nat), s.Before pos bits br → s.Single pos bits o →
    let k := s.ctx pos bits
    let a := k.memAddr o
    let n := memSize o.opc
    let w := s.ldmWord pos (off / 8)
    let x := (w.pay.toNat >>> (8 * (off % 8))) % 2 ^ (8 * n)
    (k.r (hi5 o.e1)).tag = 1 → s.locate (some pos) a = .ldm pos off → ownLdm pos a = true → a % n = 0 →
    s.errAt (physBase + pos * 2 ^ 18 + off / 8 * 8) = 0 → (∀ u, s.errAt (cacheUnit u a) = 0) →
    (isLoad o = true → s.rangeKind pos .read a = none → (o.opc = 7 → w.tag = 2 ∨ w.tag = 0xE) → (o.opc = 8 → w.tag = 3 ∨ w.tag = 0xE) →
      Completes (.leafIssue ⟨pos, [], 0⟩) s fun t =>
        t = { s with csr := t.csr, cores := t.cores, clusters := t.clusters } ∧
        SameRegs s t [Reg.coreLeaves pos, Reg.memPatmiss] ∧ SameCores s t [pos] ∧ (t.coreAt pos).ldm = (s.coreAt pos).ldm ∧
        (t.coreAt pos).work = (s.coreAt pos).work ∧ (t.coreAt pos).arch.flow.exc = none ∧ GoesOn k.a (t.coreAt pos).arch br ∧
        (t.coreAt pos).arch = { k.a with
          sregs := (t.coreAt pos).arch.sregs, spr := { k.a.spr with ksp := (t.coreAt pos).arch.spr.ksp }, flow := (t.coreAt pos).arch.flow
          loop0 := (t.coreAt pos).arch.loop0, loop1 := (t.coreAt pos).arch.loop1 } ∧
        (∀ r, r ≠ regKey k.priv o.r → (t.coreAt pos).arch.reg r = k.a.reg r) ∧
        (t.coreAt pos).arch.reg (regKey k.priv o.r) =
          (if o.opc = 0 ∨ o.opc = 2 ∨ o.opc = 4 then ⟨wordOfInt (sext (8 * n) x), 0⟩
           else if o.opc = 1 ∨ o.opc = 3 ∨ o.opc = 5 then ⟨BitVec.ofNat 64 x, 0⟩
           else if o.opc = 7 then ⟨w.pay, 2⟩
           else if o.opc = 8 then ⟨BitVec.ofNat 64 x, 3⟩
           else w)) ∧
    (isAmo o = true → s.rangeKind pos .atomic a = none → isInt w.tag = true → isInt (k.r (lo5 o.e1)).tag = true →
      (o.opc = 0x1D → isInt (k.r (hi5 o.e2)).tag = true) →
      Completes (.leafIssue ⟨pos, [], 0⟩) s fun t =>
        let v := (k.r (lo5 o.e1)).pay
        let new :=
          if o.opc = 0x18 then w.pay + v else if o.opc = 0x19 then w.pay &&& v else if o.opc = 0x1A then w.pay ||| v else if o.opc = 0x1B then w.pay ^^^ v
          else if o.opc = 0x1C then v else if o.opc = 0x1D then (if w.pay = (k.r (hi5 o.e2)).pay then v else w.pay)
          else if o.opc = 0x1E then (if w.pay.toInt ≤ v.toInt then v else w.pay) else if w.pay.toInt ≤ v.toInt then w.pay else v
        (∀ i, t.ldmWord pos i = if i = off / 8 then ⟨new, 0⟩ else s.ldmWord pos i) ∧ (∀ l, (∀ b, l ≠ .ldm pos b) → t.byteAt l = s.byteAt l) ∧
        (t.coreAt pos).arch.reg (regKey k.priv o.r) = ⟨w.pay, 0⟩ ∧ (∀ r, r ≠ regKey k.priv o.r → (t.coreAt pos).arch.reg r = k.a.reg r) ∧
        SameRegs s t [Reg.coreLeaves pos, Reg.memPatmiss] ∧ SameCores s t [pos] ∧ (t.coreAt pos).work = (s.coreAt pos).work ∧
        (t.coreAt pos).arch.flow.exc = none ∧ GoesOn k.a (t.coreAt pos).arch br)

/-- LEAF_ISSUE of mtsr and mfsr, of the supervisor's registers in supervisor state and of the others in both: EVBA, KSP, DFSA and USP take the whole register with its
tag, EPC its low 43 bits, EPSR its fields but for the values that are not listed, a headbox counter the payload, VSTART its low 12 bits, the start and the end of a block
repeat an address with its tag, and its count 32 bits with the privilege of the writer; SFLAGS and VFLAGS lose the bits written as 1; TCFG takes its fields but for the values that are
not listed, and its tile is empty; MODE and PSR take their writable bits, and the former value governs the two leaves that follow. A write to a register that is read-only or
not listed changes nothing. mfsr returns what each holds, PSR with the pending interrupts. -/
def Obligations.SpecialRegisterMoves : Prop :=
  ∀ (s : State) (pos : Nat) (bits : BitVec 256) (o : Op), s.Before pos bits none → s.Single pos bits o → o.cls = 0xB →
    (s.coreAt pos).arch.priv = true ∨ 7 ≤ o.e1 →
    let k := s.ctx pos bits
    let v := k.r o.r
    let p := k.a.spr
    let addr : Tagged := ⟨v.pay &&& 0x7FFFFFFFFFF, v.tag⟩
    let level (x : Loop) (i : Nat) : Loop :=
      if i = 0 then { x with ls := addr } else if i = 1 then { x with le := addr } else { x with count := wfld v.pay 31 0, p := k.priv }
    (o.opc = 1 → v.tag ≠ 0xF → ¬(0x20 ≤ o.e1 ∧ o.e1 < 0x28) →
      Completes (.leafIssue ⟨pos, [], 0⟩) s fun t =>
        let x := (t.coreAt pos).arch
        LeafOnly s t pos ∧ (∀ n, n < 32 → (n = 31 → o.e1 ≠ 6) → x.reg n = k.a.reg n) ∧ (¬(0x40 ≤ o.e1 ∧ o.e1 < 0x48) → x.hbc = k.a.hbc) ∧
        (let l0 := if 0x30 ≤ o.e1 ∧ o.e1 < 0x33 then level k.a.loop0 (o.e1 - 0x30) else k.a.loop0
         let l1 := if 0x34 ≤ o.e1 ∧ o.e1 < 0x37 then level k.a.loop1 (o.e1 - 0x34) else k.a.loop1
         GoesOn { k.a with loop0 := l0, loop1 := l1 } x none) ∧
        (o.e1 = 0 → x.spr = { p with psr := (p.psr &&& ~~~0x3F03) ||| (v.pay &&& 0x3F03) } ∧ x.psrNow = p.psr ∧ (x.flow.shadow.map (·.cnt)) = some 2) ∧
        (o.e1 = 1 → x.spr = { p with epc := addr }) ∧
        (o.e1 = 2 → x.spr = { p with epsr := x.spr.epsr } ∧
          (let q := x.spr.epsr
           wfld q 2 0 = wfld v.pay 2 0 ∧ wfld q 7 3 = 0 ∧ wfld q 13 8 = wfld v.pay 13 8 ∧ wfld q 15 14 = 0 ∧ wfld q 23 20 = wfld v.pay 23 20 ∧ wfld q 63 24 = 0 ∧
           wfld q 17 16 = (if wfld v.pay 17 16 = 3 then wfld p.epsr 17 16 else wfld v.pay 17 16) ∧
           wfld q 19 18 = if wfld v.pay 19 18 = 3 then wfld p.epsr 19 18 else wfld v.pay 19 18)) ∧
        (o.e1 = 3 → x.spr = { p with evba := v }) ∧ (o.e1 = 4 → x.spr = { p with ksp := v }) ∧ (o.e1 = 5 → x.spr = { p with dfsa := v }) ∧
        (o.e1 = 6 → x.spr = p ∧ x.reg 31 = v) ∧
        (o.e1 = 8 → x.spr = { p with mode := v.pay &&& 0xFF } ∧ x.modeNow = p.mode ∧ (x.flow.shadow.map (·.cnt)) = some 2) ∧
        (o.e1 = 9 → x.spr = { p with sflags := (p.sflags &&& ~~~v.pay) &&& 0x1F }) ∧
        (o.e1 = 0x10 → x.spr = { p with vstart := v.pay &&& 0xFFF }) ∧ (o.e1 = 0x11 → x.spr = { p with vflags := (p.vflags &&& ~~~v.pay) &&& 0x1F }) ∧
        (∀ c, c < 8 → o.e1 = 0x40 + c →
          x.spr = p ∧ ∀ i, Sparse.get zeroWord x.hbc i = if i = c then v.pay else Sparse.get zeroWord k.a.hbc i) ∧
        (o.e1 = 7 ∨ (0xA ≤ o.e1 ∧ o.e1 < 0x10) ∨ (0x12 ≤ o.e1 ∧ o.e1 < 0x40) ∨ 0x48 ≤ o.e1 → x.spr = p ∧ x.sregs = k.a.sregs)) ∧
    (∀ c, c < 8 → o.opc = 1 → o.e1 = 0x20 + c → v.tag ≠ 0xF →
      Completes (.leafIssue ⟨pos, [], 0⟩) s fun t =>
        let x := (t.coreAt pos).arch
        let q := x.tcfgAt c
        t = { s with csr := t.csr, cores := t.cores } ∧ SameRegs s t [Reg.coreLeaves pos] ∧ SameCores s t [pos] ∧ (t.coreAt pos).ldm = (s.coreAt pos).ldm ∧
        x = { k.a with tcfg := x.tcfg, tiles := x.tiles, flow := x.flow, loop0 := x.loop0, loop1 := x.loop1 } ∧ GoesOn k.a x none ∧
        tcRows q = (if wfld v.pay 21 16 ≤ 32 then wfld v.pay 21 16 else tcRows (k.a.tcfgAt c)) ∧
        tcFmt q = (if wfld v.pay 3 0 ≤ 6 then wfld v.pay 3 0 else tcFmt (k.a.tcfgAt c)) ∧ wfld q 11 8 = wfld v.pay 11 8 ∧ tcState q = false ∧ x.tile c = 0 ∧
        ∀ j, j ≠ c → x.tcfgAt j = k.a.tcfgAt j ∧ x.tile j = k.a.tile j) ∧
    (o.opc = 0 →
      Completes (.leafIssue ⟨pos, [], 0⟩) s fun t =>
        LeafOnly s t pos ∧ (t.coreAt pos).arch.hbc = k.a.hbc ∧ (∀ n, n ≠ regKey k.priv o.r → (t.coreAt pos).arch.reg n = k.a.reg n) ∧
        (t.coreAt pos).arch.spr = { p with ksp := (t.coreAt pos).arch.spr.ksp } ∧ GoesOn k.a (t.coreAt pos).arch none ∧
        (let r := (t.coreAt pos).arch.reg (regKey k.priv o.r)
         let plain (w : Word) : Tagged := ⟨w, 0⟩
         let level (x : Loop) (i : Nat) : Tagged := if i = 0 then x.ls else if i = 1 then x.le else plain (BitVec.ofNat 64 (x.count + if x.p then 2 ^ 63 else 0))
         (o.e1 = 0 → r.tag = 0 ∧ wfld r.pay 21 16 = s.pendingInts pos ∧ wfld r.pay 15 0 = wfld p.psr 15 0) ∧
         (o.e1 = 1 → r = p.epc) ∧ (o.e1 = 2 → r = plain p.epsr) ∧ (o.e1 = 3 → r = p.evba) ∧ (o.e1 = 4 → r = p.ksp) ∧ (o.e1 = 5 → r = p.dfsa) ∧
         (o.e1 = 6 → r = k.a.reg 31) ∧ (o.e1 = 8 → r = plain p.mode) ∧ (o.e1 = 9 → r = plain p.sflags) ∧ (o.e1 = 0x10 → r = plain p.vstart) ∧
         (o.e1 = 0x11 → r = plain p.vflags) ∧ (∀ c, c < 8 → o.e1 = 0x20 + c → r = plain (k.a.tcfgAt c)) ∧
         (∀ i, i < 3 → (o.e1 = 0x30 + i → r = level k.a.loop0 i) ∧ (o.e1 = 0x34 + i → r = level k.a.loop1 i)) ∧
         (∀ c, c < 8 → o.e1 = 0x40 + c → r = plain (Sparse.get zeroWord k.a.hbc c)) ∧
         (o.e1 = 0x80 → r = plain (BitVec.ofNat 64 (s.cycles (pos / 13)))) ∧ (o.e1 = 0x81 → r = plain (BitVec.ofNat 64 (s.lcidOf pos))) ∧
         (o.e1 = 7 ∨ (0xA ≤ o.e1 ∧ o.e1 < 0x10) ∨ (0x12 ≤ o.e1 ∧ o.e1 < 0x20) ∨ (0x28 ≤ o.e1 ∧ o.e1 < 0x30) ∨ o.e1 = 0x33 ∨ (0x37 ≤ o.e1 ∧ o.e1 < 0x40) ∨
           (0x48 ≤ o.e1 ∧ o.e1 < 0x80) ∨ 0x82 ≤ o.e1 → r = plain 0)))

/-- LEAF_ISSUE of svc and brk: the leaf completes and its trap stands before the core with the call or break code, to be taken with the next leaf as EPC; a halt leaf in supervisor
state stops issue. A fence with nothing in flight and a couchpt that no request waits for only advance the program; a headbox fence waits while a transfer of the logical core is not
complete. psinv empties the program store. cmo changes no register and no byte; after clean by address the core's L1 and its L2 hold the line clean, and after clean and
invalidate they do not hold it. -/
def Obligations.TrapAndHaltLeaves : Prop :=
  ∀ (s : State) (pos : Nat) (bits : BitVec 256), s.Before pos bits none → s.groupStop = [] → (s.cluAt (pos / 13)).couch = none →
    let k := s.ctx pos bits
    (∀ o, s.Single pos bits o → o.cls = 4 → o.opc = 0x0A ∨ o.opc = 0x0B →
      Completes (.leafIssue ⟨pos, [], 0⟩) s fun t =>
        LeafOnly s t pos ∧ (∀ n, (t.coreAt pos).arch.reg n = k.a.reg n) ∧ (t.coreAt pos).arch.spr = k.a.spr ∧
        (t.coreAt pos).arch.hbc = k.a.hbc ∧ GoesOn k.a (t.coreAt pos).arch none ∧
        (t.coreAt pos).arch.flow.exc.map (fun e => (e.code, e.info, e.next)) = some (if o.opc = 0x0A then 0x0F else 0x0E, o.e1, true)) ∧
    (k.priv = true → (decodeLeaf k.priv bits).viols = [] → (decodeLeaf k.priv bits).halt = true → (decodeLeaf k.priv bits).ops = [] →
      Completes (.leafIssue ⟨pos, [], 0⟩) s fun t =>
        t.stateOf pos = 2 ∧ GoesOn k.a (t.coreAt pos).arch none ∧ (∀ n, (t.coreAt pos).arch.reg n = k.a.reg n) ∧
        t.raw (Reg.coreLeaves pos) = s.raw (Reg.coreLeaves pos) + 1 ∧ SameRegs s t [Reg.coreLeaves pos, Reg.coreState pos] ∧ SameCores s t [pos] ∧
        (t.coreAt pos).ldm = (s.coreAt pos).ldm ∧ t = { s with csr := t.csr, cores := t.cores }) ∧
    (∀ o, s.Single pos bits o → o.cls = 0xB →
      (o.opc = 3 ∨ (o.opc = 2 ∧ (o.e1 = 3 → s.transfersOf (s.lcidOf pos) = false)) →
        Completes (.leafIssue ⟨pos, [], 0⟩) s fun t =>
          LeafOnly s t pos ∧ (∀ n, (t.coreAt pos).arch.reg n = k.a.reg n) ∧ (t.coreAt pos).arch.spr = k.a.spr ∧
          (t.coreAt pos).arch.hbc = k.a.hbc ∧ (t.coreAt pos).arch.flow.exc = none ∧ GoesOn k.a (t.coreAt pos).arch none) ∧
      (o.opc = 2 → o.e1 = 3 → s.transfersOf (s.lcidOf pos) = true → exec (.leafIssue ⟨pos, [], 0⟩) s = .next (s.bump (Reg.coreStalls pos) 1)) ∧
      (o.opc = 5 → k.priv = true →
        Completes (.leafIssue ⟨pos, [], 0⟩) s fun t =>
          let x := (t.coreAt pos).arch
          t = { s with csr := t.csr, cores := t.cores } ∧ SameRegs s t [Reg.coreLeaves pos] ∧ SameCores s t [pos] ∧
          x = { k.a with flow := x.flow, loop0 := x.loop0, loop1 := x.loop1 } ∧ GoesOn k.a x none ∧
          t.coreAt pos = { s.coreAt pos with
            arch := x, caches := { (s.coreAt pos).caches with ps := [], psFills := [], psRetry := none, psBad := [] } }) ∧
      (o.opc = 4 → (∀ u, s.errAt u = 0) →
        let c := o.e1 % 16
        let a := (k.r o.r).pay.toNat
        (8 ≤ c → k.priv = true) → (c ≤ 4 → isAddr1 (k.r o.r).tag = true) → (8 ≤ c → c ≤ 0xB → isInt (k.r o.r).tag = true) → (c = 0xC → isCode (k.r o.r).tag = true) →
        (c ≤ 1 → inCsr a = false ∧ s.rangeKind pos .read a = none) →
        Completes (.leafIssue ⟨pos, [], 0⟩) s fun t =>
          let x := (t.coreAt pos).arch
          SameBytes s t ∧ x = { k.a with flow := x.flow, loop0 := x.loop0, loop1 := x.loop1 } ∧ GoesOn k.a x none ∧ x.flow.exc = none ∧
          (t.coreAt pos).work = (s.coreAt pos).work ∧
          (c ≤ 1 → s.cacheKind pos a ≠ 0 → t.l1Dirty pos (a / 64) = false ∧ t.l2Dirty (pos / 13) (a / 128) = false) ∧
          (c = 1 → s.cacheKind pos a ≠ 0 →
            (t.coreAt pos).caches.l1Has (a / 64) = false ∧ (t.coreAt pos).caches.side.contains (a / 64) = false ∧
            (t.cluAt (pos / 13)).l2Has (a / 128) = false)))

/-! ### Exceptions -/

/-- EXCEPTION_ENTRY with a supervisor stack in the core's own LDM, a valid handler table and the handler's first leaf in the program store, for any fault, trap or
interrupt that the core would take with nothing in flight: the frame stands below KSP, KSP falls by 64, EPC and EPSR take the frame's words, the core runs in
supervisor state with interrupts disabled at the handler, the shadow has ended, and nothing else of registers and memory changes. -/
def Obligations.ExceptionEntryTaken : Prop :=
  ∀ (s : State) (pos slices rows off h : Nat) (e : Exc) (b : BitVec 256), pos < 1300 → s.Calm → (∀ u, s.errAt u = 0) → s.stateOf pos = 1 ∨ s.stateOf pos = 2 →
    let a := (s.coreAt pos).arch
    let v := a.spr.ksp.pay.toNat
    let fr := a.frame e 0
    (s.coreAt pos).work.loads = [] → (s.coreAt pos).work.vq = [] → (s.coreAt pos).work.tq = [] → a.flow.atCouch = false → a.flow.ctlOnly = none →
    a.flow.resume = none → s.chosen pos = some e → e.deferred = false → e.hbk = [] → wfld a.spr.psr 2 2 = 0 →
    a.spr.ksp.tag = 1 → v < 2 ^ 48 → v % 64 = 0 → 64 ≤ v → s.locate (some pos) (v - 64) = .ldm pos off → ownLdm pos (v - 64) = true →
    s.checkPage (some (pos / 13)) (some pos) .write (v - 64) = none → s.handler pos e.code = some h →
    (s.coreAt pos).caches.psLeaf h = some b → parityOk b.toNat = true →
    Completes (.exceptionEntry pos ⟨slices, rows⟩) s fun t =>
      let x := (t.coreAt pos).arch
      x.flow.pc = h ∧ x.flow.br = none ∧ x.flow.shadow = none ∧ x.flow.exc = none ∧ x.flow.str = none ∧ t.stateOf pos = 1 ∧
      x.spr = { a.spr with
        ksp := ⟨a.spr.ksp.pay - 64, 1⟩, epc := ⟨(fr.getD 0 emptyTagged).pay &&& 0x7FFFFFFFFFF, 5⟩, epsr := (fr.getD 1 emptyTagged).pay
        psr := (a.spr.psr ||| 1) &&& ~~~2 } ∧
      (∀ i, i < 8 → t.ldmWord pos (off / 8 + i) = fr.getD i emptyTagged) ∧
      (∀ i, i < off / 8 ∨ off / 8 + 8 ≤ i → t.ldmWord pos i = s.ldmWord pos i) ∧
      x = { a with spr := x.spr, flow := x.flow } ∧ SameCores s t [pos] ∧ (∀ l, (∀ o, l ≠ .ldm pos o) → t.byteAt l = s.byteAt l) ∧
      SameRegs s t [Reg.coreIllegal pos, Reg.coreTagflt pos, Reg.coreState pos, Reg.memPatmiss] ∧
      t.raw (Reg.coreIllegal pos) = s.raw (Reg.coreIllegal pos) + (if e.code = 1 then 1 else 0) ∧
      t.raw (Reg.coreTagflt pos) = s.raw (Reg.coreTagflt pos) + (if e.code = 4 then 1 else 0)

/-- The frame's words: EPC is the leaf to resume at with tag 5, the branch leaf while its delay leaf has not completed; EPSR holds PRIV, IE, DF and IM as they govern,
the shadow, PEND and DS; SYND the code, syllable, register, kind and information; then ADDR, the shadow's values, BRSRC with its tag, and FLEAF. -/
def Obligations.FrameHoldsState : Prop :=
  ∀ (a : Arch) (e : Exc) (pend : Nat), a.flow.ctlOnly = none → pend < 8 → e.code < 64 → e.syl < 32 → e.kind < 256 → e.info < 1024 → e.reg < 32 →
    (∀ h, a.flow.shadow = some h → h.cnt < 3 ∧ h.reg < 3) →
    let f := a.frame e pend
    let w (i : Nat) : Word := (f.getD i emptyTagged).pay
    f.length = 8 ∧ (f.getD 0 emptyTagged).tag = 5 ∧ (∀ i, 1 ≤ i → i < 8 → i ≠ 6 → (f.getD i emptyTagged).tag = 0) ∧
    w 0 = BitVec.ofNat 64 (match a.flow.br with | some b => b.leaf | none => a.flow.pc) ∧
    wfld (w 1) 0 0 = wfld a.psrNow 0 0 ∧ wfld (w 1) 1 1 = wfld a.psrNow 1 1 ∧ wfld (w 1) 2 2 = wfld a.psrNow 2 2 ∧ wfld (w 1) 13 8 = wfld a.psrNow 13 8 ∧
    wfld (w 1) 22 20 = pend ∧ wfld (w 1) 23 23 = (if a.flow.br.isSome then 1 else 0) ∧ wfld (w 1) 63 24 = 0 ∧
    wfld (w 1) 17 16 = (match a.flow.shadow with | some h => h.cnt | none => 0) ∧ wfld (w 1) 19 18 = (match a.flow.shadow with | some h => h.reg | none => 0) ∧
    wfld (w 2) 7 0 = e.code ∧ wfld (w 2) 12 8 = e.syl ∧ wfld (w 2) 20 16 = e.reg ∧ wfld (w 2) 31 24 = e.kind ∧ wfld (w 2) 41 32 = e.info ∧
    wfld (w 2) 13 13 = (if e.deferred then 1 else 0) ∧ w 3 = e.addr ∧
    w 4 = (match a.flow.shadow with | some h => h.hold | none => 0) ∧ w 5 = (match a.flow.shadow with | some h => h.new | none => 0) ∧
    f.getD 6 emptyTagged = (match a.flow.br with | some b => b.src | none => ⟨0, 0⟩) ∧ w 7 = BitVec.ofNat 64 e.fleaf

/-- LEAF_ISSUE of rfe with a frame that passes the checks: outside the double-fault handler the frame lies at KSP, and KSP rises by 64; in the handler it lies at DFSA, KSP stays, and
s0 to s7 take the words of the save area. PRIV, IE and IM take the frame's bits and DF ends, the program goes on at the frame's EPC, finishing the operations in PEND, or
repeating a branch when DS = 1; a shadow of the frame is in force again with its values. -/
def Obligations.RfeRestores : Prop :=
  ∀ (s : State) (pos : Nat) (bits : BitVec 256) (o : Op), s.Before pos bits none → s.Single pos bits o → o.cls = 4 → o.opc = 0x0C → (∀ u, s.errAt u = 0) →
    let k := s.ctx pos bits
    let df := decide (wfld k.a.spr.psr 2 2 = 1)
    let base := if df then k.a.spr.dfsa.pay.toNat else k.a.spr.ksp.pay.toNat
    let w (i : Nat) : Tagged := s.readWord pos (base + 8 * i)
    let q := (w 1).pay
    k.priv = true → s.rfeFault pos (32 * k.leaf) = none →
    Completes (.leafIssue ⟨pos, [], 0⟩) s fun t =>
      let x := (t.coreAt pos).arch
      PagedLeaf s t pos ∧ x.hbc = k.a.hbc ∧ x.loop0 = k.a.loop0 ∧ x.loop1 = k.a.loop1 ∧
      (∀ n, n < 32 → x.reg n = if df ∧ n < 8 then w (12 + n) else k.a.reg n) ∧
      x.flow.pc = (w 0).pay.toNat ∧ x.flow.br = none ∧ x.flow.exc = none ∧
      x.spr.ksp = (if df then k.a.spr.ksp else ⟨k.a.spr.ksp.pay + 64, k.a.spr.ksp.tag⟩) ∧ x.spr.epc = k.a.spr.epc ∧ x.spr.epsr = k.a.spr.epsr ∧
      x.spr.evba = k.a.spr.evba ∧ x.spr.dfsa = k.a.spr.dfsa ∧ x.spr.sflags = k.a.spr.sflags ∧ x.spr.vstart = k.a.spr.vstart ∧ x.spr.vflags = k.a.spr.vflags ∧
      x.flow.resume = (if wfld q 23 23 = 0 ∧ wfld q 22 20 ≠ 0 then some (wfld q 22 20) else none) ∧
      x.flow.ctlOnly = (if wfld q 23 23 = 1 then some (w 6, wfld q 22 20) else none) ∧
      (wfld q 19 18 = 0 → x.spr.mode = k.a.spr.mode ∧ x.flow.shadow = none) ∧
      (wfld q 19 18 ≠ 2 → x.spr.psr = BitVec.ofNat 64 (wfld q 0 0 + 2 * wfld q 1 1 + 256 * wfld q 13 8)) ∧
      (wfld q 19 18 ≠ 0 → wfld q 17 16 ≠ 0 → x.flow.shadow = some ⟨wfld q 19 18, wfld q 17 16, (w 4).pay, (w 5).pay⟩) ∧
      (wfld q 19 18 = 1 → x.spr.mode = (w 5).pay &&& 0xFF) ∧ (wfld q 19 18 = 2 → x.spr.psr = (w 5).pay &&& 0x3F03)

/-- EXCEPTION_ENTRY while PSR.DF = 1 is a third fault: the position is held with its registers as after reset and its LDM as it stands (the model's choice, assumption log row 59), class 0x0B
is posted, its slot has no position and waits for the spare, its test is due, and the other positions keep what they hold. SPARE_TAKEOVER: the idle spare takes the slot that
waits first by reset entry with s0 = 2, over an LDM of zero words with tag 0xF, at CLU.RSTPC with the reset base in EVBA; it runs, backs the slot and is no spare any more, also
while its branch group is being stopped (the model's choice, row 136). A couch that was to take that spare is over (the model's choice, row 188). -/
def Obligations.ThirdFaultAndTakeover : Prop :=
  (∀ (s : State) (pos slices rows : Nat) (e : Exc), pos < 1300 → s.Calm → (∀ u, s.errAt u = 0) → s.stateOf pos = 1 → Sparse.wf coreReset s.cores = true →
     let a := (s.coreAt pos).arch
     let c := pos / 13
     let i := s.lcidOf pos
     (s.coreAt pos).work = Work.reset → a.flow.atCouch = false → a.flow.ctlOnly = none → a.flow.resume = none → s.chosen pos = some e →
     e.deferred = false → e.hbk = [] → wfld a.spr.psr 2 2 = 1 → i / 12 = c → (s.cluAt c).couch = none →
     Completes (.exceptionEntry pos ⟨slices, rows⟩) s fun t =>
       t.stateOf pos = 5 ∧ (t.coreAt pos).arch = Arch.reset ∧ (t.coreAt pos).work = Work.reset ∧ (t.coreAt pos).ldm = (s.coreAt pos).ldm ∧
       t.lcidOf pos = 0x7FF ∧ t.posOf i = none ∧ (t.cluAt c).takeover = (s.cluAt c).takeover ++ [(i % 12, pos % 13, s.cycles c)] ∧
       (t.cluAt c).rot.due.any (fun d => d.1 == pos) = true ∧ t.raw Reg.relEvhead = s.raw Reg.relEvhead + 1 ∧
       wfld (t.raw (Reg.relRing ((s.raw Reg.relEvhead).toNat % 1024) 0)) 15 0 = 0x30B ∧
       (∀ p, p ≠ pos → (t.coreAt p).arch = (s.coreAt p).arch ∧ (t.coreAt p).ldm = (s.coreAt p).ldm)) ∧
  (∀ (s : State) (c slot p since q : Nat) (rest : List (Nat × Nat × Nat)), c < 100 → slot < 12 → s.waits = [] → (s.cluAt c).takeover = (slot, p, since) :: rest →
     s.spareOf c = some q → (s.coreAt q).work.hbq = [] → s.begunOf (12 * c + slot) = false → s.fab.recvWait = [] → Sparse.wf coreReset s.cores = true →
     Completes (.spareTakeover c) s fun t =>
       t.stateOf q = 1 ∧ t.lcidOf q = 12 * c + slot ∧ t.posOf (12 * c + slot) = some q ∧ t.isSpare q = false ∧ (t.cluAt c).takeover = rest ∧
       (t.coreAt q).ldm = [] ∧ (t.coreAt q).work.vq = [] ∧ (t.coreAt q).work.loads = [] ∧
       (∀ n, (t.coreAt q).arch.reg n = if n = 0 then ⟨2, 0⟩ else emptyTagged) ∧
       (t.coreAt q).arch.flow.pc = s.fld (Reg.cluRstpc c) 42 0 ∧
       (t.coreAt q).arch.spr = { Spr.reset with evba := ⟨BitVec.ofNat 64 (s.fld (Reg.cluRstevba c) 47 0), 1⟩ } ∧
       t.raw Reg.relEvhead = s.raw Reg.relEvhead + 1 ∧ ∀ r, (s.cluAt c).couch = some r → r.target = q % 13 → (t.cluAt c).couch = none)

/-- TIMER_COMPARE: afterwards the cluster's cycle counter has reached the slot's compare value, and the timer interrupt pends at the position that backs the slot; only time passes. That
the command lets the clock run on to the compare value is the model's choice (assumption log row 54). -/
def Obligations.TimerPends : Prop :=
  ∀ (s : State) (c slot pos : Nat), c < 100 → slot < 12 → s.waits = [] → pos / 13 = c → s.lcidOf pos = 12 * c + slot →
    Completes (.timerCompare c slot) s fun t =>
      t = { s with sys := { s.sys with time := t.sys.time } } ∧ s.sys.time ≤ t.sys.time ∧ (s.cur (Reg.cluTcmp c slot)).toNat ≤ t.cycles c ∧
      (t.pendingInts pos).testBit 0 = true

/-! ### Program store, loads, strings, headbox -/

/-- PROGRAM_STORE_FILL of a whole line whose page may be executed and whose bytes are sound: afterwards the program store holds the four leaves of the line as memory holds
them, and the fill has ended. -/
def Obligations.ProgramStoreFills : Prop :=
  ∀ (s : State) (pos : Nat) (f : PsFill) (rest : List PsFill), pos < 1300 → s.Calm → (∀ u, s.errAt u = 0) →
    let x := (s.coreAt pos).caches
    x.psFills = f :: rest → f.single = false → x.psFind f.line = none →
    (∀ i, i < 4 → s.checkPage (some (pos / 13)) (some pos) .fetch (32 * (4 * f.line + i)) = none) →
    Completes (.programStoreFill pos) s fun t =>
      (t.coreAt pos).caches.psFills = rest ∧
      (∀ i, i < 4 → (t.coreAt pos).caches.psLeaf (4 * f.line + i) = some (BitVec.ofNat 256 (s.num none (128 * f.line + 32 * i) 32))) ∧
      t = { s with cores := t.cores, mem := { s.mem with bankq := t.mem.bankq } } ∧ SameCores s t [pos] ∧ (t.coreAt pos).arch = (s.coreAt pos).arch ∧
      (t.coreAt pos).work = (s.coreAt pos).work ∧ (t.coreAt pos).ldm = (s.coreAt pos).ldm

/-- LOAD_RETURN: sound data of an outstanding load or atomic reaches its register and no byte of memory changes; the value is the one that memory held at issue (the model's choice, assumption
log row 40). Data that cannot be corrected writes payload 0 with tag 0xF and leaves a deferred 0x0C that names the load's leaf, register and address, also when its unit has been written anew since;
an atomic, which has written its word at issue (the model's choice, row 65), then leaves the word as it was before. A load whose request waits in a replay queue does not return. -/
def Obligations.LoadReturnWritesRegister : Prop :=
  ∀ (s : State) (pos idx : Nat) (l : OutLoad), pos < 1300 → (s.coreAt pos).work.loads[idx]? = some l →
    let w := (s.coreAt pos).work
    let f := (s.coreAt pos).arch.flow
    let fails (t : State) : Prop :=
      (t.coreAt pos).arch.reg l.reg = emptyTagged ∧ (∀ r, r ≠ l.reg → (t.coreAt pos).arch.reg r = (s.coreAt pos).arch.reg r) ∧
      (t.coreAt pos).work = { w with loads := dropAt w.loads idx } ∧
      (t.coreAt pos).arch.flow = { f with deferred := f.deferred ++
        [{ code := 0x0C, kind := 1, syl := 0x1F, reg := if l.reg = 32 then 31 else l.reg, info := 0, addr := BitVec.ofNat 64 l.addr, next := true
           deferred := true, fleaf := l.leaf, hbk := [], xid := 0 }] }
    (s.waits = [] → s.replaying l.req = true → ∀ err, exec (.loadReturn pos idx err) s = .next s) ∧
    (s.Calm → (∀ u, s.errAt u = 0) →
      (s.hif.linkUp = true → l.bad = false →
        Completes (.loadReturn pos idx (.unit .good)) s fun t =>
          (t.coreAt pos).arch = (s.coreAt pos).arch.setReg l.reg l.val ∧ (t.coreAt pos).work = { w with loads := dropAt w.loads idx } ∧ SameBytes s t ∧
          t = { s with csr := t.csr, cores := t.cores, clusters := t.clusters, mem := s.mem.noted t.mem } ∧ (∀ p, p ≠ pos → (t.coreAt p).arch = (s.coreAt p).arch)) ∧
      (l.bad = true → Completes (.loadReturn pos idx (.unit .good)) s fun t => fails t ∧ SameBytes s t) ∧
      ((∃ x, s.locate (some pos) l.addr = .tier x) → s.held (some pos) l.addr = false → 0 < l.size →
        Completes (.loadReturn pos idx (.unit .uncorrectable)) s fun t =>
          fails t ∧ (l.amo = false ∨ l.bad = true → SameBytes s t) ∧
          (l.amo = true → l.bad = false → s.InTiers l.addr 8 →
            t.num none l.addr 8 = l.val.pay.toNat ∧ ∀ x, (∀ i, i < 8 → x ≠ .tier (l.addr + i)) → t.byteAt x = s.byteAt x)))

/-- STRING_STEP in the core's own LDM, for all three operations: one step covers the bytes up to the next 64-byte boundary of rt, at most the count in rc; rt rises and rc falls by as many; sfill
stores the low byte of rs, smov between places that do not overlap copies and raises rs too, and sscan stops at the first byte that equals the low byte of rs. Other bytes and other
registers stay. -/
def Obligations.StringStepAdvances : Prop :=
  ∀ (s : State) (pos : Nat) (o : StrOp) (off src : Nat), pos < 1300 → s.Calm → s.stateOf pos = 1 → (∀ u, s.errAt u = 0) →
    let a := (s.coreAt pos).arch
    let f := a.flow
    let rt := a.reg o.rt
    let rs := a.reg o.rs
    let rc := a.reg o.rc
    let n := min rc.pay.toNat (64 - rt.pay.toNat % 64)
    f.str = some o → f.exc = none → f.deferred = [] → s.allowedInt pos = none → s.stepFaults pos o = [] → 0 < rc.pay.toNat →
    0x0C ≤ o.op → o.op ≤ 0x0E → o.rt ≠ o.rs → o.rt ≠ o.rc → o.rs ≠ o.rc →
    (∀ i, i < n → s.locate (some pos) (rt.pay.toNat + i) = .ldm pos (off + i)) →
    (o.op = 0x0C → (∀ i, i < n → s.locate (some pos) (rs.pay.toNat + i) = .ldm pos (src + i)) ∧ (off + n ≤ src ∨ src + n ≤ off)) →
    let hit := if o.op = 0x0E then (upto n).find? fun i => (s.coreAt pos).ldmByte (off + i) = BitVec.setWidth 8 rs.pay else none
    let k := hit.getD n
    Completes (.stringStep pos) s fun t =>
      let x := (t.coreAt pos).arch
      x.reg o.rt = ⟨rt.pay + BitVec.ofNat 64 k, rt.tag⟩ ∧ x.reg o.rc = ⟨rc.pay - BitVec.ofNat 64 k, rc.tag⟩ ∧
      x.reg o.rs = (if o.op = 0x0C then ⟨rs.pay + BitVec.ofNat 64 k, rs.tag⟩ else rs) ∧
      (∀ r, r ≠ o.rt → r ≠ o.rc → r ≠ o.rs → x.reg r = a.reg r) ∧
      (∀ b, (t.coreAt pos).ldmByte b =
        if o.op = 0x0E ∨ b < off ∨ off + n ≤ b then (s.coreAt pos).ldmByte b
        else if o.op = 0x0D then BitVec.setWidth 8 rs.pay else (s.coreAt pos).ldmByte (src + (b - off))) ∧
      (∀ l, (∀ b, l ≠ .ldm pos b) → t.byteAt l = s.byteAt l) ∧ x.flow.exc = none ∧
      (if hit.isSome ∨ rc.pay.toNat = n then x.flow.str = none ∧ GoesOn a x f.br else x.flow = f)

/-- HEADBOX_TRANSFER_COMPLETE of a copy of one row without watermark checks: each destination byte is its source byte as it stood before the transfer (where a transfer overlaps itself, the
model's choice, assumption log row 137), every byte outside the destination stays, the transfer leaves the headbox and its counter rises by one. -/
def Obligations.HeadboxCopyCompletes : Prop :=
  ∀ (s : State) (pos idx : Nat) (x : Xfer), pos < 1300 → s.Calm → (∀ i, s.handover i = false) → (∀ u, s.errAt u = 0) → s.hif.linkUp = true →
    (s.coreAt pos).work.hbq[idx]? = some x → s.xferFor x.xid = some (pos, x) → Sparse.wf coreReset s.cores = true →
    x.kind = 0 → x.wm = false → x.rows = 1 → x.bad = false → x.lcid < 1200 → s.posOf x.lcid = some pos → x.k < 8 → x.src + x.rowlen < 2 ^ 48 → x.dst + x.rowlen < 2 ^ 48 →
    (∀ i, i < x.rowlen → (∃ a, s.locate none (x.src + i) = .tier a) ∨ ∃ p o, s.locate none (x.src + i) = .ldm p o) →
    (∀ i, i < x.rowlen → ∃ a, s.locate none (x.dst + i) = .tier a) →
    Completes (.headboxTransferComplete pos idx) s fun t =>
      (∀ i, i < x.rowlen → t.byte none (x.dst + i) = s.byte none (x.src + i)) ∧
      (∀ l, (∀ i, i < x.rowlen → l ≠ s.locate none (x.dst + i)) → t.byteAt l = s.byteAt l) ∧
      (t.coreAt pos).work.hbq = (s.coreAt pos).work.hbq.filter (fun y => y.xid != x.xid) ∧
      (∀ k, Sparse.get zeroWord (t.coreAt pos).arch.hbc k = Sparse.get zeroWord (s.coreAt pos).arch.hbc k + (if k = x.k then 1 else 0)) ∧
      (t.coreAt pos).arch.sregs = (s.coreAt pos).arch.sregs ∧ (t.coreAt pos).arch.flow = (s.coreAt pos).arch.flow

/-- VECTOR_OP_COMPLETE of the operation at the front. An element-wise arithmetic operation, also one of twice the width and the dot products: every active element takes the operation's value from
the registers as they stood, every other element of every register keeps its value, the flags join VFLAGS, VSTART is zero, and the operation leaves the queue. A compare or a mask operation writes its
mask bit by bit. The whole operations: mpop counts and mfirst finds, vext takes one element out, an integer vredsum is the sum modulo the element size and an integer vredmm the extreme element,
vcompress and vexpand move the active elements in ascending order. A vector load from the own LDM and the tiers takes each active element from its address; a store writes each active
element's bytes and no other byte, vstm whole bytes from the one that holds VSTART (the model's choice for its first byte, assumption log row 176). -/
def Obligations.VectorElementsComplete : Prop :=
  ∀ (s : State) (pos : Nat) (j : VJob) (rest : List VJob), pos < 1300 → s.waits = [] →
    let a := (s.coreAt pos).arch
    let queue := { (s.coreAt pos).work with vq := rest }
    let own (t : State) : Prop :=
      (t.coreAt pos).work = queue ∧ t = { s with cores := t.cores } ∧ SameCores s t [pos] ∧ (t.coreAt pos).ldm = (s.coreAt pos).ldm
    let flags (x : Arch) : Prop := x.spr = { a.spr with vstart := 0, vflags := x.spr.vflags }
    (s.coreAt pos).work.vq = j :: rest → j.cut = j.n → j.start < j.n →
    (j.mem = false → j.whole = false → j.maskDst = false → j.ratio = 1 → j.dsz ∈ [8, 16, 32, 64] → j.vd < 32 → j.n * j.dsz ≤ 4096 * (32 - j.vd) →
      Completes (.vectorOpComplete pos none) s fun t =>
        let x := (t.coreAt pos).arch
        (∀ i, i * j.dsz < 4096 * (32 - j.vd) → x.vEl j.vd j.dsz i = if j.active a i then (j.value a i).1 % 2 ^ j.dsz else a.vEl j.vd j.dsz i) ∧
        (∀ r, r < j.vd → x.vreg r = a.vreg r) ∧ x = { a with vregs := x.vregs, spr := x.spr } ∧ flags x ∧
        (x.spr.vflags = ((upto (j.n - j.start)).foldl (fun w k => if j.active a (j.start + k) then orFlags w (j.value a (j.start + k)).2 else w) (orFlags a.spr.vflags j.sbFlags))) ∧
        own t) ∧
    (j.mem = false → j.op = 0x16 → j.vd < 32 → cdiv j.n j.ratio * j.dsz ≤ 4096 * (32 - j.vd) →
      Completes (.vectorOpComplete pos none) s fun t =>
        let x := (t.coreAt pos).arch
        (∀ i, i * j.dsz < 4096 * (32 - j.vd) → x.vEl j.vd j.dsz i = if j.writes a j.start j.n i then (j.value a i).1 % 2 ^ j.dsz else a.vEl j.vd j.dsz i) ∧
        (∀ r, r < j.vd → x.vreg r = a.vreg r) ∧ x = { a with vregs := x.vregs, spr := x.spr } ∧ flags x ∧ own t) ∧
    (j.mem = false → j.maskDst = true → j.n ≤ 4096 →
      Completes (.vectorOpComplete pos none) s fun t =>
        let x := (t.coreAt pos).arch
        (∀ i, i < 4096 → x.mBit (j.vd % 8) i = if j.active a i then decide ((j.value a i).1 = 1) else a.mBit (j.vd % 8) i) ∧
        (∀ r, r ≠ j.vd % 8 → x.mreg r = a.mreg r) ∧ x = { a with mregs := x.mregs, spr := x.spr } ∧ flags x ∧ own t) ∧
    (j.mem = false → j.whole = true → j.sz ∈ [8, 16, 32, 64] → (j.scalarDst = false → j.vd < 32 ∧ j.n * j.sz ≤ 4096 * (32 - j.vd)) →
      let set (i : Nat) : Bool := a.mBit (j.va % 8) i
      let on := (upto j.n).filter fun i => a.mBit j.m i
      let act := (upto j.n).filter fun i => !j.me || a.mBit j.m i
      let e (i : Nat) : Nat := a.vEl j.va j.sz i
      let i64 (i : Nat) : Int := sext j.sz (e i)
      Completes (.vectorOpComplete pos none) s fun t =>
        let x := (t.coreAt pos).arch
        let y (i : Nat) : Nat := x.vEl j.vd j.sz i
        own t ∧ x = { a with vregs := x.vregs, sregs := x.sregs, spr := { x.spr with vstart := 0 } } ∧
        x.spr = { a.spr with vstart := 0, vflags := x.spr.vflags, ksp := x.spr.ksp } ∧
        (∀ r, (j.scalarDst = true → r ≠ j.vd) → x.reg r = a.reg r) ∧ (∀ r, j.scalarDst = true ∨ r < j.vd → x.vreg r = a.vreg r) ∧
        (j.op = 0x1E → j.vb = 5 → x.reg j.vd = ⟨BitVec.ofNat 64 ((upto j.n).filter set).length, 0⟩) ∧
        (j.op = 0x1E → j.vb = 6 → ∃ m, m ≤ j.n ∧ x.reg j.vd = ⟨BitVec.ofNat 64 m, 0⟩ ∧ (m < j.n → set m = true) ∧ ∀ i, i < m → set i = false) ∧
        (j.op = 0x1F → let q := j.sb.pay.toNat
          (j.et = 0 → x.reg j.vd = ⟨BitVec.ofNat 64 (e q), 2⟩) ∧ (j.et = 1 → x.reg j.vd = ⟨BitVec.ofNat 64 (e q), 3⟩) ∧
          (4 ≤ j.et → x.reg j.vd = ⟨wordOfInt (i64 q), 0⟩)) ∧
        (j.op = 0x18 ∨ j.op = 0x19 → ∀ i, 0 < i → i * j.sz < 4096 * (32 - j.vd) → y i = a.vEl j.vd j.sz i) ∧
        (j.op = 0x18 → 4 ≤ j.et → y 0 = act.foldl (fun n i => n + e i) 0 % 2 ^ j.sz) ∧
        (j.op = 0x19 → 4 ≤ j.et → act ≠ [] → ∃ i ∈ act, y 0 = e i ∧ ∀ k ∈ act,
          (j.vb = 0 → i64 k ≤ i64 i) ∧ (j.vb = 1 → i64 i ≤ i64 k) ∧ (j.vb = 2 → e k ≤ e i) ∧ (j.vb = 3 → e i ≤ e k)) ∧
        (j.op = 0x1A → ∀ k, k * j.sz < 4096 * (32 - j.vd) → y k = if k < on.length then e (on.getD k 0) else a.vEl j.vd j.sz k) ∧
        (j.op = 0x1B → (∀ k, k < on.length → y (on.getD k 0) = e k) ∧
          ∀ i, i * j.sz < 4096 * (32 - j.vd) → i ∉ on → y i = a.vEl j.vd j.sz i)) ∧
    (j.mem = true → j.alt = none → j.sz ∈ [8, 16, 32, 64] → s.Calm → (∀ u, s.errAt u = 0) → s.bit (Reg.l2Ctrl (pos / 13)) 0 = false → (s.coreAt pos).work.misses < 16 →
      let at' (i b : Nat) : Loc := s.locate (some pos) (j.addr a i + b)
      let none' (l : Loc) : Prop := ∀ i b, j.active a i = true → b < j.bytes → l ≠ at' i b
      (∀ i b, j.active a i = true → b < j.bytes → (∃ o, at' i b = .ldm pos o) ∨ ∃ x, at' i b = .tier x) →
      (j.op ≤ 3 →
        Completes (.vectorOpComplete pos none) s fun t =>
          let x := (t.coreAt pos).arch
          let v (i : Nat) : Nat := s.num (some pos) (j.addr a i) j.bytes
          SameBytes s t ∧ (t.coreAt pos).work = queue ∧ (∀ p, p ≠ pos → (t.coreAt p).arch = (s.coreAt p).arch) ∧
          x = { a with vregs := x.vregs, mregs := x.mregs, spr := { a.spr with vstart := 0 } } ∧
          (j.op = 3 → j.n ≤ 4096 → x.vregs = a.vregs ∧ (∀ r, r ≠ j.vd % 8 → x.mreg r = a.mreg r) ∧
            ∀ i, i < 4096 → x.mBit (j.vd % 8) i = if j.active a i then bitAt (v i) (i % 8) else a.mBit (j.vd % 8) i) ∧
          (j.op ≠ 3 → j.vd < 32 → j.n * j.sz ≤ 4096 * (32 - j.vd) → x.mregs = a.mregs ∧ (∀ r, r < j.vd → x.vreg r = a.vreg r) ∧
            ∀ i, i * j.sz < 4096 * (32 - j.vd) → x.vEl j.vd j.sz i = if j.active a i then v i else a.vEl j.vd j.sz i)) ∧
      (4 ≤ j.op → j.op ≤ 6 → (∀ i k b c, j.active a i = true → j.active a k = true → b < j.bytes → c < j.bytes → at' i b = at' k c → i = k ∧ b = c) →
        Completes (.vectorOpComplete pos none) s fun t =>
          (t.coreAt pos).arch = { a with spr := { a.spr with vstart := 0 } } ∧ (t.coreAt pos).work = queue ∧
          (∀ i, j.active a i = true → t.num (some pos) (j.addr a i) j.bytes = a.vEl j.vd j.sz i) ∧ ∀ l, none' l → t.byteAt l = s.byteAt l) ∧
      (j.op = 7 → j.me = false → (∀ i k, j.active a i = true → j.active a k = true → at' i 0 = at' k 0 → i / 8 = k / 8) →
        Completes (.vectorOpComplete pos none) s fun t =>
          (t.coreAt pos).arch = { a with spr := { a.spr with vstart := 0 } } ∧ (t.coreAt pos).work = queue ∧
          (∀ i, j.active a i = true → t.byteAt (at' i 0) = BitVec.ofNat 8 ((a.mreg (j.vd % 8)).toNat >>> (i / 8 * 8))) ∧ ∀ l, none' l → t.byteAt l = s.byteAt l))

/-- The integer and logical element values: wrapped to the element size, shifts by the low bits of the second operand, signed minimum and maximum. -/
def Obligations.VectorIntegerValues : Prop :=
  ∀ (j : VJob) (a : Arch) (i : Nat), j.mem = false → 4 ≤ j.et → j.et < 8 → j.s = false → j.op ∈ [0x00, 0x01, 0x02, 0x03, 0x04, 0x05, 0x08, 0x09, 0x0A, 0x0B, 0x0C, 0x0D] →
    let sz := etSize j.et
    let x := a.vEl j.va sz i
    let y := a.vEl j.vb sz i
    let z := a.vEl j.vc sz i
    (j.value a i).2 = 0 ∧
    (j.op = 0x00 → (j.value a i).1 = (x + y) % 2 ^ sz) ∧ (j.op = 0x01 → ((j.value a i).1 + y) % 2 ^ sz = x) ∧
    (j.op = 0x02 → (j.value a i).1 = x * y % 2 ^ sz) ∧ (j.op = 0x03 → (j.value a i).1 = (x * y + z) % 2 ^ sz) ∧
    (j.op = 0x04 → sext sz (j.value a i).1 = min (sext sz x) (sext sz y)) ∧ (j.op = 0x05 → sext sz (j.value a i).1 = max (sext sz x) (sext sz y)) ∧
    (j.op = 0x08 → (j.value a i).1 = x &&& y) ∧ (j.op = 0x09 → (j.value a i).1 = x ||| y) ∧ (j.op = 0x0A → (j.value a i).1 = x ^^^ y) ∧
    (j.op = 0x0B → (j.value a i).1 = x * 2 ^ (y % sz) % 2 ^ sz) ∧ (j.op = 0x0C → (j.value a i).1 = x / 2 ^ (y % sz)) ∧
    (j.op = 0x0D → sext sz (j.value a i).1 = sext sz x / 2 ^ (y % sz))

/-- TILE_OP_COMMIT, form by form, each with all that it leaves alone. tld and ald take their rows from the own LDM, tst and ast write them there; tzero and trel clear their tile; tld and tzero set STATE and
trel clears it, and the other fields of TCFG stay; aclr clears a bank with its status; astat returns the status and clears it when asked; aset writes it. mmul, and each half of mmul2, takes for each element of
its bank the chunk of the row and the column, in INT8 added modulo 2^32, else rounded to the format of the bank and added to the element when ACC = 1; elements outside the product keep their values, and the
conditions join the status. Nothing else of the core or of the machine changes, and the operation leaves the queue. -/
def Obligations.TileOperationsCommit : Prop :=
  ∀ (s : State) (pos : Nat) (j : TJob) (rest : List TJob), pos < 1300 → s.waits = [] → (s.coreAt pos).work.tq = j :: rest → (s.coreAt pos).work.vq = [] →
    let a := (s.coreAt pos).arch
    let only (x : Arch) (tiles tcfg banks astat regs : List Nat) : Prop :=
      x = { a with tiles := x.tiles, tcfg := x.tcfg, banks := x.banks, astat := x.astat, sregs := x.sregs, spr := { a.spr with ksp := x.spr.ksp } } ∧
      (∀ n, n ∉ tiles → x.tile n = a.tile n) ∧ (∀ n, n ∉ tcfg → x.tcfgAt n = a.tcfgAt n) ∧ (∀ n, n ∉ banks → x.bank n = a.bank n) ∧
      (∀ n, n ∉ astat → x.astatAt n = a.astatAt n) ∧ ∀ n, n ∉ regs → x.reg n = a.reg n
    let inside (t : State) : Prop :=
      (t.coreAt pos).work = { (s.coreAt pos).work with tq := rest } ∧ (t.coreAt pos).ldm = (s.coreAt pos).ldm ∧ (t.coreAt pos).caches = (s.coreAt pos).caches ∧
      t = { s with cores := t.cores } ∧ SameCores s t [pos]
    let state (x : Arch) (b : Nat) : Prop := x.tcfgAt j.t = wsetFld (a.tcfgAt j.t) 31 31 b
    let commits (p : State → Arch → Prop) : Prop := Completes (.tileOpCommit pos) s fun t => p t (t.coreAt pos).arch
    (j.cls = 8 →
      (j.op = 2 → commits fun t x => inside t ∧ only x [j.t] [j.t] [] [] [] ∧ x.tile j.t = 0 ∧ state x 1) ∧
      (j.op = 3 → commits fun t x => inside t ∧ only x [j.t] [j.t] [] [] [] ∧ x.tile j.t = 0 ∧ state x 0) ∧
      (j.op = 6 → commits fun t x => inside t ∧ only x [] [] [j.a] [j.a] [] ∧ x.bank j.a = 0 ∧ x.astatAt j.a = 0) ∧
      (j.op = 7 → commits fun t x => inside t ∧ only x [] [] [] (if j.acc then [j.a] else []) [j.t1] ∧ x.reg j.t1 = ⟨a.astatAt j.a, 0⟩ ∧ (j.acc = true → x.astatAt j.a = 0)) ∧
      (j.op = 8 → commits fun t x => inside t ∧ only x [] [] [] [j.a] [] ∧ x.astatAt j.a = BitVec.ofNat 64 (j.rb % 64)) ∧
      (s.Calm → (∀ u, s.errAt u = 0) → j.rows ≤ 32 → 1 ≤ j.rowb → j.rowb ≤ 128 →
        let at' (r b : Nat) : Loc := s.locate (some pos) (j.rowAddr r + b)
        (∀ r b, r < j.rows → b < j.rowb → ∃ o, at' r b = .ldm pos o) →
        let rows (v : BitVec 32768) : Prop := ∀ r b, r < 32 → b < 128 →
          v.toNat / 2 ^ (1024 * r + 8 * b) % 256 = if r < j.rows ∧ b < j.rowb then (s.byteAt (at' r b)).toNat else 0
        (j.op = 0 → commits fun t x => inside t ∧ only x [j.t] [j.t] [] [] [] ∧ rows (x.tile j.t) ∧ state x 1) ∧
        (j.op = 4 → commits fun t x => inside t ∧ only x [] [] [j.a] [] [] ∧ rows (x.bank j.a)) ∧
        (j.op = 1 ∨ j.op = 5 → (∀ r q b c, r < j.rows → q < j.rows → b < j.rowb → c < j.rowb → at' r b = at' q c → r = q ∧ b = c) →
          let src := if j.op = 1 then a.tile j.t else a.bank j.a
          commits fun t x => x = a ∧ (t.coreAt pos).work = { (s.coreAt pos).work with tq := rest } ∧ (t.coreAt pos).caches = (s.coreAt pos).caches ∧
            SameCores s t [pos] ∧
            (∀ r b, r < j.rows → b < j.rowb → t.byteAt (at' r b) = BitVec.ofNat 8 (src.toNat / 2 ^ (1024 * r + 8 * b)) ∧
              ∀ o, at' r b = .ldm pos o → (t.ldmWord pos (o / 8)).tag = 0xE) ∧
            ∀ l, (∀ r b, r < j.rows → b < j.rowb → l ≠ at' r b) → t.byteAt l = s.byteAt l))) ∧
    (j.cls = 9 → j.op ≤ 1 → (j.op = 1 → j.a ≠ j.a1) →
      let M (ta : Nat) : Nat := tcRows (a.tcfgAt ta)
      let K (ta : Nat) : Nat := rowElems (tcFmt (a.tcfgAt ta)) (tcBytes (a.tcfgAt ta))
      let N := rowElems (tcFmt (a.tcfgAt j.tw)) (tcBytes (a.tcfgAt j.tw))
      let num (ta m n : Nat) : List (Machine.Num × Machine.Num) := (upto (K ta)).map fun k =>
        (tileNum (a.tile ta) (tcFmt (a.tcfgAt ta)) m k m, tileNum (a.tile j.tw) (tcFmt (a.tcfgAt j.tw)) k n n)
      let whole (ta m n : Nat) : Int :=
        (upto (K ta)).foldl (fun (y : Int) k => y + sext 8 (tileElem (a.tile ta) 4 m k) * sext 8 (tileElem (a.tile j.tw) 4 k n)) 0
      let into (f : Fmt) (old : Nat) (c : Chunk) : Nat :=
        let v := (roundRes f .near false (c.c, c.fl)).1
        if j.acc then (roundRes f .near false (Machine.Num.add .near (f.unpack old) (f.unpack v))).1 else v
      let sum (ta b m n : Nat) : Int := (if j.acc then sext 32 (bankEl (a.bank b) (32 * m + n)) else 0) + whole ta m n
      let half (x : Arch) (ta b : Nat) : Prop :=
        (j.mf < 5 → ∀ m n, m < 32 → n < 32 → bankEl (x.bank b) (32 * m + n) =
          if ¬(m < M ta ∧ n < N) then bankEl (a.bank b) (32 * m + n)
          else if j.mf = 3 then toBits 32 (sum ta b m n)
          else into fp32 (bankEl (a.bank b) (32 * m + n)) (floatChunk ((num ta m n).map fun p => Machine.Num.mul p.1 p.2)) % 2 ^ 32) ∧
        (5 ≤ j.mf → ∀ m n, m < 32 → n < 16 → bankEl64 (x.bank b) m n =
          if m < M ta ∧ n < N then into fp64 (bankEl64 (a.bank b) m n) (fp64Chunk (j.mf = 6) (num ta m n)) % 2 ^ 64 else bankEl64 (a.bank b) m n) ∧
        (∃ w : Nat, x.astatAt b = a.astatAt b ||| BitVec.ofNat 64 w) ∧
        (j.mf = 3 →
          let beyond (m n : Nat) : Prop := sum ta b m n < -(2 ^ 31 : Nat) ∨ (2 ^ 31 : Nat) ≤ sum ta b m n
          ((∃ m n, m < M ta ∧ n < N ∧ beyond m n) → x.astatAt b = a.astatAt b ||| 0x20) ∧
          ((∀ m n, m < M ta → n < N → ¬beyond m n) → x.astatAt b = a.astatAt b))
      M j.t ≤ 32 → (j.op = 1 → M j.t1 ≤ 32) → N ≤ (if 5 ≤ j.mf then 16 else 32) →
      commits fun t x => inside t ∧ only x [] [] (if j.op = 1 then [j.a, j.a1] else [j.a]) (if j.op = 1 then [j.a, j.a1] else [j.a]) [] ∧
        half x j.t j.a ∧ (j.op = 1 → half x j.t1 j.a1))

/-- ARRAY_CHECK_FAULT while a matrix operation is at the front: a faulty column whose compare fails, and a word of a tile or a bank that cannot be corrected, abandon the operation and every tile operation
of a later leaf, with no tile, bank or status changed and no row written; class 0x04 or 0x02 is posted, the position is suspect and due, and a deferred 0x0C with KIND 3 or 1 names the operation's leaf. A compare that
passes changes nothing. A position that is suspect already stays so, with its clean count, and posts no further change. That a fault is given as one column that comes out wrong in one row, and that a compare which
passes shows nothing, are the model's choices (assumption log row 160). -/
def Obligations.ArrayCheckStopsMatrix : Prop :=
  ∀ (s : State) (pos array slot row col : Nat) (off : Int) (j : TJob) (rest : List TJob), pos < 1300 → s.waits = [] → (s.coreAt pos).work.tq = j :: rest → j.cls = 9 →
    let a := (s.coreAt pos).arch
    let act := if j.op = 1 ∧ array = 1 then j.t1 else j.t
    let fails := (if j.op = 1 then decide (array ≤ 1) else decide (array = j.a / 2)) && slotRow j.mf (tcRows (a.tcfgAt act)) slot row && a.compareRow j.mf act j.tw row col off
    let stops (t : State) (cls kind : Nat) : Prop :=
      (t.coreAt pos).work = { (s.coreAt pos).work with tq := rest.filter fun x => decide (x.seq ≤ j.seq) } ∧
      (t.coreAt pos).arch = { a with flow := { a.flow with deferred := a.flow.deferred ++
        [{ code := 0x0C, kind := kind, syl := 0x1F, reg := 0, info := 0, addr := 0, next := true, deferred := true, fleaf := j.leaf, hbk := [], xid := 0 }] } } ∧
      SameCores s t [pos] ∧ (t.coreAt pos).ldm = (s.coreAt pos).ldm ∧ t.isSuspect pos = true ∧ t.fld (Reg.relPosStat pos) 31 0 = (if s.isSuspect pos then s.fld (Reg.relPosStat pos) 31 0 else 0) ∧
      (t.cluAt (pos / 13)).rot.due.any (fun d => d.1 == pos) = true ∧ t.raw Reg.relEvhead = s.raw Reg.relEvhead + (if s.isSuspect pos then 1 else 2) ∧
      wfld (t.raw (Reg.relRing ((s.raw Reg.relEvhead).toNat % 1024) 0)) 7 0 = cls
    (fails = false → exec (.arrayCheckFault pos ⟨.compare array slot row col off, 0⟩) s = .next s) ∧
    (fails = true → Completes (.arrayCheckFault pos ⟨.compare array slot row col off, 0⟩) s fun t => stops t 4 3) ∧
    (Completes (.arrayCheckFault pos ⟨.regData false, 0⟩) s fun t => stops t 2 1)

/-- LEAF_ISSUE queues the work of a vector, vector memory, tile or matrix operation that meets no fault, with the scalar operands as they stand and VSTART as its first element; registers and memory wait
for their completions. hb.copy queues its transfer with the next number, hb.fab a send, slot release or contribution, which waits there while it has no credit or the mill is held, and counts at once with cause 0 where
no flow of its number is loaded; both wait for room in a headbox of 16. hb.wait takes its operand off the counter once the counter holds as much, and hb.poll reads it. A load that neither the own LDM nor a near cache
supplies, and an atomic on the tiers, leave their register to LOAD_RETURN: the load with the value that memory holds at issue, the atomic with the old word, having written the new one (the model's choices, assumption log
rows 40 and 65). -/
def Obligations.LeafQueuesWork : Prop :=
  ∀ (s : State) (pos : Nat) (bits : BitVec 256) (br : Option BrCtx) (o : Op), s.Before pos bits br → s.Single pos bits o →
    let k := s.ctx pos bits
    let start := k.a.spr.vstart.toNat
    let hbq := (s.coreAt pos).work.hbq
    let ids (xs : List Xfer) : List (Nat × Nat × Nat) := xs.map fun x => (x.xid, x.kind, x.k)
    let counter (x : Arch) (c : Nat) : Word := Sparse.get zeroWord x.hbc c
    let c := o.e1 / 128
    s.opFaults k none start o = [] →
    (6 ≤ o.cls → o.cls ≤ 9 →
      Completes (.leafIssue ⟨pos, [], 0⟩) s fun t =>
        PagedLeaf s (t.setWork pos (s.coreAt pos).work) pos ∧ GoesOn k.a (t.coreAt pos).arch br ∧ (t.coreAt pos).arch.spr = k.a.spr ∧
        (t.coreAt pos).arch.sregs = k.a.sregs ∧
        (t.coreAt pos).work = { (s.coreAt pos).work with
          vq := if o.cls ≤ 7 then [k.vjob o start (k.a.flow.seq + 1)] else [], tq := if o.cls ≤ 7 then [] else [k.tjob o (k.a.flow.seq + 1)] }) ∧
    (o.cls = 0xA → o.opc ≤ 1 → 16 ≤ hbq.length → exec (.leafIssue ⟨pos, [], 0⟩) s = .next (s.bump (Reg.coreStalls pos) 1)) ∧
    (o.cls = 0xA → o.opc ≤ 1 → hbq.length < 16 → (∀ i, s.handover i = false) →
      let d := s.readDesc pos (k.r o.r).pay.toNat
      let kind := if o.opc = 0 then 0 else d.kind + 1
      Completes (.leafIssue ⟨pos, [], 0⟩) s fun t =>
        GoesOn k.a (t.coreAt pos).arch br ∧ (∀ n, (t.coreAt pos).arch.reg n = k.a.reg n) ∧ SameBytes s t ∧ t.fab.nextXid = s.fab.nextXid + 1 ∧
        ((o.opc = 0 ∧ 0 < d.rows ∧ 0 < d.rowlen) ∨ (o.opc = 1 ∧ s.isHeld = true ∧ d.kind ≠ 1) ∨
            (o.opc = 1 ∧ d.kind = 0 ∧ s.sflow d.num 63 63 = 1 ∧ s.sflow d.num 59 56 = s.groupOf (pos / 13) ∧ d.len ≤ s.sflow d.num 31 0 ∧ 0 < d.len ∧ s.creditOf d.num = 0) →
          (t.coreAt pos).arch.hbc = k.a.hbc ∧ ids (t.coreAt pos).work.hbq = ids hbq ++ [(s.fab.nextXid, kind, c)]) ∧
        (s.xferFor s.fab.nextXid = none → s.lcidOf pos < 1200 → s.posOf (s.lcidOf pos) = some pos →
          (o.opc = 0 ∧ (d.rows = 0 ∨ d.rowlen = 0)) ∨ (o.opc = 1 ∧ d.kind = 0 ∧ s.isHeld = false ∧ s.sflow d.num 63 63 = 0) →
          (t.coreAt pos).work.hbq = hbq ∧ (∀ i, counter (t.coreAt pos).arch i = counter k.a i + if i = c then 1 else 0) ∧
          (o.opc = 1 → t.bit (Reg.fabStrEvt (s.groupOf (pos / 13))) 0 = true))) ∧
    (o.cls = 0xA → o.opc = 2 →
      ((counter k.a c).toNat < (k.r o.r).pay.toNat → exec (.leafIssue ⟨pos, [], 0⟩) s = .next (s.bump (Reg.coreStalls pos) 1)) ∧
      ((k.r o.r).pay.toNat ≤ (counter k.a c).toNat →
        Completes (.leafIssue ⟨pos, [], 0⟩) s fun t =>
          LeafOnly s t pos ∧ GoesOn k.a (t.coreAt pos).arch br ∧ (t.coreAt pos).arch.sregs = k.a.sregs ∧ (t.coreAt pos).arch.spr = k.a.spr ∧
          ∀ i, counter (t.coreAt pos).arch i = if i = c then counter k.a c - (k.r o.r).pay else counter k.a i)) ∧
    (o.cls = 0xA → o.opc = 3 →
      Completes (.leafIssue ⟨pos, [], 0⟩) s fun t =>
        LeafOnly s t pos ∧ GoesOn k.a (t.coreAt pos).arch br ∧ (t.coreAt pos).arch.hbc = k.a.hbc ∧ (t.coreAt pos).arch.reg (regKey k.priv o.r) = ⟨counter k.a c, 0⟩ ∧
        ∀ n, n ≠ regKey k.priv o.r → (t.coreAt pos).arch.reg n = k.a.reg n) ∧
    (let a := k.memAddr o
     let waits (t : State) (l : OutLoad) : Prop :=
       (t.coreAt pos).work = { (s.coreAt pos).work with loads := [l] } ∧ l.reg = regKey k.priv o.r ∧ l.leaf = k.leaf ∧ l.addr = a ∧ l.size = memSize o.opc ∧
       (t.coreAt pos).arch = { k.a with flow := (t.coreAt pos).arch.flow, loop0 := (t.coreAt pos).arch.loop0, loop1 := (t.coreAt pos).arch.loop1 } ∧
       (t.coreAt pos).arch.flow.exc = none ∧ GoesOn k.a (t.coreAt pos).arch br
     (isLoad o = true → inCsr a = false → ownLdm pos a = false → s.nearHit pos a = false → s.fillsOf (pos / 13) < 64 →
       Completes (.leafIssue ⟨pos, [], 0⟩) s fun t =>
         SameBytes s t ∧ ∃ l, waits t l ∧ l.val = s.loadValue pos o.opc a ∧ l.bad = (s.firstBad (some pos) a (memSize o.opc)).isSome ∧ l.amo = false) ∧
     (isAmo o = true → s.InTiers a 8 → inCsr a = false → ownLdm pos a = false → (∀ u, s.errAt u = 0) →
       let old := BitVec.ofNat 64 (s.num none a 8)
       Completes (.leafIssue ⟨pos, [], 0⟩) s fun t =>
         t.num none a 8 = (amoNew o.opc old (k.r (lo5 o.e1)).pay (k.r (hi5 o.e2)).pay).toNat ∧
         (∀ l, (∀ i, i < 8 → l ≠ .tier (a + i)) → t.byteAt l = s.byteAt l) ∧ ∃ l, waits t l ∧ l.val = ⟨old, 0⟩ ∧ l.bad = false ∧ l.amo = true))

/-! ### Couch, self-test, suspect positions -/

/-- CLU_COUCH_GO with listed SLOT and TARGET: they stand in their fields; without GO nothing else happens; with GO, ERR says 3 when a couch or a session of the cluster is busy, else 1 when TARGET
is no idle spare, else 2 when the slot has no position, else 0, and then the couch is requested and BUSY is 1. COUCH_LIMIT_EXPIRY, while the slot's core stands at no couch point: the request has waited CLU.COUCHLIM cycles, CLU.LATE
counts it, class 0x08 is posted, and interrupt 0x24 pends at the slot's position. That 3 goes before 1 and 1 before 2, and that the clock of the cluster runs on to the limit, are the model's choices (assumption log
rows 55 and 54). -/
def Obligations.CouchRequests : Prop :=
  (∀ (s : State) (c : Nat) (v : Word), c < 100 → s.waits = [] → s.phase = 7 → wfld v 11 8 ≤ 11 → wfld v 3 0 ≤ 12 →
    let slot := wfld v 11 8
    let target := wfld v 3 0
    let k := s.cluAt c
    let err := if k.couch.isSome ∨ k.rot.session.isSome then 3 else if !s.isSpare (13 * c + target) then 1 else if (s.posOf (12 * c + slot)).isNone then 2 else 0
    Completes (.cluCouchGo c v) s fun t =>
      t.fld (Reg.cluCouch c) 11 8 = slot ∧ t.fld (Reg.cluCouch c) 3 0 = target ∧ t = { s with csr := t.csr, clusters := t.clusters } ∧
      SameRegs s t [Reg.cluCouch c] ∧ SameClusters s t [c] ∧
      (wfld v 63 63 = 0 → t.cluAt c = k ∧ t.fld (Reg.cluCouch c) 23 16 = s.fld (Reg.cluCouch c) 23 16) ∧
      (wfld v 63 63 = 1 → t.fld (Reg.cluCouch c) 23 16 = err ∧
        (err = 0 → t.bit (Reg.cluCouch c) 62 = true ∧ t.cluAt c = { k with couch := some ⟨slot, target, 0, s.cycles c, false⟩ }) ∧ (err ≠ 0 → t.cluAt c = k))) ∧
  (∀ (s : State) (c p : Nat) (r : CouchReq), c < 100 → s.waits = [] → (s.cluAt c).couch = some r → r.late = false → r.slot < 12 → s.lcidOf p = 12 * c + r.slot →
    (s.standsCouched (12 * c + r.slot) = true → exec (.couchLimitExpiry c) s = .next s) ∧
    (s.standsCouched (12 * c + r.slot) = false → Completes (.couchLimitExpiry c) s fun t =>
      (t.cluAt c).couch = some { r with late := true } ∧ r.since + s.fld (Reg.cluCouchlim c) 31 0 ≤ t.cycles c ∧
      t.raw (Reg.cluLate c) = s.raw (Reg.cluLate c) + 1 ∧ t.raw Reg.relEvhead = s.raw Reg.relEvhead + 1 ∧ (t.pendingInts p).testBit 4 = true ∧
      SameCores s t [] ∧ SameBytes s t))

/-- COUCH asked for through CLU.COUCH, when the slot's core stands at a couch point and the target is the idle spare: the registers, LDM and waiting transfers of the core stand on the target,
which backs the slot in the state the core was in; the former position is the idle spare, CLU.COUCHES counts, BUSY is 0, class 0x08 is posted, and no other position changes. -/
def Obligations.CouchMovesSlot : Prop :=
  ∀ (s : State) (c p : Nat) (r : CouchReq), c < 100 → s.Calm → (∀ u, s.errAt u = 0) → (s.cluAt c).couch = some r → r.why = 0 → r.slot < 12 → r.target < 13 →
    let i := 12 * c + r.slot
    let q := 13 * c + r.target
    s.posOf i = some p → s.isSpare q = true → p ≠ q → s.atCouchPoint p = true →
    Completes (.couch c) s fun t =>
      let a := (s.coreAt p).arch
      (t.coreAt q).arch = { a with flow := { a.flow with atCouch := false, prev := none } } ∧ (t.coreAt q).ldm = (s.coreAt p).ldm ∧
      (t.coreAt q).work.hbq = (s.coreAt q).work.hbq ++ (s.coreAt p).work.hbq.filter (fun x => !x.begun) ∧
      (t.coreAt p).work.hbq = (s.coreAt p).work.hbq.filter (fun x => x.begun) ∧
      t.posOf i = some q ∧ t.lcidOf q = i ∧ t.stateOf q = s.stateOf p ∧ t.isSpare q = false ∧
      t.lcidOf p = 0x7FF ∧ t.stateOf p = 3 ∧ t.isSpare p = true ∧ (t.cluAt c).couch = none ∧ t.bit (Reg.cluCouch c) 62 = false ∧
      t.raw (Reg.cluCouches c) = s.raw (Reg.cluCouches c) + 1 ∧ t.raw Reg.relEvhead = s.raw Reg.relEvhead + 1 ∧ SameCores s t [p, q]

/-- The rotation: ROTATION_TURN notes a turn, counts it as missed when the turn before still waits, and passes over a position that backs a slot, a turn that waits included, where the cluster has no spare; SUSPECT_DUE
makes a suspect position due; TEST_SESSION_START starts the first item, at once on a position without a slot, which is then in self-test, and by a couch of the slot to the idle spare else;
SELF_TEST_SLICE_END goes to the next slice on the expected result, and after the last one of a position without a slot leaves it idle as a spare with its state as after reset; a wrong result
makes the position failed. -/
def Obligations.SelfTestProceeds : Prop :=
  ∀ (s : State) (c : Nat), c < 100 → s.waits = [] →
    let r := (s.cluAt c).rot
    (∀ k, s.rotOn = true → s.served c = some k → 13 * c ≤ k → k < 13 * c + 13 →
      (r.turn = none → r.session = none → (s.spareOf c).isSome = true →
        Completes (.rotationTurn c) s fun t => t.cluAt c = { s.cluAt c with rot := { r with turn := some s.sys.time } } ∧ t = { s with clusters := t.clusters } ∧ SameClusters s t [c]) ∧
      (r.turn.isSome = true → (s.spareless c = false ∨ s.lcidOf k = 0x7FF) →
        Completes (.rotationTurn c) s fun t => t.raw Reg.relMissed = s.raw Reg.relMissed + 1 ∧ t.raw Reg.relEvhead = s.raw Reg.relEvhead + 1 ∧ t.cluAt c = s.cluAt c) ∧
      (s.spareless c = true → s.lcidOf k ≠ 0x7FF →
        Completes (.rotationTurn c) s fun t => (t.cluAt c).rot = { r with ptr := (k % 13 + 1) % 13, turn := none, noSpare := true } ∧
          t.raw Reg.relMissed = s.raw Reg.relMissed ∧ t.raw Reg.relEvhead = s.raw Reg.relEvhead + (if r.noSpare then 0 else 1))) ∧
    (∀ k, k < 1300 → s.rotOn = true → s.isSuspect k = true →
      Completes (.suspectDue k) s fun t => (t.cluAt (k / 13)).rot.due.any (fun d => d.1 == k) = true ∧ t = { s with clusters := t.clusters } ∧ SameClusters s t [k / 13]) ∧
    (∀ x, s.rotOn = true → r.session = none → firstItem (s.items c) = some x → x.pos / 13 = c →
      (s.lcidOf x.pos = 0x7FF →
        Completes (.testSessionStart c) s fun t => t.stateOf x.pos = 4 ∧ t.isSpare x.pos = false ∧ t.bit (Reg.relPosStat x.pos) 62 = true ∧
          (t.cluAt c).rot.session = some ⟨x.pos, none, 1, 0, x.turn, decide (s.stateOf x.pos = 5), none⟩ ∧ SameCores s t []) ∧
      (∀ q, s.lcidOf x.pos < 1200 → s.spareOf c = some q → q / 13 = c →
        Completes (.testSessionStart c) s fun t => t.bit (Reg.cluCouch c) 62 = true ∧ t.bit (Reg.relPosStat x.pos) 62 = true ∧
          (t.cluAt c).couch = some ⟨s.lcidOf x.pos % 12, q % 13, 1, s.cycles c, false⟩ ∧
          (t.cluAt c).rot.session = some ⟨x.pos, some (s.lcidOf x.pos % 12), 0, 0, x.turn, decide (s.stateOf x.pos = 5), none⟩ ∧ SameCores s t [])) ∧
    (∀ x, r.session = some x → x.phase = 1 → x.pos / 13 = c → (∀ y ∈ (s.coreAt x.pos).work.hbq, y.begun = false) →
      (x.slice < 31 → Completes (.selfTestSliceEnd c (Config.bistSig x.slice)) s fun t => (t.cluAt c).rot = { r with session := some { x with slice := x.slice + 1, ended := some s.sys.time } } ∧ SameCores s t []) ∧
      (x.slice = 31 → x.slot = none → x.held = false →
        Completes (.selfTestSliceEnd c (Config.bistSig 31)) s fun t => t.coreAt x.pos = { Core.reset with caches := (s.coreAt x.pos).caches.emptied } ∧ t.stateOf x.pos = 3 ∧ t.isSpare x.pos = true ∧ t.lcidOf x.pos = 0x7FF ∧
          (t.cluAt c).rot.session = none ∧ t.raw Reg.relTests = s.raw Reg.relTests + 1 ∧ t.raw (Reg.relPosLastpass x.pos) = BitVec.ofNat 64 (s.tclk / 1000) ∧ SameCores s t [x.pos]) ∧
      (∀ got, x.slice < 256 → got ≠ Config.bistSig x.slice →
        Completes (.selfTestSliceEnd c got) s fun t => t.isFailed x.pos = true ∧ t.fld (Reg.relPosStat x.pos) 55 48 = x.slice ∧ (t.cluAt c).rot.session = none ∧
          t.raw Reg.relFails = s.raw Reg.relFails + 1 ∧ t.raw Reg.relTests = s.raw Reg.relTests + 1 ∧ t.raw Reg.relEvhead = s.raw Reg.relEvhead + 1 ∧ SameCores s t []))

/-- REL_POSREQ_TEST makes a position that is not failed due; REL_POSREQ_MARK makes a position suspect with a clean count of zero, and leaves a suspect one as it is; REL_POSREQ_UNMARK ends the suspect
state at once; SUSPECT_HOURS_ELAPSED ends it when the clean count has reached REL.SUS.CLEAN, else notes that the hours have passed. Each change of the suspect state posts one record. -/
def Obligations.SuspectPositions : Prop :=
  ∀ (s : State) (k : Nat), k < 1300 → s.waits = [] → s.phase = 7 →
    let c := k / 13
    (s.isFailed k = false → Completes (.relPosreqTest k) s fun t =>
      (t.cluAt c).rot.due.any (fun d => d.1 == k) = true ∧ t = { s with clusters := t.clusters } ∧ SameClusters s t [c]) ∧
    (s.isSuspect k = false → Completes (.relPosreqMark k) s fun t =>
      t.isSuspect k = true ∧ t.fld (Reg.relPosStat k) 31 0 = 0 ∧ t.raw Reg.relEvhead = s.raw Reg.relEvhead + 1 ∧ k ∉ (t.cluAt c).rot.aged ∧ SameCores s t []) ∧
    (s.isSuspect k = true → exec (.relPosreqMark k) s = .next s) ∧
    (s.isSuspect k = true → Completes (.relPosreqUnmark k) s fun t =>
      t.isSuspect k = false ∧ t.raw Reg.relEvhead = s.raw Reg.relEvhead + 1 ∧ SameCores s t [] ∧ SameClusters s t []) ∧
    (s.isSuspect k = true → Completes (.suspectHoursElapsed k) s fun t =>
      k ∈ (t.cluAt c).rot.aged ∧ SameCores s t [] ∧
      t.isSuspect k = decide (s.fld (Reg.relPosStat k) 31 0 < s.fld Reg.relSus 31 0) ∧
      t.raw Reg.relEvhead = s.raw Reg.relEvhead + (if s.fld Reg.relSus 31 0 ≤ s.fld (Reg.relPosStat k) 31 0 then 1 else 0))

/-! ### The calender and NUM -/

/-- NORM, CONTRIB and END at the front of a queue whose entry passes its checks: NORM adds floor(x² × 2^160) of every gradient element to the cluster's accumulator, saturating with OVF, and an element that
is not finite or too large sets NF; CONTRIB takes the unit into PHASE 1, waiting for the clip factor; END advances CAL.STEP by one and takes it into PHASE 3. No memory changes. -/
def Obligations.CalenderNormContribEnd : Prop :=
  ∀ (s : State) (c : Nat), c < 100 → s.Calm → (∀ u, s.errAt u = 0) → s.hif.linkUp = true → (∀ i, s.handover i = false) → s.calReady c = true → (s.calCheck c).2 = 0 →
    let e := s.calEntry c
    let k := s.calAt c
    let gs := if e.gfmt = 0 then 4 else 2
    (e.op = 1 → e.wm = false → s.calBadRange c e = false →
      Completes (.norm c) s fun t =>
        let x := (upto e.count).foldl (fun k i => k.addTerm (normTerm ((if e.gfmt = 0 then fp32 else bf16).unpack (s.num none (e.addr 2 + gs * i) gs)))) k
        t.calAt c = { x with ran := true, err := 0 } ∧ SameBytes s t ∧ SameRegs s t [Reg.memPatmiss] ∧ SameCores s t [] ∧ SameClusters s t [c]) ∧
    (e.op = 2 →
      Completes (.contrib c) s fun t =>
        t.calAt c = { k with contributed := true, clip := none, ran := true, err := 0 } ∧ t.calPhase c = 1 ∧ SameBytes s t ∧ SameRegs s t [Reg.calStatus c] ∧
        SameCores s t [] ∧ SameClusters s t [c]) ∧
    (e.op = 4 → k.clip.isSome = true →
      Completes (.endEntry c) s fun t =>
        t.calAt c = { k with ended := true } ∧ t.calPhase c = 3 ∧ t.raw (Reg.calStep c) = s.raw (Reg.calStep c) + 1 ∧ SameBytes s t ∧
        SameRegs s t [Reg.calStatus c, Reg.calStep c] ∧ SameCores s t [] ∧ SameClusters s t [c])

/-- UPDATE at the front of a queue: in a step that is skipped the entry runs and reads and writes no element; else, for one parameter in the tiers without a watermark, master weight, momentum, second moment
and working copy take what the recipe gives in their formats, CAL.PARAMS counts one, and every byte outside the entry's written ranges stays. -/
def Obligations.CalenderUpdate : Prop :=
  ∀ (s : State) (c : Nat) (clip : Nat) (skip : Bool), c < 100 → s.Calm → (∀ u, s.errAt u = 0) → (∀ i, s.handover i = false) → s.calReady c = true → (s.calCheck c).2 = 0 →
    let e := s.calEntry c
    let k := s.calAt c
    e.op = 3 → 0 < e.count → k.clip = some (clip, skip) →
    (skip = true → Completes (.update c) s fun t => t.calAt c = { k with ran := true, err := 0 } ∧ SameBytes s t ∧ SameRegs s t [] ∧ SameCores s t []) ∧
    (skip = false → e.count = 1 → e.wm = false → s.calBadRange c e = false → (∀ r ∈ e.ranges, s.InTiers r.base r.sz) →
      let ms := stBytes e.mfmt
      let vs := stBytes e.vfmt
      let o : CalOps :=
        { recipe := e.recipe, c := fp64.unpack clip, lam := (e.f32 6 false).scale (sext 8 (s.fld (Reg.numGctrl e.group) 39 32)), wd := e.f32 6 true
          b1 := e.f32 7 false, b2 := e.f32 7 true, eps := e.f32 8 false, c1 := e.f32 9 false, c2 := e.f32 9 true, w := w48.unpack (s.num none (e.addr 1) 6)
          g := if e.gfmt = 0 then fp32.unpack (s.num none (e.addr 2) 4) else bf16.unpack (s.num none (e.addr 2) 2)
          m := (stFmt e.mfmt).unpack (s.num none (e.addr 3) ms), v := if e.usesVar then (stFmt e.vfmt).unpack (s.num none (e.addr 4) vs) else .fin false 0 0 }
      let seed := (s.cur Reg.numSeed).toNat
      let step := (s.cur (Reg.calStep c)).toNat
      let wsz := if e.wfmt = 2 then 1 else 2
      Completes (.update c) s fun t =>
        t.num none (e.addr 1) 6 = (w48.round .near false o.run.1).1 % 2 ^ 48 ∧
        t.num none (e.addr 3) ms = (calState e.mfmt o.run.2.1 (srBits seed step e.tid (e.w 10 % 2 ^ 64))).1 % 2 ^ (8 * ms) ∧
        (e.usesVar = true → t.num none (e.addr 4) vs = (calState e.vfmt o.run.2.2.1 (srBits seed step ((e.tid + 1) % 2 ^ 32) (e.w 10 % 2 ^ 64))).1 % 2 ^ (8 * vs)) ∧
        (e.wfmt ≠ 3 → t.num none (e.addr 5) wsz = ((workFmt e.wfmt).round .near false o.run.1).1 % 2 ^ (8 * wsz)) ∧
        t.raw (Reg.calParams c) = s.raw (Reg.calParams c) + 1 ∧ (t.calAt c).ran = true ∧ (t.calAt c).err = 0 ∧
        (∀ l, (∀ r ∈ e.ranges, r.wr = true → ∀ i, i < r.sz → l ≠ .tier (r.base + i)) → t.byteAt l = s.byteAt l))

/-- CALENDER_ENTRY_DONE of an entry that has run: without an error DONE in the queue's memory and in the unit advances by one; with one, ERR holds the code and the index of the entry, DONE stays, and CAL.STATUS
holds the code and PHASE 5. STEP_END waits while a cluster of the context has not run its END; once every one has, each sizing exponent of the context takes its next value, every unit of the context goes to PHASE 0 with its END
entry done, and no other unit changes. -/
def Obligations.CalenderEntryCompletes : Prop :=
  ∀ (s : State), s.Calm → (∀ u, s.errAt u = 0) →
    (∀ c, c < 100 →
      let b := s.calBase c
      let k := s.calAt c
      b % 4096 = 0 → s.InTiers b 4096 → k.done + 1 < 2 ^ 48 → k.ran = true →
      (k.err = 0 →
        Completes (.calenderEntryDone c) s fun t =>
          t.calAt c = { k with ran := false, done := k.done + 1 } ∧ t.num none (b + 8) 8 = k.done + 1 ∧ (∀ l, (∀ i, i < 8 → l ≠ .tier (b + 8 + i)) → t.byteAt l = s.byteAt l)) ∧
      (k.err ≠ 0 → k.err < 256 →
        Completes (.calenderEntryDone c) s fun t =>
          t.calAt c = { k with ran := false } ∧ t.calPhase c = 5 ∧ t.fld (Reg.calStatus c) 15 8 = k.err ∧ t.num none (b + 0x10) 8 = k.err + k.done * 2 ^ 16 ∧
          (∀ l, (∀ i, i < 8 → l ≠ .tier (b + 0x10 + i)) → t.byteAt l = s.byteAt l))) ∧
    (∀ g, g < 16 →
      let cs := s.clustersOf g
      ((∃ c ∈ cs, (s.calAt c).ended = false) → exec (.stepEnd g) s = .next s) ∧
      (cs ≠ [] → (∀ c ∈ cs, (s.calAt c).ended = true ∧ s.calBase c % 4096 = 0 ∧ s.InTiers (s.calBase c) 4096 ∧ (s.calAt c).done + 1 < 2 ^ 48) →
        (∀ c ∈ cs, ∀ d ∈ cs, s.calBase c = s.calBase d → c = d) →
        Completes (.stepEnd g) s fun t =>
          (∀ c ∈ cs, let k := s.calAt c
            t.calAt c = { k with ran := false, err := 0, ended := false, contributed := false, clip := none, done := k.done + 1 } ∧ t.calPhase c = 0 ∧ c ∈ t.snap.ended ∧
            t.num none (s.calBase c + 8) 8 = k.done + 1) ∧
          (∀ c, c < 100 → c ∉ cs → t.calAt c = s.calAt c ∧ t.calPhase c = s.calPhase c) ∧
          (∀ x, x < 64 → t.fld (Reg.numGctrl x) 39 32 = if x ∈ s.groupsOf g then s.fld (Reg.numGctrl x) 47 40 else s.fld (Reg.numGctrl x) 39 32) ∧
          (∀ l, (∀ c ∈ cs, ∀ i, i < 8 → l ≠ .tier (s.calBase c + 8 + i)) → t.byteAt l = s.byteAt l)))

/-- DEVICE_RECORD, after the held writes of the context take effect: the record holds the saturated sum of the accumulators of the context's clusters, their flags, and the counts of the slots of its groups, and accumulators and
slots are zero. MILL_TOTAL_RETURN: G holds the total; with NF or OVF the step is skipped, counted, with clip factor 0, else NORM and CLIP take the exact norm and clip factor rounded once; every unit of the context that waits gets
the factor, and each group of the context takes its next exponent by the sizing rule. -/
def Obligations.NumFormsNorm : Prop :=
  ∀ (s : State) (b : Nat), b < 16 → s.waits = [] →
    let cs := s.clustersOf b
    let sum := cs.foldl (fun n c => n + (s.calAt c).norm) 0
    let u := s.numApply b
    let slot (g : Nat) : Nat := u.fld (Reg.numGctrl g) 15 8
    let named (g : Nat) : Prop := g < 64 ∧ u.bit (Reg.numGctrl g) 0 = true ∧ u.fld (Reg.numGctrl g) 4 1 = b
    (cs ≠ [] → s.bit (Reg.numCtxCtrl b) 0 = true → (∀ c ∈ cs, (s.calAt c).contributed = true ∧ (s.calAt c).clip = none) → (∀ r ∈ s.numRecs, r.ctx ≠ b) →
      Completes (.deviceRecord b) s fun t =>
        SameBytes s t ∧ SameCores s t [] ∧ t.numHeld = s.numHeld.filter (fun h => h.ctx != b) ∧
        (∀ c ∈ cs, (t.calAt c).norm = 0 ∧ (t.calAt c).nf = false ∧ (t.calAt c).ovf = false) ∧ (∀ g i, named g → i < 5 → t.raw (Reg.numSlotCnt (slot g) i) = 0) ∧
        ∃ r, t.numRecs = s.numRecs ++ [r] ∧ r.ctx = b ∧ r.total = !(u.bit (Reg.numCtxCtrl b) 1) ∧ r.cells.length = 9 ∧ recG r.cells = min sum (2 ^ 320 - 1) ∧
          recWord r.cells 5 = b2n (cs.any fun c => (s.calAt c).nf) + 2 * b2n ((cs.any fun c => (s.calAt c).ovf) || decide (2 ^ 320 ≤ sum)) ∧
          (∀ g, g < 64 → ¬named g → ∀ i, i < 4 → recWord r.cells (32 + 4 * g + i) = 0) ∧
          (∀ g, named g → (∀ g', g' < g → named g' → slot g' ≠ slot g) → ∀ i, i < 4 →
            recWord r.cells (32 + 4 * g + i) = (u.raw (Reg.numSlotCnt (slot g) ([0, 1, 3, 4].getD i 0))).toNat)) ∧
    (∀ r, s.numRecs.find? (fun r => r.ctx == b && r.total) = some r →
      let skip := decide (recWord r.cells 5 % 4 ≠ 0)
      Completes (.millTotalReturn b) s fun t =>
        let clip := if skip then 0 else clipFactor (s.cur (Reg.numCtxClipmax b)).toNat (recG r.cells)
        let root := if recG r.cells = 0 then (0, (0 : Int)) else sqrtMag (recG r.cells) (-160)
        (∀ i, i < 5 → t.raw (Reg.numCtxG b i) = BitVec.ofNat 64 (recWord r.cells i)) ∧ t.bit (Reg.numCtxCtrl b) 2 = skip ∧
        t.raw (Reg.numCtxClip b) = BitVec.ofNat 64 clip ∧ (t.raw (Reg.numCtxSkips b)).toNat = min ((s.raw (Reg.numCtxSkips b)).toNat + b2n skip) (2 ^ 64 - 1) ∧
        t.raw (Reg.numCtxNorm b) = (if skip then s.raw (Reg.numCtxNorm b) else BitVec.ofNat 64 (fp64.round .near false (.fin false root.1 root.2)).1) ∧
        (∀ c ∈ cs, (s.calAt c).contributed = true → (t.calAt c).clip = some (clip, skip)) ∧ (∀ c ∈ cs, s.calPhase c = 1 → t.calPhase c = 2) ∧
        (∀ x ∈ s.groupsOf b,
          let n (i : Nat) : Nat := recWord r.cells (32 + 4 * x + i)
          let l := s.cur (Reg.numGlim x)
          let z := sizing (s.fld (Reg.numGctrl x) 39 32) (s.fld (Reg.numGctrl x) 63 48) (n 0) (n 1) (n 2) (n 3) (wfld l 15 0) (wfld l 31 16) (wfld l 47 32)
            (sext 8 (wfld l 55 48)) (sext 8 (wfld l 63 56))
          t.raw (Reg.numGctrl x) = wsetFld (wsetFld (s.raw (Reg.numGctrl x)) 47 40 (toBits 8 z.1)) 63 48 (min z.2 65535)) ∧
        (∀ x ∈ t.numRecs, x.ctx ≠ b) ∧ SameBytes s t ∧ SameCores s t [])

/-- Writes of calender and NUM registers. CAL_CTRL_QRESET: PHASE 0, no error, the unit as after reset, DONE and ERR in the queue's memory zero, when there is a queue. CAL_QBASE_STEP_WRITE: taken by an idle unit, ignored with WIGN
set by another; an unaligned QBASE changes nothing. NUM_SLOT_CTRL_CLR: the fields take the value, and with CLR the counts of the slot are zero and EXPMAX is −32,768. NUM_CONTEXT_OR_GROUP_WRITE: between CONTRIB and END of the context
the write is held, else each writable field of its register takes its value where it is a listed one, and no other register changes. That a write after END is made at once while an earlier one is still held, and that ZCUR and ZNEXT take
every value, are the model's choices (assumption log rows 181 and 74). -/
def Obligations.CalenderRegisterWrites : Prop :=
  ∀ (s : State) (c : Nat) (v : Word), c < 100 → s.Calm → s.phase = 7 →
    let b := s.calBase c
    let idle := (b = 0 ∨ s.calTail c = (s.calAt c).done) ∧ s.calPhase c = 0
    (Completes (.calCtrlQreset c) s fun t =>
      t.calAt c = Cal.reset ∧ t.calPhase c = 0 ∧ t.fld (Reg.calStatus c) 15 8 = 0 ∧ (b = 0 → SameBytes s t) ∧
      ((∀ u, s.errAt u = 0) → 0 < b → b % 4096 = 0 → s.InTiers b 4096 → t.num none (b + 8) 8 = 0 ∧ t.num none (b + 0x10) 8 = 0 ∧
        (∀ l, (∀ i, i < 16 → l ≠ .tier (b + 8 + i)) → t.byteAt l = s.byteAt l))) ∧
    (idle → wfld v 47 0 % 4096 = 0 → Completes (.calQbaseStepWrite c false v) s fun t => t.calBase c = wfld v 47 0 ∧ SameRegs s t [Reg.calQbase c] ∧ t = { s with csr := t.csr }) ∧
    (idle → wfld v 47 0 % 4096 ≠ 0 → exec (.calQbaseStepWrite c false v) s = .next s) ∧
    (idle → exec (.calQbaseStepWrite c true v) s = .next (s.put (Reg.calStep c) v)) ∧
    (∀ st, ¬ idle → Completes (.calQbaseStepWrite c st v) s fun t => t.bit (Reg.calStatus c) 16 = true ∧ SameRegs s t [Reg.calStatus c] ∧ t = { s with csr := t.csr }) ∧
    (∀ j, j < 256 → Completes (.numSlotCtrlClr j v) s fun t =>
      t.raw (Reg.numSlotCtrl j) = (s.raw (Reg.numSlotCtrl j) &&& 0x8000000000000000) ||| (v &&& 0x600FFFFFFFFFF000) ∧ t = { s with csr := t.csr } ∧
      SameRegs s t ([Reg.numSlotCtrl j, Reg.numSlotExpmax j] ++ (upto 5).map fun i => Reg.numSlotCnt j i) ∧
      (∀ i, i < 5 → t.raw (Reg.numSlotCnt j i) = if wfld v 63 63 = 1 then 0 else s.raw (Reg.numSlotCnt j i)) ∧
      t.raw (Reg.numSlotExpmax j) = if wfld v 63 63 = 1 then 0x8000 else s.raw (Reg.numSlotExpmax j)) ∧
    (∀ off, 0xB01000 ≤ off → off < 0xB02400 → off % 8 = 0 →
      let own := s.numOwner off
      let waits := ∃ x ∈ s.clustersOf own, (s.calAt x).contributed = true
      (waits → exec (.numContextOrGroupWrite off v) s = .next { s with numHeld := s.numHeld ++ [⟨own, off, 2 ^ 64 - 1, v⟩] }) ∧
      (¬waits → Completes (.numContextOrGroupWrite off v) s fun t => SameRegs s t [off] ∧ t = { s with csr := t.csr } ∧
        (∀ x, x < 16 → off = Reg.numCtxCtrl x → t.raw off = (s.raw off &&& 4) ||| (v &&& 3)) ∧ (∀ x, x < 16 → off = Reg.numCtxClipmax x → t.raw off = v) ∧
        (∀ x, x < 64 → off = Reg.numGctrl x → t.raw off = v &&& 0xFFFFFFFF0000FF1F) ∧
        (∀ x, x < 64 → off = Reg.numGlim x →
          let ok (hi lo : Nat) : Prop := -32 ≤ sext 8 (wfld v hi lo) ∧ sext 8 (wfld v hi lo) ≤ 31
          let got (hi lo : Nat) : Nat := wfld (t.raw off) hi lo
          let had (hi lo : Nat) : Nat := wfld (s.raw off) hi lo
          got 31 0 = wfld v 31 0 ∧ got 47 32 = (if wfld v 47 32 = 0 then had 47 32 else wfld v 47 32) ∧
          (ok 55 48 → got 55 48 = wfld v 55 48) ∧ (¬ok 55 48 → got 55 48 = had 55 48) ∧
          (ok 63 56 → got 63 56 = wfld v 63 56) ∧ (¬ok 63 56 → got 63 56 = had 63 56))))

/-! ### Ordered-reduction buffers and caches -/

/-- ORB_REDUCTION of an enabled buffer without an error, without watermarks, in the tiers, of a cluster that no scan has stopped: when ARRIVE holds every contributor's bit and no other, each destination element is the sum of its sources in fixed order, rounded
at each addition, ARRIVE is zero and DONE rises by one, and no byte elsewhere changes; while a contributor is missing nothing happens but the page checks; a bit of ARRIVE at or above NCON gives ERR 3. -/
def Obligations.OrbReduces : Prop :=
  ∀ (s : State) (c j : Nat), c < 100 → j < 8 → s.Calm → (∀ u, s.errAt u = 0) → s.bit (Reg.orbCtrl c j) 0 = true → s.fld (Reg.orbStat c j) 15 8 = 0 → c ∉ s.sys.scanned →
    let o := s.orbCfg c j
    let n := o.elems * o.sz
    let arrive := s.num none o.cb 8
    o.wm = false → s.InTiers o.cb 64 → s.checkRange (some c) none .read o.cb 64 = none →
    (arrive < 2 ^ o.ncon - 1 → Completes (.orbReduction c j) s fun t => PagesOnly s t) ∧
    (2 ^ o.ncon ≤ arrive → Completes (.orbReduction c j) s fun t => t.fld (Reg.orbStat c j) 15 8 = 3 ∧ SameRegs s t [Reg.orbStat c j, Reg.memPatmiss] ∧ t = { s with csr := t.csr, clusters := t.clusters }) ∧
    (arrive = 2 ^ o.ncon - 1 → s.orbBadRange c o = false → o.fmt < 3 → s.InTiers o.dst n → s.InTiers o.stage (n * o.ncon) →
      o.cb + 64 ≤ o.dst ∨ o.dst + n ≤ o.cb → o.cb + 64 ≤ o.stage ∨ o.stage + n * o.ncon ≤ o.cb →
      Completes (.orbReduction c j) s fun t =>
        (∀ e, e < o.elems → t.num none (o.dst + o.sz * e) o.sz = (orbSum o.fmt ((o.srcs e).map fun a => s.num none a o.sz)).1 % 2 ^ (8 * o.sz)) ∧
        t.num none o.cb 8 = 0 ∧ t.num none (o.cb + 8) 8 = (s.num none (o.cb + 8) 8 + 1) % 2 ^ 64 ∧ t.fld (Reg.orbStat c j) 15 8 = 0 ∧
        (∀ l, (∀ i, i < n → l ≠ .tier (o.dst + i)) → (∀ i, i < 16 → l ≠ .tier (o.cb + i)) → t.byteAt l = s.byteAt l))

/-- L2_ORB_CTRL_EN writes the configuration, whose format stays where the value is no format, and EN = 0 clears the error; while the buffer reduces the write is ignored. PREFETCH_FILL_RETURN: sound data of a live fill enters the side
buffer, a dead fill is discarded; neither changes memory. BACK_INVALIDATE_RESPONSE: the host holds the line no more. CXL_CACHE_HOST_SNOOP: the device answers whether an L2 held the line dirty; after an invalidation no L2 holds the line
and the host's data stands in it, else every copy is clean. When a buffer is BUSY, that a full side buffer frees its oldest line, and that the host's data comes with the snoop, are the model's choices (assumption log rows 75, 76
and 143). -/
def Obligations.CachesAnswer : Prop :=
  ∀ (s : State),
    (∀ (c j : Nat) (v : Word), c < 100 → j < 8 → s.phase = 7 → s.waits = [] →
      let off := Reg.orbCtrl c j
      let new := v &&& 0x00000FFFFF03F01F
      (s.orbBusy c j = true → exec (.l2OrbCtrlEn c j v) s = .next s) ∧
      (s.orbBusy c j = false → Completes (.l2OrbCtrlEn c j v) s fun t =>
        t.raw off = (if wfld v 2 1 ≤ 2 then new else wsetFld new 2 1 (wfld (s.raw off) 2 1)) ∧
        t.raw (Reg.orbStat c j) = (if v.getLsbD 0 then s.raw (Reg.orbStat c j) else wsetFld (s.raw (Reg.orbStat c j)) 15 8 0) ∧
        SameRegs s t [off, Reg.orbStat c j] ∧ t = { s with csr := t.csr })) ∧
    (∀ (pos idx : Nat) (f : PfFill), pos < 1300 → s.Calm → (∀ u, s.errAt u = 0) → s.hif.linkUp = true → (∀ i, s.handover i = false) → (s.coreAt pos).caches.pfFills[idx]? = some f →
      Completes (.prefetchFillReturn pos idx) s fun t =>
        let x := (s.coreAt pos).caches
        (t.coreAt pos).caches.pfFills = dropAt x.pfFills idx ∧
        (t.coreAt pos).caches.side = (if f.dead then x.side else if x.side.length < 16 then x.side ++ [f.line] else x.side.drop 1 ++ [f.line]) ∧
        SameBytes s t ∧ (t.coreAt pos).arch = (s.coreAt pos).arch ∧ SameCores s t [pos] ∧ SameRegs s t [Reg.l2Cnt (pos / 13) 5] ∧
        t.raw (Reg.l2Cnt (pos / 13) 5) = s.raw (Reg.l2Cnt (pos / 13) 5) + (if f.dead = false ∧ 16 ≤ x.side.length then 1 else 0)) ∧
    (∀ line, s.waits = [] → line ∈ s.hif.biWait →
      Completes (.backInvalidateResponse line) s fun t =>
        line ∉ t.hif.biWait ∧ line ∉ t.hif.snoop ∧ (∀ x, x ≠ line → (x ∈ t.hif.snoop ↔ x ∈ s.hif.snoop) ∧ (x ∈ t.hif.biWait ↔ x ∈ s.hif.biWait)) ∧
        t = { s with hif := { s.hif with biWait := t.hif.biWait, snoop := t.hif.snoop } }) ∧
    (∀ line kind, s.waits = [] → (∀ u, s.errAt u = 0) → Sparse.wf clusterReset s.clusters = true → (∀ c, Sparse.wf emptyLine (s.cluAt c).l2 = true) →
      let names (l : CLine) : Prop := l.valid = true ∧ ∃ n a, s.locate none (l.line * 128) = .host n a ∧ a / 128 = line
      let wr := snoopTakes kind = true
      let data := snoopStores kind
      Completes (.cxlCacheHostSnoop line kind) s fun t =>
        (∃ d, t.hif.out = s.hif.out ++ [.snoopReply line d] ∧ (d = true ↔ ∃ c w, let l := Sparse.get emptyLine (s.cluAt c).l2 w; names l ∧ l.dirty = true)) ∧
        (∀ c w, let l := Sparse.get emptyLine (t.cluAt c).l2 w; (wr → ¬names l) ∧ (¬wr → names l → l.dirty = false)) ∧
        (∀ n i, i < 128 → i < data.length → t.byteAt (.host n (128 * line + i)) = data.getD i 0) ∧
        (∀ l, (∀ n i, i < 128 → i < data.length → l ≠ .host n (128 * line + i)) → t.byteAt l = s.byteAt l) ∧ SameRegs s t [] ∧ SameCores s t [])

/-! ### Memory tiers -/

/-- MEM_PATVAL_WRITE stores the value in the table entry that MEM.PATIDX names, with the update under way and its former value kept for clusters that cache it; a write while one is under way is
ignored, and one outside the reel tier sets ERR. PAT_UPDATE_DONE ends the update. MEM_PATCTL_EN writes base and EN, the base only while EN = 0; a table that does not fit sets ERR and leaves EN; turning EN on
empties every cluster's entries. That a cluster which caches the entry goes on with its former value, and that EN empties every cluster's entries, are the model's choices (assumption log rows 22 and 77). -/
def Obligations.PageTableUpdates : Prop :=
  ∀ (s : State), s.sys.cfgApplied = true →
    (∀ v, s.Calm → s.phase = 7 →
      let x := s.fld Reg.memPatidx 19 0
      let a := s.patBase + 8 * x
      (s.bit Reg.memPatidx 63 = true → exec (.memPatvalWrite v) s = .next s) ∧
      (s.bit Reg.memPatidx 63 = false → s.capBytes < a + 8 →
        Completes (.memPatvalWrite v) s fun t => t.bit Reg.memPatctl 1 = true ∧ SameRegs s t [Reg.memPatctl] ∧ t = { s with csr := t.csr }) ∧
      (s.bit Reg.memPatidx 63 = false → a + 8 ≤ s.capBytes → (∀ u, s.errAt u = 0) →
        Completes (.memPatvalWrite v) s fun t =>
          t.tableEntry x = v ∧ t.mem.patBusy = some ⟨x, s.tableEntry x, (s.clusters.filter fun k => k.2.pat.contains x).map (·.1)⟩ ∧ t.bit Reg.memPatidx 63 = true ∧
          (∀ l, (∀ i, i < 8 → l ≠ .tier (a + i)) → t.byteAt l = s.byteAt l) ∧ (∀ p, (t.coreAt p).arch = (s.coreAt p).arch ∧ (t.coreAt p).ldm = (s.coreAt p).ldm) ∧
          (∀ off, off ≠ Reg.memPatidx → (∀ c, off ≠ Reg.l2Cnt c 5) → t.raw off = s.raw off))) ∧
    (s.waits = [] → Completes .patUpdateDone s fun t =>
      t.bit Reg.memPatidx 63 = false ∧ t = { s with csr := t.csr, mem := { s.mem with patBusy := none } } ∧ SameRegs s t [Reg.memPatidx]) ∧
    (∀ v, s.waits = [] → s.phase = 7 →
      let base := if s.patEn then s.patBase else wfld v 47 21 * 2 ^ 21
      Completes (.memPatctlEn v) s fun t =>
        t.patBase = base ∧ SameRegs s t [Reg.memPatctl] ∧ SameBytes s t ∧ SameCores s t [] ∧
        (wfld v 0 0 = 0 → t.patEn = false ∧ SameClusters s t []) ∧
        (wfld v 0 0 = 1 → s.capBytes < base + patBytes → t.patEn = s.patEn ∧ t.bit Reg.memPatctl 1 = true) ∧
        (wfld v 0 0 = 1 → base + patBytes ≤ s.capBytes → t.patEn = true ∧
          (s.patEn = false → Sparse.wf clusterReset s.clusters = true → ∀ c, t.cluAt c = { s.cluAt c with pat := [] })))

/-- SCRUB_PASS and FELT_SCRUB read one unit: without an error nothing changes; a correctable error is corrected and counted; an uncorrectable one stays, is counted and posts class 0x02. No data changes. Flipped bits of a reel sector are
corrected where its code finds them and uncorrectable where the code fails; two flipped bits of a felt word are uncorrectable. BANK_GRANT: the oldest request of a bank queue has been served and leaves it; of a full queue its entry
goes to the oldest request of the first cluster that waits after the last one granted, in ascending order with wrapping; in a retraining window nothing is served. That an element of 64 bits fails with two flipped bits, and which requests enter a bank queue, are the model's choices (assumption log rows 164
and 78). -/
def Obligations.ScrubbersCorrect : Prop :=
  ∀ (s : State), s.waits = [] →
    (∀ (a : Nat), s.mem.isOpen = true →
      let after (u : Nat) (err : ErrKind) : Nat := match err with
        | .good => s.errAt u
        | .corrected => if s.errAt u = 2 then 2 else 1
        | .uncorrectable => 2
        | .flips b =>
          if isFelt u then min (s.errAt u + popCount 288 b.toNat) 2
          else if s.errAt u = 0 ∧ s.flipsAt u = 0 ∧ rsDecode b.toNat = .fixed b.toNat then 1
          else if s.errAt u = 0 ∧ s.flipsAt u = 0 ∧ rsDecode b.toNat = .failed then 2 else 3
      (a < s.capBytes → a < feltBase → ∀ err,
        let u := a / 32 * 32
        let ch := (s.place u).ch
        after u err ≠ 3 →
        Completes (.scrubPass a err) s fun t => SameBytes s t ∧ SameCores s t [] ∧ SameClusters s t [] ∧
          (after u err = 0 → t = s) ∧
          (after u err = 1 → s.bit (Reg.memEcc (ch / 64)) 0 = false → t.errAt u = 0 ∧ t.raw (Reg.memChCe ch) = s.raw (Reg.memChCe ch) + 1) ∧
          (after u err = 2 → t.errAt u = 2 ∧ t.raw (Reg.memChUe ch) = s.raw (Reg.memChUe ch) + 1 ∧ t.raw Reg.relEvhead = s.raw Reg.relEvhead + 1)) ∧
      (isFelt a = true → ∀ err, err ≠ .flips 0 →
        let u := a / 8 * 8
        let n := (u - feltBase) / 2 ^ 30
        Completes (.feltScrub a err) s fun t => SameBytes s t ∧ SameCores s t [] ∧ SameClusters s t [] ∧
          (after u err = 0 → t = s) ∧
          (after u err = 1 → t.errAt u = 0 ∧ t.raw (Reg.memFeltCe n) = s.raw (Reg.memFeltCe n) + 1) ∧
          (after u err = 2 → t.errAt u = 2 ∧ t.raw (Reg.memFeltUe n) = s.raw (Reg.memFeltUe n) + 1 ∧ t.raw Reg.relEvhead = s.raw Reg.relEvhead + 1))) ∧
    (∀ ch bank, ch < 1280 → bank < 48 →
      let k := ch * 48 + bank
      let q := s.bankAt k
      let shut := s.bit (Reg.memChStat ch) 4
      (shut = true ∨ (q.queue = [] ∧ q.waiting = []) → exec (.bankGrant ch bank) s = .next s) ∧
      (∀ id ids, shut = false → q.queue = id :: ids → id ∉ ids → q.waiting = [] ∨ ids.length = 15 →
        Completes (.bankGrant ch bank) s fun t =>
          (∀ j, j ≠ k → t.bankAt j = s.bankAt j) ∧
          (q.waiting = [] → t = { s with mem := { s.mem with bankq := t.mem.bankq } } ∧ t.bankAt k = { q with queue := ids }) ∧
          (∀ w, (∀ x ∈ q.waiting, x.1 < 100) → q.last < 100 → w ∈ q.waiting → q.waiting.find? (fun x => x.1 == w.1) = some w →
            (∀ x ∈ q.waiting, (w.1 + 99 - q.last) % 100 ≤ (x.1 + 99 - q.last) % 100) → (s.cluAt w.1).victims.find? (fun v => v.2 == w.2) = none →
            t = { s with mem := { s.mem with bankq := t.mem.bankq } } ∧ t.bankAt k = { queue := ids ++ [w.2], waiting := q.waiting.erase w, last := w.1 })))

/-- RETRAINING_WINDOW_START opens a window on a channel in service, one channel of a stack at a time, and counts it. RETRAINING_WINDOW_END closes it: success clears the mark of a first failure, a first failure
sets it, and a second in a row makes a channel in service SUSPECT with cause 4. ROW_REMAP of a row that has failed: it is served by the lowest unused spare row of its bank under its entry of the remap table, or, when it has been
remapped twice, no spare row is left or no entry is free, its channel becomes SUSPECT with cause 1, 2 or 3. That the lowest spare row and the lowest entry are taken, and that no time need lie between two windows of a stack, are the model's choices (assumption log rows 79 and 83). -/
def Obligations.ChannelsAndRows : Prop :=
  ∀ (s : State) (ch : Nat), ch < 1280 → s.waits = [] → s.sys.fwRuns = true →
    let suspect (t : State) (cause : Nat) : Prop :=
      t.chState ch = 1 ∧ t.fld (Reg.memChStat ch) 11 8 = cause ∧ t.mem.suspects = s.mem.suspects ++ [ch] ∧ t.raw Reg.relEvhead = s.raw Reg.relEvhead + 1 ∧ SameBytes s t
    ((s.chState ch ≤ 1 ∧ ∀ i, i < 64 → s.bit (Reg.memChStat (ch / 64 * 64 + i)) 4 = false) →
      Completes (.retrainingWindowStart ch) s fun t =>
        t.bit (Reg.memChStat ch) 4 = true ∧ t.raw (Reg.memChRetrains ch) = s.raw (Reg.memChRetrains ch) + 1 ∧ t = { s with csr := t.csr } ∧
        SameRegs s t [Reg.memChStat ch, Reg.memChRetrains ch]) ∧
    ((1 < s.chState ch ∨ ∃ i, i < 64 ∧ s.bit (Reg.memChStat (ch / 64 * 64 + i)) 4 = true) → exec (.retrainingWindowStart ch) s = .next s) ∧
    (s.bit (Reg.memChStat ch) 4 = true → ∀ ok : Bool,
      Completes (.retrainingWindowEnd ch ok) s fun t => t.bit (Reg.memChStat ch) 4 = false ∧
        (ok = true → ch ∉ t.mem.rtTry ∧ t.chState ch = s.chState ch ∧ SameRegs s t [Reg.memChStat ch]) ∧
        (ok = false → ch ∉ s.mem.rtTry → t.mem.rtTry = s.mem.rtTry ++ [ch] ∧ t.chState ch = s.chState ch ∧ SameRegs s t [Reg.memChStat ch]) ∧
        (ok = false → ch ∈ s.mem.rtTry → s.chState ch = 0 → ch ∉ t.mem.rtTry ∧ suspect t 4)) ∧
    (∀ rank bank row, rank < 3 → bank < 16 → row < 12288 →
      let key := rowKey ⟨ch, rank, bank, row, 0⟩
      let n := s.remapCount ch rank bank row
      let go (P : State → Prop) : Prop := Completes (.rowRemap ch rank bank row) s fun t => key ∉ t.mem.rowFails ∧ P t
      key ∈ s.mem.rowFails → s.chState ch ≠ 3 →
      (2 ≤ n → s.chState ch = 0 → go fun t => suspect t 1) ∧
      (n < 2 → s.freeSpare ch rank bank = none → s.chState ch = 0 → go fun t => suspect t 2) ∧
      (∀ p, n < 2 → s.freeSpare ch rank bank = some p → s.entryForRow ch rank bank row = none → s.chState ch = 0 → go fun t => suspect t 3) ∧
      (∀ p e, n < 2 → s.freeSpare ch rank bank = some p → s.entryForRow ch rank bank row = some e → (∀ u, s.errAt u = 0) → go fun t =>
        let w := t.remapAt ch e
        t.remapFind ch rank bank row = some e ∧ wfld w 3 0 = p ∧ wfld w 61 60 = n + 1 ∧
        (∀ e', e' < 256 → e' ≠ e → t.remapAt ch e' = s.remapAt ch e') ∧ SameBytes s t ∧ t.chState ch = s.chState ch ∧
        t.fld (Reg.memChStat ch) 47 39 = (s.fld (Reg.memChStat ch) 47 39 + if (s.remapFind ch rank bank row).isSome then 0 else 1) % 512))

/-- SURRENDER_REQUEST asks for the last 577 pages for the SUSPECT channel that came first, telling the host, or takes the channel off the list when 32 are mapped out. SURRENDER_DEADLINE sets LATE, once for each request. MEM_SURACK of 577: a range in
use sets BAD, a free one is given up: the capacity falls, the channel drains, and the migration is under way; any other value is ignored. MIGRATION_DONE: the channel is mapped out and counted, and every byte still
reads as before. When the capacity and the placement change, and that a value without a request is ignored, are the model's choices (assumption log rows 21, 81 and 82). -/
def Obligations.SurrenderMapsOut : Prop :=
  ∀ (s : State), s.Calm → s.sys.fwRuns = true →
    let pages := s.fld Reg.memCapacity 31 0
    (∀ ch rest, s.bit Reg.memSurreq 63 = false → s.mem.mig = none → s.mem.suspects = ch :: rest → ch < 1280 → 577 ≤ pages →
      Completes .surrenderRequest s fun t =>
        (s.fld Reg.memCapacity 39 32 < 32 → t.bit Reg.memSurreq 63 = true ∧ t.fld Reg.memSurreq 58 48 = ch ∧ t.fld Reg.memSurreq 47 32 = 577 ∧
          t.fld Reg.memSurreq 31 0 = pages - 577 ∧ t.bit Reg.hifEvt 0 = true ∧ t.mem = { s.mem with late := false } ∧ SameRegs s t [Reg.memSurreq, Reg.hifEvt]) ∧
        (32 ≤ s.fld Reg.memCapacity 39 32 → t.mem.suspects = rest ∧ t.bit Reg.memSurreq 63 = false ∧ t.raw Reg.relEvhead = s.raw Reg.relEvhead + 1)) ∧
    (s.bit Reg.memSurreq 63 = false ∨ s.mem.late = true → exec .surrenderDeadline s = .next s) ∧
    (s.bit Reg.memSurreq 63 = true → s.mem.late = false →
      Completes .surrenderDeadline s fun t => t.bit Reg.memSurstat 1 = true ∧ t.raw Reg.relEvhead = s.raw Reg.relEvhead + 1 ∧ t.mem = { s.mem with late := true } ∧
        t.fld Reg.memCapacity 31 0 = pages) ∧
    (∀ v, s.phase = 7 → s.bit Reg.memSurreq 63 = true →
      let first := s.fld Reg.memSurreq 31 0
      let ch := s.fld Reg.memSurreq 58 48
      (v ≠ 577 → exec (.memSurack v) s = .next s) ∧
      (s.rangeFree first = false → Completes (.memSurack 577) s fun t => t.bit Reg.memSurstat 0 = true ∧ SameRegs s t [Reg.memSurstat] ∧ t = { s with csr := t.csr }) ∧
      (s.rangeFree first = true → ch < 1280 → 577 ≤ pages → Completes (.memSurack 577) s fun t =>
        t.fld Reg.memCapacity 31 0 = pages - 577 ∧ t.bit Reg.memSurreq 63 = false ∧ t.fld Reg.memSurreq 62 0 = s.fld Reg.memSurreq 62 0 ∧ t.bit Reg.memSurstat 2 = true ∧ t.chState ch = 2 ∧
        (∀ a, t.capBytes ≤ a → a < s.capBytes → s.capBytes ≤ feltBase → t.locate none a = .hole) ∧
        t.mem = { s.mem with mig := some ⟨ch, s.mem.dead, pages⟩, dead := s.mem.dead ++ [ch], suspects := s.mem.suspects.filter (· ≠ ch) } ∧
        t.raw Reg.relEvhead = s.raw Reg.relEvhead + 1 ∧ SameCores s t [])) ∧
    (∀ m : Migration, s.mem.mig = some m → m.ch < 1280 → (∀ u, s.errAt u = 0) →
      Completes .migrationDone s fun t =>
        t.mem.mig = none ∧ t.chState m.ch = 3 ∧ t.bit Reg.memSurstat 2 = false ∧ t.bit (Reg.memDead (m.ch / 64)) (m.ch % 64) = true ∧
        t.fld Reg.memCapacity 39 32 = (s.fld Reg.memCapacity 39 32 + 1) % 256 ∧ t.fld Reg.memCapacity 31 0 = pages ∧ SameBytes s t ∧ SameCores s t [] ∧
        t.raw Reg.memMigbytes = s.raw Reg.memMigbytes + BitVec.ofNat 64 (512 * movedUnits m.oldDead s.mem.dead m.oldPages pages))

/-! ### Fabric -/

/-- CELL_RECEIVE: a port out of service ignores cells; one whose CRC fails counts and asks for a replay; one whose CRC holds frees the acknowledged cells and adds its credits, and in its turn a cell for another device is
held for its route, and a data cell for this device lands at its place in the flow's slot with the cells before it that a watermark window has kept back, its last cell counting the message on its logical core's counter; a cell
of a guarded block that does not end it is kept back in the receive buffer; a partial sum lands at its place in the scratch region of its collective. Codewords of the FEC count, and more than 16 that it cannot correct
within 1 ms make a port in UP retrain. How codewords come with a cell, that the hop fields of every sound cell are used, where a partial sum lands, that each cell counts as one write, that a guarded block is kept back, and what a
message says to the snapshot engine are the model's choices (assumption log rows 159, 86, 95, 178, 189 and 187). -/
def Obligations.CellsArriveInOrder : Prop :=
  ∀ (s : State) (p : Nat) (c : Cell) (fec : FecCount) (part : Option PartMsg), p < 36 → s.Calm →
    let st := s.portState p
    let x := s.portAt p
    let cmd := Instr.cellReceive p ⟨c, fec, part⟩
    let late := if fec.bad = 0 then x.fecBad else x.fecBad.filter (fun e => decide (s.sys.time < e.1 + 1000000)) ++ [(s.sys.time, fec.bad)]
    let recent := ((late.filter fun e => decide (s.sys.time < e.1 + 1000000)).map (·.2)).sum
    (st = 0 ∨ st = 4 ∨ st = 5 → exec cmd s = .next s) ∧
    (1 ≤ st → st ≤ 3 → Cell.crcOk c = false ∨ fec.bad ≠ 0 →
      (recent ≤ 16 ∨ st ≠ 3 → Completes cmd s fun t =>
        t.portAt p = { x with nak := true, fecBad := late } ∧ t.raw (Reg.fabPCnt p 4) = s.raw (Reg.fabPCnt p 4) + 1 ∧
        t.raw (Reg.fabPCnt p 2) = s.raw (Reg.fabPCnt p 2) + BitVec.ofNat 64 fec.corrected ∧ t.raw (Reg.fabPCnt p 3) = s.raw (Reg.fabPCnt p 3) + BitVec.ofNat 64 fec.bad ∧
        SameRegs s t [Reg.fabPCnt p 2, Reg.fabPCnt p 3, Reg.fabPCnt p 4] ∧
        (∀ q, q ≠ p → t.portAt q = s.portAt q) ∧ t = { s with csr := t.csr, snap := { s.snap with told := t.snap.told }, fab := { s.fab with ports := t.fab.ports } }) ∧
      (16 < recent → st = 3 → Completes cmd s fun t =>
        t.portState p = 4 ∧ t.portAt p = { x with nak := true, resend := [], replays := 0, fecBad := [] } ∧ t.raw (Reg.fabPCnt p 6) = s.raw (Reg.fabPCnt p 6) + 1 ∧
        (∀ q, q ≠ p → t.portAt q = s.portAt q) ∧ SameBytes s t ∧ SameCores s t [])) ∧
    (st = 3 → Cell.crcOk c = true → fec.bad = 0 → recent ≤ 16 → Cell.seq c = x.rxSeq → x.gap = [] → Cell.fld c 7 7 = 0 → 1 ≤ Cell.typ c → Cell.typ c ≤ 3 →
      (Cell.dst c ≠ s.fld Reg.fabMyid 11 0 → ∀ q, s.routeOf (Cell.dst c) = some q → q ≠ p →
        Completes cmd s fun t =>
          let y := t.portAt p
          y.rxSeq = (x.rxSeq + 1) % 4096 ∧ y.rx = x.rx ++ [c] ∧ y.credRet = x.credRet ∧ t.portCredit p = min 963 (s.portCredit p + Cell.fld c 39 32) ∧
          t.raw (Reg.fabPCnt p 1) = s.raw (Reg.fabPCnt p 1) + 1 ∧ SameBytes s t ∧ SameCores s t [] ∧ (∀ q, q ≠ p → t.portAt q = s.portAt q) ∧
          (∀ pre z post, x.replay = pre ++ z :: post → (∀ w ∈ pre, Cell.seq w ≠ Cell.fld c 31 20) → Cell.seq z = Cell.fld c 31 20 → y.replay = post) ∧
          ((∀ w ∈ x.replay, Cell.seq w ≠ Cell.fld c 31 20) → y.replay = x.replay)) ∧
      (Cell.dst c = s.fld Reg.fabMyid 11 0 → Cell.typ c = 1 →
        let f := Cell.flow c
        let idx := Sparse.get zeroNat s.fab.recvIdx f
        let n := s.fld (Reg.fabRflow f 2) 63 32
        let a := s.fld (Reg.fabRflow f 1) 47 0 + n % (max 1 (s.fld (Reg.fabRflow f 2) 15 0)) * s.rflow f 31 0 + 256 * idx
        let kept := Sparse.get noPayloads s.fab.held f
        let guarded := (shadowOf s.wins (a / 4096 * 4096)).isSome
        let a0 := a - 256 * kept.length
        s.rflow f 63 63 = 1 → Cell.wb c = false → Cell.aux c = idx → 256 * (idx + 1) ≤ s.rflow f 31 0 → s.checkPage none none .write a = none →
        (guarded = true → Cell.last c = false → a % 4096 ≠ 3840 →
          Completes cmd s fun t =>
            (t.portAt p).rxSeq = (x.rxSeq + 1) % 4096 ∧ (t.portAt p).credRet = x.credRet ∧ Sparse.get noPayloads t.fab.held f = kept ++ [c.payload] ∧
            Sparse.get zeroNat t.fab.recvIdx f = idx + 1 ∧ SameBytes s t ∧ SameCores s t []) ∧
        (guarded = false ∨ Cell.last c = true ∨ a % 4096 = 3840 → 256 * kept.length ≤ a → s.InTiers a0 (256 * (kept.length + 1)) → (∀ u, s.errAt u = 0) → s.partnerOf f = none →
          Completes cmd s fun t =>
            (t.portAt p).rxSeq = (x.rxSeq + 1) % 4096 ∧ (t.portAt p).credRet = x.credRet + 1 + kept.length ∧ Sparse.get noPayloads t.fab.held f = [] ∧
            (∀ i, i ≤ kept.length → t.num none (a0 + 256 * i) 256 = ((kept ++ [c.payload]).getD i 0).toNat) ∧
            (∀ l, (∀ i, i < 256 * (kept.length + 1) → l ≠ .tier (a0 + i)) → t.byteAt l = s.byteAt l) ∧
            Sparse.get zeroNat t.fab.recvIdx f = (if Cell.last c then 0 else idx + 1) ∧ t.fld (Reg.fabRflow f 2) 63 32 = (n + b2n (Cell.last c)) % 2 ^ 32 ∧
            (∀ pos, s.posOf (s.fld (Reg.fabRflow f 2) 26 16) = some pos →
              let k := s.fld (Reg.fabRflow f 2) 29 27
              Sparse.get zeroWord (t.coreAt pos).arch.hbc k = Sparse.get zeroWord (s.coreAt pos).arch.hbc k + BitVec.ofNat 64 (b2n (Cell.last c))))) ∧
      (Cell.dst c = s.fld Reg.fabMyid 11 0 → Cell.typ c = 2 → ∀ k, s.collOf (Cell.flow c) = some k →
        let y : PartCell := ⟨Cell.flow c, Cell.aux c / 2 ^ 24, Cell.aux c % 2 ^ 24, c.payload⟩
        let a := k.scratchAt y.slot y.idx
        y.slot ≠ 0xFF → s.checkPage none none .write a = none → s.InTiers a 256 → (∀ u, s.errAt u = 0) → s.fab.parts.any y.meets = false →
        Completes cmd s fun t =>
          (t.portAt p).rxSeq = (x.rxSeq + 1) % 4096 ∧ (t.portAt p).credRet = x.credRet + 1 ∧ t.num none a 256 = c.payload.toNat ∧ t.fab.parts = s.fab.parts ++ [y] ∧
          (∀ l, (∀ i, i < 256 → l ≠ .tier (a + i)) → t.byteAt l = s.byteAt l)))

/-- SHEET: a port out of service, and one in training before its lanes are trained, sends nothing. In service the sheet advances by one and one cell goes out: a cell to be sent again under its own number, a control cell, the first
transfer of the stream that the ream entry names with the port's next number, taking a credit and entering the replay buffer, the oldest cell that the named input holds, marked as relayed, or an idle cell. Every cell sent
carries the CRC of its bytes. A cell to be sent again that the state of the port does not carry waits, and an idle cell goes out. A release of this device for itself needs no port. REPLAY_TIMEOUT sends the unacknowledged cells again, at level 2 the oldest alone; after eight replays in a row the port enters RETRAIN. That at level 2 the oldest alone goes again,
and that a release of this device for itself moves at a sheet, are the model's choices (assumption log rows 85 and 96). -/
def Obligations.PortsSendAndReplay : Prop :=
  ∀ (s : State) (p : Nat), p < 36 → s.waits = [] →
    let st := s.portState p
    let x := s.portAt p
    let e := s.cur (Reg.fabPReam p x.sheet)
    let mute := st = 0 ∨ st = 4 ∨ st = 5 ∨ (st = 1 ∧ x.trained = false)
    ((∀ i ∈ s.fab.queues, i.port ≠ 36) →
      (mute → exec (.sheet p) s = .next s) ∧
      (st = 3 → x.resend = [] → x.ctl = [] → wfld e 3 0 = 0 →
        Completes (.sheet p) s fun t => ∃ c, t.hif.out = s.hif.out ++ [.cell p c] ∧ Cell.typ c = 0 ∧ Cell.crcOk c = true ∧ (t.portAt p).sheet = (x.sheet + 1) % 512 ∧
          (t.portAt p).replay = x.replay ∧ (t.portAt p).txSeq = x.txSeq ∧ t.portCredit p = s.portCredit p ∧ t.fab.queues = s.fab.queues ∧
          t.raw (Reg.fabPCnt p 7) = s.raw (Reg.fabPCnt p 7) + 1 ∧ SameBytes s t ∧ SameCores s t []) ∧
      (st = 3 → x.resend = [] → x.ctl = [] → wfld e 3 0 = 1 → s.canSend p = true → x.txSeq < 4096 →
        ∀ pre i post, s.fab.queues = pre ++ i :: post → i.stream = wfld e 15 8 → i.port = p → (∀ j ∈ pre, j.stream ≠ wfld e 15 8 ∨ j.port ≠ p) → i.typ = 3 → i.cells = 1 → i.idx = 0 →
          i.xid = none → i.part = none → i.dst < 4096 → i.flow < 4096 → i.stream < 16 →
          Completes (.sheet p) s fun t => ∃ c, t.hif.out = s.hif.out ++ [.cell p c] ∧ Cell.typ c = 3 ∧ Cell.dst c = i.dst ∧ Cell.flow c = i.flow ∧ Cell.seq c = x.txSeq ∧
            Cell.aux c = i.aux % 2 ^ 32 ∧ Cell.crcOk c = true ∧ t.fab.queues = pre ++ post ∧ (t.portAt p).replay = x.replay ++ [c] ∧ (t.portAt p).txSeq = (x.txSeq + 1) % 4096 ∧
            (t.portAt p).sheet = (x.sheet + 1) % 512 ∧ t.portCredit p = min 963 (s.portCredit p - 1) ∧ t.raw (Reg.fabPCnt p 0) = s.raw (Reg.fabPCnt p 0) + 1 ∧ SameBytes s t ∧ SameCores s t []) ∧
      (st = 3 → x.resend = [] → x.ctl = [] → wfld e 3 0 = 2 → s.canSend p = true → x.txSeq < 4096 →
        ∀ k d, wfld e 15 8 ≠ p → s.relayCell (wfld e 15 8) p = some (k, d) →
          Completes (.sheet p) s fun t => ∃ c, t.hif.out = s.hif.out ++ [.cell p c] ∧ Cell.typ c = Cell.typ d ∧ Cell.dst c = Cell.dst d ∧ Cell.flow c = Cell.flow d ∧ Cell.aux c = Cell.aux d ∧
            c.payload = d.payload ∧ Cell.fld c 6 6 = 1 ∧ Cell.seq c = x.txSeq ∧ Cell.crcOk c = true ∧ (t.portAt p).replay = x.replay ++ [c] ∧
            (t.portAt (wfld e 15 8)).rx = dropAt (s.portAt (wfld e 15 8)).rx k ∧ (t.portAt (wfld e 15 8)).credRet = (s.portAt (wfld e 15 8)).credRet + 1 ∧
            t.raw Reg.fabRelayed = s.raw Reg.fabRelayed + 1 ∧ t.fab.queues = s.fab.queues ∧ SameBytes s t ∧ SameCores s t []) ∧
      (¬mute → st ≤ 3 → x.resend = [] → s.canSend p = true → x.txSeq < 4096 → ∀ d rest, x.ctl = d :: rest →
        Completes (.sheet p) s fun t => ∃ c, t.hif.out = s.hif.out ++ [.cell p c] ∧ Cell.typ c = Cell.typ d ∧ c.payload = d.payload ∧ Cell.seq c = x.txSeq ∧ Cell.crcOk c = true ∧
          (t.portAt p).ctl = rest ∧ (t.portAt p).replay = x.replay ++ [c] ∧ t.fab.queues = s.fab.queues) ∧
      (st = 2 → ∀ d rest, x.resend = d :: rest → carries st (Cell.typ d) = false →
        Completes (.sheet p) s fun t => ∃ c, t.hif.out = s.hif.out ++ [.cell p c] ∧ Cell.typ c = 0 ∧ Cell.crcOk c = true ∧ (t.portAt p).resend = x.resend ∧ (t.portAt p).replay = x.replay ∧
          t.fab.queues = s.fab.queues) ∧
      (¬mute → st ≤ 3 → ∀ d rest, x.resend = d :: rest → carries st (Cell.typ d) = true → Cell.seq d < 4096 →
        Completes (.sheet p) s fun t => ∃ c, t.hif.out = s.hif.out ++ [.cell p c] ∧ Cell.seq c = Cell.seq d ∧ Cell.typ c = Cell.typ d ∧ Cell.dst c = Cell.dst d ∧ c.payload = d.payload ∧
          Cell.crcOk c = true ∧ (t.portAt p).resend = rest ∧ (t.portAt p).replay = x.replay ∧ t.portCredit p = s.portCredit p)) ∧
    (mute → ∀ pre i post, s.fab.queues = pre ++ i :: post → i.port = 36 → (∀ j ∈ pre, j.port ≠ 36) → i.typ = 3 → i.cells = 1 → i.idx = 0 → i.xid = none → i.part = none → i.flow < 4096 → i.stream < 16 →
      s.sflow i.flow 63 63 = 1 → (∀ q ∈ s.cores, q.2.work.hbq = []) →
      Completes (.sheet p) s fun t => t.fab.queues = pre ++ post ∧ t.creditOf i.flow = min (s.fld (Reg.fabSflow i.flow 1) 15 0) (s.creditOf i.flow + i.aux % 2 ^ 16) ∧
        t.hif = s.hif ∧ t.fab.ports = s.fab.ports ∧ SameBytes s t ∧ SameCores s t []) ∧
    (1 ≤ st → st ≤ 3 → x.replay ≠ [] →
      Completes (.replayTimeout p) s fun t => t.raw (Reg.fabPCnt p 5) = s.raw (Reg.fabPCnt p 5) + 1 ∧ (t.portAt p).replay = x.replay ∧
        (x.replays < 7 → (t.portAt p).resend = (if 2 ≤ s.levelOf p then x.replay.take 1 else x.replay) ∧ t.portState p = st) ∧
        (7 ≤ x.replays → st = 3 → t.portState p = 4)) ∧
    (x.replay = [] ∨ st = 0 ∨ st = 4 ∨ st = 5 → exec (.replayTimeout p) s = .next s)

/-- Loss of lane lock and FAB.Pp.CTRL.RETRAIN take a port from UP to RETRAIN and count it; the end of a window brings it back to UP with a replay, or after the third failure in a row to FAILED, with cause 6 for every stream whose
routes use it. Training of every lane grants 963 credits and queues the link-up exchange, and behind it a raised job level; a warm start writes no training record for a port that reuses its own; FAB_P_CTRL_EN starts training or takes the port DOWN. CELL_STALL_TIMEOUT sets cause 8 of a stream with a transfer queued; of a flow
whose cell for a group member waits, it notes the member as stalled. That a link that goes DOWN starts anew, that the exchange of a port is answered, where an announced level stands, and that what a training finds is free are the
model's choices (assumption log rows 87, 184, 89 and 154). -/
def Obligations.PortStatesChange : Prop :=
  ∀ (s : State) (p : Nat), p < 36 → s.waits = [] →
    let st := s.portState p
    let x := s.portAt p
    let toRetrain (t : State) : Prop := t.portState p = 4 ∧ t.raw (Reg.fabPCnt p 6) = s.raw (Reg.fabPCnt p 6) + 1 ∧ t.portAt p = { x with resend := [], replays := 0, fecBad := [] } ∧
      t.raw Reg.relEvhead = s.raw Reg.relEvhead + 1
    (st = 3 → Completes (.laneLockLoss p) s toRetrain ∧ (s.phase = 7 → Completes (.fabPCtrlRetrain p) s toRetrain)) ∧
    (st ≠ 3 → exec (.laneLockLoss p) s = .next s ∧ exec (.fabPCtrlRetrain p) s = .next s) ∧
    (st = 4 →
      let n := s.fld (Reg.fabPStat p) 4 3
      Completes (.portRetrainWindowEnd p true) s (fun t =>
        t.portState p = 3 ∧ t.fld (Reg.fabPStat p) 4 3 = 0 ∧
        t.portAt p = { x with resend := x.replay, replays := 0 }) ∧
      (n < 2 → Completes (.portRetrainWindowEnd p false) s fun t => t.portState p = 4 ∧ t.fld (Reg.fabPStat p) 4 3 = n + 1 ∧
        t.raw (Reg.fabPCnt p 6) = s.raw (Reg.fabPCnt p 6) + 1 ∧ t.portAt p = x) ∧
      (2 ≤ n → Completes (.portRetrainWindowEnd p false) s fun t => t.portState p = 5 ∧ t.portAt p = x ∧
        ∀ k, k < 16 → t.bit (Reg.fabStrEvt k) 6 = (s.bit (Reg.fabStrEvt k) 6 || s.routeUses k p))) ∧
    (st = 1 → ∀ rtt (temp : Int),
      Completes (.portTrainingDone p ⟨true, temp⟩ rtt) s (fun t => t.portState p = 1 ∧ t.portCredit p = 963 ∧ t.fld (Reg.fabPRtt p) 15 0 = rtt % 2 ^ 16 ∧
        let up := s.fld Reg.fabLevel 11 8
        let raised := 2 ≤ s.fld Reg.fabJobstat 2 0 ∧ s.fld Reg.fabJobstat 2 0 ≤ 4 ∧ s.fab.jobLevel < up
        let ctl := rawCell 4 0 0 0 false false (s.linkupPayload p) :: (if raised then [rawCell 4 0 0 0 false false (BitVec.ofNat 2048 (2 + up * 2 ^ 40))] else [])
        t.portAt p = { Port.reset with rx := x.rx, sheet := x.sheet, trained := true, asked := true, ctl := ctl } ∧
        (s.reuses p = true → t.sys = { s.sys with imgSent := t.sys.imgSent })) ∧
      Completes (.portTrainingDone p ⟨false, temp⟩ rtt) s (fun t => t.portState p = 0 ∧ t.portCredit p = 0 ∧ (t.portAt p).replay = [])) ∧
    (s.phase = 7 → s.sys.cfgApplied = true → ∀ v,
      Completes (.fabPCtrlEn p v) s fun t =>
        let on := wfld v 0 0 = 1
        (on ↔ t.bit (Reg.fabPCtrl p) 0 = true) ∧ (s.bit (Reg.fabPCtrl p) 0 = false → on → st = 0 → t.portState p = 1) ∧
        (s.bit (Reg.fabPCtrl p) 0 = true → ¬on → t.portState p = 0) ∧ (s.bit (Reg.fabPCtrl p) 0 = true → on → st = 3 → t.portState p = if wfld v 1 1 = 1 then 4 else 3)) ∧
    (∀ k, k < 16 →
      (s.fab.queues.any (fun i => i.stream == k) = true → Completes (.cellStallTimeout ⟨k, none⟩) s fun t =>
        t.bit (Reg.fabStrEvt k) 8 = true ∧ SameRegs s t [Reg.fabStrEvt k] ∧ t = { s with csr := t.csr }) ∧
      (s.fab.queues = [] → s.fab.runs = [] → exec (.cellStallTimeout ⟨k, none⟩) s = .next s) ∧
      (∀ f m, f < 4096 → s.sflow f 59 56 = k → m ∈ s.stalledOn f → Completes (.cellStallTimeout ⟨k, some f⟩) s fun t =>
        t.bit (Reg.fabStrEvt k) 8 = true ∧ m ∈ t.snap.stalled ∧ SameRegs s t [Reg.fabStrEvt k] ∧ t.fab = s.fab ∧ SameBytes s t))

/-- The mill job. LOAD is ignored while a job is started; a header or digest that fails gives its error and STATE 5 and loads nothing, and so do a
missing section, one that does not read or is out of range, one whose pages fail, and for a spare a level above its LMAX; an image that passes fills the tables from the device's section and gives STATE 1, or 6 for a spare
in standby. START refuses a level above LMAX with error 4, else sends the link-up exchange on every enabled port and waits for their answers. STOP gives STATE 0, empties every queue, takes back a patched route and leaves the ports as
they are. FAB_SUBST takes the id and its section; a missing section is error 3. FAB_STR_CTRL_RELOAD loads a stream's flows, collectives and EN again, and waits while the stream holds a transfer. That the directory lies in the part that
the digest covers, which answers count, the STATE that LOAD is ignored in, what STOP leaves, the bytes that must be zero, the parts of an image without a layout, that a section taken by FAB_SUBST is not checked again, and that a port
in a wrong place is found when an image is loaded are the model's choices (assumption log rows 186, 184, 92, 158, 97, 167 and 166). -/
def Obligations.JobLoadsAndRuns : Prop :=
  ∀ (s : State), s.waits = [] → s.phase = 7 →
    let job := s.fld Reg.fabJobstat 2 0
    let tables (t : State) (k : Section) : Prop :=
      (∀ d, d < 4096 → t.raw (Reg.fabRoute d) = k.routes.getD d 0) ∧ (∀ q, q < 36 → ∀ i, i < 512 → t.raw (Reg.fabPReam q i) = k.reams.getD (512 * q + i) 0) ∧
      (∀ i, i < 8192 → t.raw (Reg.fabSflow 0 0 + 8 * i) = loadSflow i (k.sflows.getD i 0)) ∧
      (∀ i, i < 16384 → t.raw (Reg.fabRflow 0 0 + 8 * i) = loadRflow i (k.rflows.getD i 0)) ∧ (∀ q, q < 36 → t.expected q = k.ports.getD q 0) ∧
      t.fab.colls = k.colls ∧ t.fab.patches = k.patches ∧ t.fab.enabled = k.portEn ∧ (∀ i, i < 16 → t.bit (Reg.fabStrCtrl i) 0 = k.uses i)
    let started := job = 2 ∨ job = 3 ∨ job = 4
    (started → exec .fabJobctlLoad s = .next s) ∧
    (¬started → s.imgHeader ≠ 0 → Completes .fabJobctlLoad s fun t =>
      t.fld Reg.fabJobstat 15 8 = s.imgHeader ∧ t.fld Reg.fabJobstat 2 0 = 5 ∧ t.fab = s.fab ∧ SameBytes s t ∧ SameCores s t []) ∧
    (¬started → s.imgHeader = 0 →
      let id := s.fld Reg.fabMyid 11 0
      let failed (n : Nat) : Prop := Completes .fabJobctlLoad s fun t => t.fld Reg.fabJobstat 15 8 = n ∧ t.fld Reg.fabJobstat 2 0 = 5 ∧ t.fab = s.fab
      (s.fab.myIdSet = false ∨ s.imgEntry id id = none → failed 3) ∧
      (s.fab.myIdSet = true → (s.imgEntry id id).isSome = true → s.imgDirZero = false ∨ s.imgSection id id = none → failed 5) ∧
      (∀ k, s.fab.myIdSet = true → (s.imgEntry id id).isSome = true → s.imgDirZero = true → s.imgSection id id = some k →
       let high := k.standby = true ∧ s.fld Reg.fabLevel 3 0 < max (s.img 8 4) (s.fld Reg.fabLevel 11 8)
       (high → failed 4) ∧ (¬high → k.inRange = false → failed 5) ∧ (¬high → k.inRange = true → s.sectionPages k = false → failed 6) ∧
       (¬high → k.inRange = true → s.sectionPages k = true →
        Completes .fabJobctlLoad s fun t => tables t k ∧ t.fld Reg.fabJobstat 15 8 = 0 ∧ t.fld Reg.fabJobstat 2 0 = (if k.standby then 6 else 1) ∧ t.fld Reg.fabEpoch 31 0 = 0 ∧
          t.fab.millId = s.img 0x20 16 ∧ t.fab.jobLevel = s.img 8 4 ∧ t.fab.groups = (if k.groups.all (· == 0) then [2 ^ 100 - 1] else k.groups) ∧ SameBytes s t ∧ SameCores s t []))) ∧
    (job = 1 ∨ job = 6 →
      (s.fld Reg.fabLevel 3 0 < s.fab.jobLevel → Completes .fabJobctlStart s fun t => t.fld Reg.fabJobstat 15 8 = 4 ∧ t.fld Reg.fabJobstat 2 0 = 5 ∧ t.fab = s.fab) ∧
      (s.fab.jobLevel ≤ s.fld Reg.fabLevel 3 0 → s.fab.millId ≠ 0 → s.fab.enabled.Nodup → (∀ q ∈ s.fab.enabled, q < 36) →
        Completes .fabJobctlStart s fun t => t.fld Reg.fabLevel 11 8 = s.fab.jobLevel ∧ t.fld Reg.fabJobstat 2 0 = (if s.fab.enabled = [] then 3 else 2) ∧
          (∀ q, q < 36 → t.portState q = s.portState q ∧ (t.portAt q).peerLevel = s.fab.jobLevel ∧ (t.portAt q).peerMill = 0 ∧
            (t.portAt q).ctl.length = (s.portAt q).ctl.length + (if q ∈ s.fab.enabled then 1 else 0) ∧ (q ∈ s.fab.enabled → (t.portAt q).asked = true)))) ∧
    (started → s.fabXfers = [] → Completes .fabJobctlStop s fun t =>
      t.fld Reg.fabJobstat 2 0 = 0 ∧ t.fab.queues = [] ∧ t.fab.ins = [] ∧ t.fab.runs = [] ∧ t.fab.colls = [] ∧ t.bit Reg.fabPatch 63 = false ∧
      (∀ q, q < 36 → t.portState q = s.portState q) ∧ (∀ f, f < 4096 → t.sflow f 63 63 = 0 ∧ t.rflow f 63 63 = 0) ∧
      t.fab.inForce = [] ∧ (∀ d w old, s.fab.inForce = [⟨⟨0, 0, d, w⟩, old⟩] → d < 4096 → t.raw (Reg.fabRoute d) = old) ∧ SameBytes s t ∧ SameCores s t []) ∧
    (∀ v, wfld v 63 63 = 1 → job = 6 → s.noCells = true →
      let id := wfld v 11 0
      (s.imgSection id s.fab.hostId = none → Completes (.fabSubst v) s fun t => t.fld Reg.fabJobstat 15 8 = 3 ∧ t = { s with csr := t.csr } ∧ SameRegs s t [Reg.fabJobstat]) ∧
      (∀ k, s.imgSection id s.fab.hostId = some k → s.sys.cfgApplied = true → Completes (.fabSubst v) s fun t => tables t k ∧ t.fld Reg.fabMyid 11 0 = id ∧ SameBytes s t ∧ SameCores s t [])) ∧
    (∀ n, n < 16 →
      (s.streamBusy n = true → exec (.fabStrCtrlReload n) s = .next s) ∧
      (∀ k, s.streamBusy n = false → s.imgSection (s.fld Reg.fabMyid 11 0) s.fab.hostId = some k → (∀ u ∈ s.fab.inForce, u.set.table < 3) →
        let new (f w : Nat) : Word := k.sflows.getD (2 * f + w) 0
        let rnew (f w : Nat) : Word := k.rflows.getD (4 * f + w) 0
        Completes (.fabStrCtrlReload n) s fun t =>
          t.fab.colls = s.fab.colls.filter (fun c => c.stream != n) ++ k.colls.filter (fun c => c.stream == n) ∧
          (∀ f w, f < 4096 → w < 2 → t.raw (Reg.fabSflow f w) =
            if s.sflow f 59 56 = n ∨ wfld (new f 0) 59 56 = n then loadSflow w (new f w) else s.raw (Reg.fabSflow f w)) ∧
          (∀ f w, f < 4096 → w < 4 → t.raw (Reg.fabRflow f w) =
            if s.rflow f 59 56 = n ∨ wfld (rnew f 0) 59 56 = n then loadRflow w (rnew f w) else s.raw (Reg.fabRflow f w)) ∧
          t.bit (Reg.fabStrCtrl n) 0 = k.uses n ∧ SameBytes s t ∧ SameCores s t []))

/-- Epochs, holds, patches and raises. EPOCH_BOUNDARY: while the job runs and every collective that marks the next epoch or an earlier one has completed, FAB.EPOCH takes it; a hold due there holds the mill and gives each stream cause 7; a
raise due there sets the level; else nothing happens. Writes of FAB.HOLD, FAB.PATCH and FAB.RAISE set their fields; FAB.HOLD.EN = 0 releases a held mill; a patch set is applied at once on a device that is held and quiet at its epoch, a set that
does not exist sets ERR, and otherwise it waits. Which boundary is next, and that a set that does not exist sets ERR with an event, are the model's choices (assumption log rows 94 and 93). -/
def Obligations.EpochsHoldAndPatch : Prop :=
  ∀ (s : State), s.waits = [] →
    let job := s.fld Reg.fabJobstat 2 0
    (∀ n, s.nextEpoch = some n → n < 2 ^ 32 →
      let due := s.fab.colls.all fun k => k.ep == 0 || decide (n < k.ep) || s.fab.marked.contains k.id
      (job ≠ 3 ∨ due = false → exec .epochBoundary s = .next s) ∧
      (job = 3 → due = true → s.fab.patchReq = false →
        Completes .epochBoundary s fun t => t.fld Reg.fabEpoch 31 0 = n ∧ SameBytes s t ∧ SameCores s t [] ∧
          (s.bit Reg.fabHold 63 = true → s.fld Reg.fabHold 31 0 = n → t.fld Reg.fabJobstat 2 0 = 4 ∧ t.bit Reg.fabHold 62 = t.noCells ∧ ∀ k, k < 16 → t.bit (Reg.fabStrEvt k) 7 = true) ∧
          (s.bit Reg.fabHold 63 = false ∨ s.fld Reg.fabHold 31 0 ≠ n → t.fld Reg.fabJobstat 2 0 = 3) ∧
          (s.fab.raiseReq = true → s.fld Reg.fabRaise 31 0 = n → s.fld Reg.fabLevel 11 8 < s.fld Reg.fabRaise 35 32 → s.fld Reg.fabRaise 35 32 ≤ s.fld Reg.fabLevel 3 0 →
            t.fld Reg.fabLevel 11 8 = s.fld Reg.fabRaise 35 32 ∧ t.fab.raiseReq = false))) ∧
    (s.nextEpoch = none → exec .epochBoundary s = .next s) ∧
    (∀ v, s.phase = 7 →
      (wfld v 63 63 = 1 ∨ job ≠ 4 → Completes (.fabHold v) s fun t =>
        t.bit Reg.fabHold 63 = v.getLsbD 63 ∧ t.fld Reg.fabHold 31 0 = wfld v 31 0 ∧ SameRegs s t [Reg.fabHold] ∧ t = { s with csr := t.csr }) ∧
      (wfld v 63 63 = 0 → job = 4 → (∀ c ∈ s.cores, ∀ x ∈ c.2.work.hbq, x.begun = true ∨ (x.kind ≠ 1 ∧ x.kind ≠ 3)) →
        Completes (.fabHold v) s fun t => t.bit Reg.fabHold 63 = false ∧ t.fld Reg.fabJobstat 2 0 = 3 ∧ t.bit Reg.fabHold 62 = false ∧ t.fab = s.fab ∧ SameBytes s t ∧ SameCores s t []) ∧
      (s.quietAt (wfld v 31 0) = false → Completes (.fabPatch v) s fun t =>
        t.fld Reg.fabPatch 47 32 = wfld v 47 32 ∧ t.fld Reg.fabPatch 31 0 = wfld v 31 0 ∧ t.bit Reg.fabPatch 63 = true ∧ t.fab = { s.fab with patchReq := true } ∧ SameRegs s t [Reg.fabPatch]) ∧
      (s.quietAt (wfld v 31 0) = true → s.fab.patches.find? (fun x => x.num == wfld v 47 32) = none →
        Completes (.fabPatch v) s fun t => t.bit Reg.fabPatch 62 = true ∧ t.bit Reg.fabPatch 63 = false ∧ t.raw Reg.relEvhead = s.raw Reg.relEvhead + 1) ∧
      (∀ set r off, s.quietAt (wfld v 31 0) = true → s.noCells = true → s.fab.patches.find? (fun x => x.num == wfld v 47 32) = some set → set.recs = [r] → r.target = some (off, [(63, 0)]) →
        (s.isPatched r = false → Completes (.fabPatch v) s fun t => t.raw off = r.value ∧ t.fab.inForce = s.fab.inForce ++ [⟨r, s.raw off⟩] ∧ t.bit Reg.fabPatch 63 = false ∧
          SameRegs s t [off, Reg.fabPatch, Reg.fabHold]) ∧
        (s.isPatched r = true → Completes (.fabPatch v) s fun t => t.bit Reg.fabPatch 62 = true ∧ t.raw off = s.raw off ∧ t.fab.inForce = s.fab.inForce)) ∧
      Completes (.fabRaise v) s fun t => t.fld Reg.fabRaise 35 32 = wfld v 35 32 ∧ t.fld Reg.fabRaise 31 0 = wfld v 31 0 ∧ t.fab = { s.fab with raiseReq := true } ∧ SameRegs s t [Reg.fabRaise])

/-- COLLECTIVE_START: an all-reduce starts its next occurrence once every local contributor has queued it while the job runs, and otherwise does nothing. COLLECTIVE_CHUNK at the root of an all-reduce without children: the contributions in LOCAL order are
converted to the format of the partial sums, added element by element in that order, converted back, and written at the one contributor that takes the result; every other byte stays. -/
def Obligations.CollectivesCombine : Prop :=
  ∀ (s : State) (n : Nat) (k : Coll), s.Calm → s.collOf n = some k → k.typ = 0 →
    let occ := Sparse.get zeroNat s.fab.doneOcc n
    let ready := k.loc.all fun l => s.fab.ins.any fun i => i.coll == n && i.occ == occ && i.lcid == l
    (s.fld Reg.fabJobstat 2 0 ≠ 3 ∨ ready = false → exec (.collectiveStart n) s = .next s) ∧
    (s.fld Reg.fabJobstat 2 0 = 3 → ready = true → (∃ g ∈ k.segs, 0 < g.slen) → (∀ r ∈ s.fab.runs, r.coll ≠ n ∨ r.occ ≠ occ) →
      Completes (.collectiveStart n) s fun t => t.fab.runs = s.fab.runs ++ [⟨n, occ, [], [], false, []⟩] ∧ Sparse.get zeroNat t.fab.doneOcc n = occ + 1 ∧ t.fab.ins = s.fab.ins ∧
        t.csr = s.csr ∧ SameBytes s t) ∧
    (∀ (seg chunk : Nat) (g : Seg) (r : CollRun), k.segs[seg]? = some g → chunk < g.chunks → g.root = true → g.child = [] → k.wm = false → r.stopped = false →
      s.fab.runs.find? (fun r => r.coll == n && !(r.up.contains (seg, chunk))) = some r →
      let c := g.chunk seg chunk
      let sz := collBytes k.fmt
      let ins := s.inputs k r.occ
      let rows := ins.map fun i => (upto (c.len / sz)).map fun e => (toAcc k.fmt k.accf (s.num none (i.src + c.off + sz * e) sz)).1
      let acc := (accAll k.accf rows).1
      ∀ x, ins.filter (fun i => i.dst != 0) = [x] → (∀ u, s.errAt u = 0) → c.len % sz = 0 → k.accf ≤ 5 → (∀ i ∈ ins, s.InTiers (i.src + c.off) c.len) → s.InTiers (x.dst + c.off) c.len →
      s.checkPage none none .write (x.dst + c.off) = none →
      Completes (.collectiveChunk n seg chunk) s fun t =>
        (∀ e, e < c.len / sz → t.num none (x.dst + c.off + sz * e) sz = (fromAcc k.fmt k.accf (acc.getD e 0)).1 % 2 ^ (8 * sz)) ∧
        (∀ l, (∀ i, i < c.len → l ≠ .tier (x.dst + c.off + i)) → t.byteAt l = s.byteAt l))

/-! ### Host interface -/

/-- Command queues. HIF_Q_CTRL_EN enables a queue with legal sizes and vector, with both heads set and nothing at work, or disables it; SQTAIL below the size is stored, and the device then reads the next command, 64 bytes of host memory at
SQBASE, with status 1 for reserved bits; CQHEAD below the size is stored. COMMAND_COMPLETION of a command that has ended writes its 16 bytes at CQBASE, moves SQHEAD on, turns the phase at the end of the queue, and raises the queue's
vector; it waits while the completion queue is full. COPY_IN and COPY_OUT move their bytes and end with status 0 and the length. That a command is begun in the same step as the doorbell and ends in one step, and
which cores CORE_START finds at rest, are the model's choices (assumption log rows 106 and 107). -/
def Obligations.HostQueuesRun : Prop :=
  ∀ (s : State) (n : Nat), n < 16 → s.Calm → s.phase = 7 →
    let q := s.queueAt n
    let sq := s.sqSize n
    let cq := s.cqSize n
    let at' (x : State) (a k : Nat) : Nat := ofLe ((upto k).map fun i => x.byteAt (.host 0 (a + i)))
    let head := s.fld (Reg.hifQSqhead n) 15 0
    let tail := s.fld (Reg.hifQSqtail n) 15 0
    let entry := s.fld (Reg.hifQCqbase n) 63 12 * 4096 + 16 * q.head
    let done (ws : List Word) (status result : Nat) (t : State) : Prop :=
      at' t entry 8 = cmdFld ws 0 31 16 + n * 2 ^ 16 + (head + 1) % sq * 2 ^ 32 + b2n q.phase * 2 ^ 48 + status * 2 ^ 56 ∧ at' t (entry + 8) 8 = result ∧
      t.fld (Reg.hifQSqhead n) 15 0 = (head + 1) % sq ∧ t.bit (Reg.hifQStat n) 0 = false ∧ (t.queueAt n).cmd = none ∧ (t.queueAt n).head = (q.head + 1) % cq ∧
      (t.queueAt n).phase = (if q.head + 1 = cq then !q.phase else q.phase) ∧
      (if s.hif.mask.getLsbD (s.fld (Reg.hifQCtrl n) 12 8) then t.hif.pend.getLsbD (s.fld (Reg.hifQCtrl n) 12 8) = true else t.hif.out = s.hif.out ++ [.msix (s.fld (Reg.hifQCtrl n) 12 8)])
    (∀ v, sq ≤ wfld v 15 0 → exec (.hifQSqtail n v) s = .next s) ∧
    (∀ v, wfld v 15 0 < sq → s.bit (Reg.hifQCtrl n) 63 = false ∨ wfld v 15 0 = head → Completes (.hifQSqtail n v) s fun t =>
      t.fld (Reg.hifQSqtail n) 15 0 = wfld v 15 0 ∧ SameRegs s t [Reg.hifQSqtail n] ∧ t = { s with csr := t.csr }) ∧
    (∀ v, wfld v 15 0 < sq → s.bit (Reg.hifQCtrl n) 63 = true → q.stopped = false → q.cmd = none → wfld v 15 0 ≠ head → s.hif.linkUp = true →
      let ws := (upto 8).map fun i => BitVec.ofNat 64 (at' s (s.fld (Reg.hifQSqbase n) 63 12 * 4096 + 64 * head + 8 * i) 8)
      Completes (.hifQSqtail n v) s fun t => (t.queueAt n).cmd = some ws ∧ t.bit (Reg.hifQStat n) 0 = true ∧ SameBytes s t ∧
        (cmdReserved ws = true → (t.queueAt n).status = 1 ∧ (t.queueAt n).ready = true ∧ SameCores s t []) ∧
        (cmdReserved ws = false → cmdOpc ws = 0 → (t.queueAt n).status = 0 ∧ (t.queueAt n).ready = true ∧ SameCores s t []) ∧
        (cmdReserved ws = false → cmdOpc ws = 1 ∨ cmdOpc ws = 2 ∨ cmdOpc ws = 5 → (t.queueAt n).ready = false ∧ SameCores s t []) ∧
        (cmdReserved ws = false → cmdOpc ws = 3 → (1200 < cmdArg ws 1 + cmdArg ws 2 → (t.queueAt n).status = 2 ∧ (t.queueAt n).ready = true ∧ SameCores s t []) ∧
          (∀ p, cmdArg ws 2 = 1 → cmdArg ws 1 < 1200 → s.posOf (cmdArg ws 1) = some p →
            (s.atRest p = true → s.begunOf (cmdArg ws 1) = false → t.stateOf p = 1 ∧ (t.queueAt n).status = 0 ∧ (t.queueAt n).ready = true ∧ (t.coreAt p).arch.reg 0 = ⟨0, 0⟩ ∧
              (t.coreAt p).arch.flow.pc = s.fld (Reg.cluRstpc (p / 13)) 42 0) ∧
            (s.atRest p = false → (t.queueAt n).status = 5 ∧ SameCores s t []))) ∧
        (cmdReserved ws = false → cmdOpc ws = 4 →
          (s.fab.groups.length ≤ cmdArg ws 1 → (t.queueAt n).status = 2 ∧ (t.queueAt n).ready = true ∧ SameCores s t []) ∧
          (cmdArg ws 1 < s.fab.groups.length → cmdArg ws 1 ∈ t.groupStop ∧ (t.queueAt n).ready = false))) ∧
    (∀ v, cq ≤ wfld v 15 0 → exec (.hifQCqhead n v) s = .next s) ∧
    (∀ v, wfld v 15 0 < cq → q.cmd = none → Completes (.hifQCqhead n v) s fun t =>
      t.fld (Reg.hifQCqhead n) 15 0 = wfld v 15 0 ∧ SameRegs s t [Reg.hifQCqhead n] ∧ t = { s with csr := t.csr }) ∧
    (∀ v, wfld v 63 63 = 0 → Completes (.hifQCtrlEn n v) s fun t => t.bit (Reg.hifQCtrl n) 63 = false ∧ t.bit (Reg.hifQStat n) 0 = false ∧ (t.queueAt n).cmd = none ∧
      (t.queueAt n).stopped = false ∧ SameRegs s t [Reg.hifQCtrl n, Reg.hifQStat n]) ∧
    (∀ v, wfld v 63 63 = 1 → 1 ≤ wfld v 12 8 → 4 ≤ wfld v 7 4 → 4 ≤ wfld v 3 0 → s.bit (Reg.hifQCtrl n) 63 = false →
      Completes (.hifQCtrlEn n v) s fun t => t.fld (Reg.hifQCtrl n) 12 8 = wfld v 12 8 ∧ t.sqSize n = 2 ^ wfld v 3 0 ∧ t.cqSize n = 2 ^ wfld v 7 4 ∧
        t.bit (Reg.hifQCtrl n) 63 = s.bit Reg.hifCtrl 0 ∧
        (s.bit Reg.hifCtrl 0 = true → t.fld (Reg.hifQSqhead n) 15 0 = tail ∧ t.fld (Reg.hifQCqhead n) 15 0 = 0 ∧ t.queueAt n = hostQReset n ∧ t.fld (Reg.hifQStat n) 15 8 = 0)) ∧
    (∀ ws, q.cmd = some ws → q.head < cq → head < sq →
      (q.ready = true → (q.head + 1) % cq = s.fld (Reg.hifQCqhead n) 15 0 → exec (.commandCompletion n) s = .next s) ∧
      ((q.head + 1) % cq ≠ s.fld (Reg.hifQCqhead n) 15 0 → s.hif.linkUp = true → (head + 1) % sq = tail → q.status < 256 → q.result < 2 ^ 64 → entry + 16 ≤ 2 ^ 64 →
        (q.ready = true → Completes (.commandCompletion n) s fun t => done ws q.status q.result t ∧
          (∀ l, (∀ w i, i < 16 → l ≠ .host w (entry + i)) → t.byteAt l = s.byteAt l)) ∧
        (q.ready = false → (∀ u, s.errAt u = 0) →
          let dev := if cmdOpc ws = 1 then cmdArg ws 2 else cmdArg ws 1
          let host := if cmdOpc ws = 1 then cmdArg ws 1 else cmdArg ws 2
          let len := cmdArg ws 3
          host + len ≤ 2 ^ 64 → s.InTiers dev len → s.checkRange none none (if cmdOpc ws = 1 then .write else .read) dev len = none → host + len ≤ entry ∨ entry + 16 ≤ host →
          (cmdOpc ws = 1 → Completes (.commandCompletion n) s fun t => done ws 0 len t ∧ ∀ i, i < len → t.byteAt (.tier (dev + i)) = s.byteAt (.host 0 (host + i))) ∧
          (cmdOpc ws = 2 → Completes (.commandCompletion n) s fun t => done ws 0 len t ∧ ∀ i, i < len → t.byteAt (.host 0 (host + i)) = s.byteAt (.tier (dev + i))))))

/-- Register accesses. One of a wrong size or alignment has no effect: of the host it counts in HIF.BADACC and sets HIF.EVT.BADACC, of a core it is an exception, privilege in user state and else alignment, before its next leaf. RW fields take what
the access addresses, W1C bits clear; writes of the SEC block by the host, and before PHASE 7 all others, are ignored. A read answers the register, and clears RC bits; a 4-byte host read of the low half of a counter latches the whole, and the high half
answers from the latch. BAR2 holds each vector's address, data and mask, and clearing a mask lets a pending vector fire; configuration space keeps its writable bits (which words of it there are is free, assumption log
row 122). That a wrong access of a core is raised before its next leaf, and what a reset value is that the manual does not give, are the model's choices (assumption log rows 147 and 8). -/
def Obligations.RegisterAccess : Prop :=
  ∀ (s : State), s.waits = [] →
    let may (src : Src) : Prop := src = .host ∨ src = .mgmt ∨ ∃ p, src = .core p ∧ p < 1300 ∧ (s.coreAt p).arch.priv = true
    (∀ (off size : Nat) (v : Word), csrAccessWf .host off size = true →
      (csrSizeOk off size = false →
        Completes (.registerWrite .host off size v) s (fun t => t.raw Reg.hifBadacc = s.raw Reg.hifBadacc + 1 ∧ t.bit Reg.hifEvt 2 = true ∧ t.bit Reg.hifBadaddr 63 = true ∧
          t.fld Reg.hifBadaddr 47 0 = off ∧ SameRegs s t [Reg.hifBadacc, Reg.hifBadaddr, Reg.hifEvt] ∧ SameBytes s t ∧ SameCores s t []) ∧
        Completes (.rcRead .host off size) s (fun t => t.raw Reg.hifBadacc = s.raw Reg.hifBadacc + 1 ∧ t.bit Reg.hifEvt 2 = true ∧ t.bit Reg.hifBadaddr 63 = false ∧
          OutMsg.csrData 0 ∈ t.hif.out ∧ SameRegs s t [Reg.hifBadacc, Reg.hifBadaddr, Reg.hifEvt]) ∧
        exec (.registerWrite .mgmt off size v) s = .next s ∧ exec (.rcRead .mgmt off size) s = .next s) ∧
      (∀ p, p < 1300 → csrSizeOk off size = false ∨ (s.coreAt p).arch.priv = false →
        let raised (t : State) : Prop := SameRegs s t [] ∧ SameCores s t [p] ∧ t = { s with cores := t.cores } ∧
          ((s.coreAt p).arch.flow.exc = none → (t.coreAt p).arch.flow.exc = some (leafExc (if (s.coreAt p).arch.priv then 6 else 2) 0 0 0 (csrBase + off)))
        Completes (.registerWrite (.core p) off size v) s raised ∧ Completes (.rcRead (.core p) off size) s raised)) ∧
    (∀ (src : Src) (v : Word), may src → (∃ p, src = .core p) ∨ s.phase = 7 →
      Completes (.registerWrite src Reg.hifEvten 8 v) s (fun t => t.raw Reg.hifEvten = v &&& 0x3F ∧ SameRegs s t [Reg.hifEvten] ∧ t = { s with csr := t.csr }) ∧
      Completes (.registerWrite src Reg.hifEvt 8 v) s (fun t => t.raw Reg.hifEvt = s.raw Reg.hifEvt &&& ~~~v &&& 0x3F ∧ SameRegs s t [Reg.hifEvt] ∧ t = { s with csr := t.csr }) ∧
      (∀ c i, c < 100 → i < 12 → Completes (.registerWrite src (Reg.cluTcmp c i) 4 v) s fun t =>
        t.raw (Reg.cluTcmp c i) = (s.raw (Reg.cluTcmp c i) &&& 0xFFFFFFFF00000000) ||| (v &&& 0xFFFFFFFF) ∧ SameRegs s t [Reg.cluTcmp c i] ∧ t = { s with csr := t.csr })) ∧
    (∀ off v, off % 8 = 0 → (0xA00000 ≤ off ∧ off < 0xB00000) ∨ (s.phase ≠ 7 ∧ off < 0x4000000 ∧ off ≠ Reg.devFeatctl ∧ (off < Reg.devFeatAccept 0 ∨ Reg.devFeatAccept 3 < off)) →
      exec (.registerWrite .host off 8 v) s = .next s) ∧
    (∀ (src : Src) off, may src → off % 8 = 0 → off < 0x4000000 → rcMask off = 0 →
      Completes (.rcRead src off 8) s fun t => t = s.emit (.csrData (s.csrRead off))) ∧
    (∀ i, i < 1200 → ∀ src : Src, may src → Completes (.rcRead src (Reg.secMboxIn i) 8) s fun t =>
      t.hif.out = s.hif.out ++ [.csrData (s.cur (Reg.secMboxIn i))] ∧ t.raw (Reg.secMboxIn i) = 0 ∧ SameRegs s t [Reg.secMboxIn i] ∧ SameBytes s t ∧ SameCores s t []) ∧
    (∀ o, o % 8 = 0 → o + 4 < 0x4000000 → isCounter o = true →
      Completes (.hostCounterRead o) s (fun t => t.hif.out = s.hif.out ++ [.csrData (s.csrRead o &&& 0xFFFFFFFF)] ∧ t.hif.latch = some (o, s.csrRead o) ∧ t.csr = s.csr) ∧
      (∀ v, s.hif.latch = some (o, v) → Completes (.hostCounterRead (o + 4)) s fun t => t.hif.out = s.hif.out ++ [.csrData (v >>> 32)] ∧ t.csr = s.csr)) ∧
    (∀ vec (v : Word), vec < 32 →
      (∀ k, k < 3 → Completes (.registerWrite .bar2 (16 * vec + 4 * k) 4 v) s fun t => t.bar2Word (4 * vec + k) = wfld v 31 0 ∧
        (∀ d, d ≠ 4 * vec + k → t.bar2Word d = s.bar2Word d) ∧ t = { s with hif := { s.hif with table := t.hif.table } }) ∧
      (wfld v 0 0 = 1 → Completes (.registerWrite .bar2 (16 * vec + 12) 4 v) s fun t => t.hif.mask.getLsbD vec = true ∧
        (∀ k, k < 32 → k ≠ vec → t.hif.mask.getLsbD k = s.hif.mask.getLsbD k) ∧ t = { s with hif := { s.hif with mask := t.hif.mask } }) ∧
      (wfld v 0 0 = 0 → Completes (.registerWrite .bar2 (16 * vec + 12) 4 v) s fun t => t.hif.mask.getLsbD vec = false ∧
        t.hif.out = s.hif.out ++ (if s.hif.pend.getLsbD vec then [.msix vec] else []) ∧ t.csr = s.csr)) ∧
    (∀ off (v : Word), off % 4 = 0 →
      (off + 4 ≤ 0x10000 → Completes (.rcRead .bar2 off 4) s fun t => t = s.emit (.csrData (BitVec.ofNat 64 (s.bar2Word (off / 4))))) ∧
      (off + 4 ≤ 0x1000 → Completes (.rcRead .config off 4) s (fun t => t = s.emit (.csrData (BitVec.ofNat 64 (s.confRead (off / 4))))) ∧
        Completes (.registerWrite .config off 4 v) s fun t =>
          t.confRead (off / 4) = ((Config.confWord (off / 4) &&& ~~~(Config.confMask (off / 4))) ||| (BitVec.ofNat 32 (wfld v 31 0) &&& Config.confMask (off / 4))).toNat ∧
          t.csr = s.csr ∧ t.mem = s.mem ∧ t.cores = s.cores))

/-- The window of the host and the features. DEV_FEATCTL_COMMIT makes the features that are accepted and offered active when feature 0 is accepted, no queue is enabled, and no window is enabled that a change concerns, else it sets ERR and changes nothing. HIF_HDMCTL_EN opens the window with feature 1 in force and the window below
capacity. HOST_MEM_ACCESS: a write stores its bytes, a read answers them, and an access outside the window or whose check fails answers ones or drops the data, and counts in HIF.BADACC. That the snoop filter keeps whole lines and when the device asks the host for one are the model's choices (assumption log rows 104 and 105). -/
def Obligations.HostWindowAndFeatures : Prop :=
  ∀ (s : State), s.Calm →
    (let next := s.raw (Reg.devFeatAccept 0) &&& s.featOffer
     let changes (i : Nat) : Prop := next.getLsbD i ≠ (s.raw (Reg.devFeatActive 0)).getLsbD i
     let may : Prop := s.bit (Reg.devFeatAccept 0) 0 = true ∧ (∀ n, n < 16 → s.bit (Reg.hifQCtrl n) 63 = false) ∧ (changes 2 → ∀ n, n < 8 → s.bit (Reg.hifHwinCfg n) 3 = false) ∧
       (changes 1 ∨ changes 5 → s.bit Reg.hifHdmctl 0 = false)
     (may → Completes .devFeatctlCommit s fun t => t.raw (Reg.devFeatActive 0) = next ∧ (∀ w, 1 ≤ w → w < 4 → t.raw (Reg.devFeatActive w) = 0) ∧ SameBytes s t ∧ SameCores s t []) ∧
     (¬may → Completes .devFeatctlCommit s fun t => t.bit Reg.devFeatctl 1 = true ∧ SameRegs s t [Reg.devFeatctl] ∧ t = { s with csr := t.csr })) ∧
    (∀ v, s.phase = 7 →
      let fits := (s.fld Reg.hifHdmbase 40 28 + s.fld Reg.hifHdmsize 40 28) * 2 ^ 28 ≤ s.capBytes
      Completes (.hifHdmctlEn v) s fun t => SameRegs s t [Reg.hifHdmctl] ∧ t = { s with csr := t.csr } ∧
        (wfld v 0 0 = 0 → t.bit Reg.hifHdmctl 0 = false) ∧ (wfld v 0 0 = 1 → s.feature 1 = true → fits → t.bit Reg.hifHdmctl 0 = true) ∧
        (wfld v 0 0 = 1 → s.feature 1 = false → t.bit Reg.hifHdmctl 0 = s.bit Reg.hifHdmctl 0) ∧
        (wfld v 0 0 = 1 → s.feature 1 = true → ¬fits → t.bit Reg.hifHdmctl 0 = s.bit Reg.hifHdmctl 0 ∧ t.bit Reg.hifHdmctl 1 = true)) ∧
    (∀ (hpa a len : Nat) (data : List Byte), (∀ u, s.errAt u = 0) →
      (s.windowAddr hpa data.length = some a → a + data.length ≤ s.capBytes → s.InTiers a data.length → s.checkRange none none .write a data.length = none →
        Completes (.hostMemAccess true hpa len data) s fun t => t.hif.out = s.hif.out ++ [.memDone] ∧ (∀ i, i < data.length → t.byteAt (.tier (a + i)) = data.getD i 0) ∧
          (∀ l, (∀ i, i < data.length → l ≠ .tier (a + i)) → t.byteAt l = s.byteAt l)) ∧
      (s.windowAddr hpa len = some a → a + len ≤ s.capBytes → s.InTiers a len → s.checkRange none none .read a len = none → len ≤ 64 →
        Completes (.hostMemAccess false hpa len data) s fun t => t.hif.out = s.hif.out ++ [.memData ((upto len).map fun i => s.byteAt (.tier (a + i))) false] ∧ SameBytes s t ∧
          SameRegs s t [] ∧ SameCores s t [] ∧ (∀ x, x ∈ t.hif.snoop ↔ s.feature 5 = true ∧ x ∈ linesOf a len)) ∧
      (s.windowAddr hpa len = none ∨ (s.windowAddr hpa len = some a ∧ (s.checkRange none none .read a len).isSome = true) → Completes (.hostMemAccess false hpa len data) s fun t => OutMsg.memData (List.replicate len 0xFF) false ∈ t.hif.out ∧ SameBytes s t ∧
        t.raw Reg.hifBadacc = s.raw Reg.hifBadacc + 1 ∧ t.bit Reg.hifEvt 3 = true) ∧
      (s.windowAddr hpa data.length = none ∨ (s.windowAddr hpa data.length = some a ∧ (s.checkRange none none .write a data.length).isSome = true) → Completes (.hostMemAccess true hpa len data) s fun t => OutMsg.memDone ∈ t.hif.out ∧ SameBytes s t ∧
        t.raw Reg.hifBadacc = s.raw Reg.hifBadacc + 1 ∧ t.bit Reg.hifEvt 3 = true))

/-- Doorbells set with feature 4 in force and clear; an unmasked vector fires when it is pending. LINK_RESET stops every enabled queue, and no line is held by the host; CXL_RESET gives the HIF block and the active features their reset values as well;
LINK_RETURN_TO_L0 brings the link up. The SPDM messages are taken in their order, another gets a refusal that changes nothing (the order, the layouts and the key schedule are presumed or free, assumption log row 30): digests and certificates of the chain, challenges and
measurements with a signature of the Alias key, KEY_EXCHANGE with an ECDHE share and the keys of a session, FINISH with its proof, and END_SESSION and IDE_KM as records sealed with AES-256-GCM, IDE keys with feature 3.
What a link reset does to a command at work is the model's choice (assumption log rows 109, 110, 130 and 131). -/
def Obligations.LinkAndSessions : Prop :=
  ∀ (s : State), s.waits = [] →
    (∀ w v, w < 19 →
      (s.phase = 7 → s.feature 4 = true → Completes (.hifCdb w v) s fun t => t.raw (Reg.hifCdb w) = s.raw (Reg.hifCdb w) ||| (v &&& cdbMask w) ∧ SameRegs s t [Reg.hifCdb w] ∧ t = { s with csr := t.csr }) ∧
      (s.feature 4 = false → exec (.hifCdb w v) s = .next s) ∧
      Completes (.hifCdbc w v) s fun t => t.raw (Reg.hifCdb w) = s.raw (Reg.hifCdb w) &&& ~~~v ∧ SameRegs s t [Reg.hifCdb w] ∧ t = { s with csr := t.csr }) ∧
    (∀ vec, vec < 32 → Completes (.msixUnmask vec) s fun t => t.hif.mask.getLsbD vec = false ∧ t.hif.pend.getLsbD vec = false ∧
      (∀ k, k < 32 → k ≠ vec → t.hif.mask.getLsbD k = s.hif.mask.getLsbD k ∧ t.hif.pend.getLsbD k = s.hif.pend.getLsbD k) ∧
      t.hif.out = s.hif.out ++ (if s.hif.pend.getLsbD vec then [.msix vec] else []) ∧ t.csr = s.csr) ∧
    (let stopped (t : State) : Prop := t.hif.linkUp = false ∧ t.hif.snoop = [] ∧ t.hif.biWait = [] ∧ SameBytes s t ∧ ∀ p, (t.coreAt p).arch = (s.coreAt p).arch ∧ (t.coreAt p).ldm = (s.coreAt p).ldm
     Sparse.wf coreReset s.cores = true →
      Completes .linkReset s (fun t => stopped t ∧ ∀ n, n < 16 → s.bit (Reg.hifQCtrl n) 63 = true → (s.queueAt n).stopped = false →
        (t.queueAt n).stopped = true ∧ (t.queueAt n).cmd = none ∧ t.fld (Reg.hifQStat n) 15 8 = 1 ∧ t.bit (Reg.hifQStat n) 0 = false ∧ t.bit Reg.hifEvt 4 = true) ∧
      Completes .cxlReset s (fun t => stopped t ∧ t.hif.queues = [] ∧ (∀ off, 0x100000 ≤ off → off < 0x200000 → t.raw off = csrDefault off) ∧
        (∀ w, w < 4 → t.raw (Reg.devFeatActive w) = csrDefault (Reg.devFeatActive w)))) ∧
    Completes .linkReturnToL0 s (fun t => t = { s with hif := { s.hif with linkUp := true } }) ∧
    (∀ body,
      let st := s.hif.spdm
      let kept (t : State) : Prop := t.csr = s.csr ∧ t.mem = s.mem ∧ t.cores = s.cores ∧ t.clusters = s.clusters
      let answers (c : Instr) (msg : Nat) (data : List Byte) (next : Nat) : Prop := Completes c s fun t =>
        (∃ n, t.hif.out = s.hif.out ++ [.spdm (Config.spdmBody msg data body n)]) ∧ t.hif.spdm = next ∧ kept t
      let signed (c : Instr) (msg : Nat) (data : List Byte) (next : Nat) : Prop := Completes c s fun t =>
        (∃ k n, t.hif.out = s.hif.out ++ [.spdm (Config.spdmBody msg (data ++ ecdsaSign s.aliasSecret k (body ++ data)) body n)]) ∧ t.hif.spdm = next ∧ kept t
      let refuses (c : Instr) : Prop := Completes c s fun t =>
        (∃ n, t.hif.out = s.hif.out ++ [.spdm (Config.spdmBody 0 [] body n)]) ∧ t.hif.spdm = st ∧ t.hif.sess = s.hif.sess ∧ t.hif.ideKeys = s.hif.ideKeys ∧ kept t
      answers (.getVersion body) 1 [] 1 ∧
      (st = 1 → answers (.getCapabilities body) 2 [] 2) ∧ (st ≠ 1 → refuses (.getCapabilities body)) ∧
      (st = 2 → answers (.negotiateAlgorithms body) 3 [] 3) ∧ (st ≠ 2 → refuses (.negotiateAlgorithms body)) ∧
      (3 ≤ st → answers (.getDigests body) 4 (sha384 s.certChain) st ∧ answers (.getCertificate body) 5 s.certChain st ∧ signed (.challenge body) 6 (sha384 s.certChain) st ∧
        signed (.getMeasurements body) 7 ((upto 7).flatMap fun i => s.meas (i + 1)) st) ∧
      (st < 3 → refuses (.getDigests body) ∧ refuses (.getCertificate body) ∧ refuses (.challenge body) ∧ refuses (.getMeasurements body)) ∧
      (let d := drawScalar s.draw.1
       (∀ z, 3 ≤ st → ecdh d (Config.spdmShare body) = some z →
         signed (.keyExchange body) 8 (ecPublic d) 4 ∧ Completes (.keyExchange body) s fun t => ∃ x, t.hif.sess = some x ∧ x.trans = body ++ ecPublic d ∧
           x.finKey = Config.spdmKey z x.trans 0 ∧ x.reqKey = (Config.spdmKey z x.trans 1).take 32 ++ (Config.spdmKey z x.trans 3).take 12 ∧
           x.rspKey = (Config.spdmKey z x.trans 2).take 32 ++ (Config.spdmKey z x.trans 4).take 12 ∧ x.reqSeq = 0 ∧ x.rspSeq = 0) ∧
       (st < 3 ∨ ecdh d (Config.spdmShare body) = none → refuses (.keyExchange body))) ∧
      (∀ x, s.hif.sess = some x →
        (st = 4 → Config.spdmProof body = hmac384 x.finKey (sha384 x.trans) → answers (.finish body) 9 [] 5) ∧
        (st ≠ 4 ∨ Config.spdmProof body ≠ hmac384 x.finKey (sha384 x.trans) → refuses (.finish body)) ∧
        (let opened := gcmOpen (x.reqKey.take 32) (spdmNonce (x.reqKey.drop 32) x.reqSeq) body
         let sealed (msg : Nat) (p : List Byte) (t : State) : Prop := kept t ∧ ∃ n, t.hif.out = s.hif.out ++
           [.spdm (gcmSeal (x.rspKey.take 32) (spdmNonce (x.rspKey.drop 32) x.rspSeq) (Config.spdmBody msg [] p n))]
         (∀ p, st = 5 → opened = some p →
           Completes (.endSession body) s (fun t => sealed 10 p t ∧ t.hif.spdm = 3 ∧ t.hif.sess = none) ∧
           (s.feature 3 = true → Completes (.ideKm body) s fun t => sealed 11 p t ∧ t.hif.ideKeys = some p ∧ t.hif.spdm = 5 ∧
             t.hif.sess = some { x with reqSeq := x.reqSeq + 1, rspSeq := x.rspSeq + 1 })) ∧
         (st ≠ 5 ∨ opened = none → refuses (.endSession body)) ∧ (st ≠ 5 ∨ opened = none ∨ s.feature 3 = false → refuses (.ideKm body)))) ∧
      (s.hif.sess = none → refuses (.finish body) ∧ refuses (.endSession body) ∧ refuses (.ideKm body)))

/-! ### Start-up, resets and settings -/

/-- MAIN_POWER_GOOD and MOD_RESET_N with the main rails on reset the device and sample the straps: seats 9 to 15 are held, ROLE 3 stops with cause 8, the tender clock, host memory, the flash, the firmware slots and the anti-rollback counters stay.
STANDBY_LOSS, MAIN_CUTOFF and THERMAL_CUTOFF take the main rails off. After a cut-off a good input does nothing. MOD_RESET_N or a loss of standby that finds a write of the MRAM under way may cut it off (whether it does, and where, is free, assumption log row 153): that leaves a record or row whose CRC
fails, or a boot record that does not check, every other record and the active user half as they were. What a device reset leaves, and the tender clock over it, are the model's readings (assumption log rows 112, 115 and 16). -/
def Obligations.PowerAndResets : Prop :=
  ∀ (s : State) (seat role boot : Nat), s.waits = [] →
    let fresh (t : State) : Prop := t.cores = [] ∧ t.clusters = [] ∧ t.mem.tiers = [] ∧ t.mem.isOpen = false ∧ t.mem.host = s.mem.host ∧ t.mem.flash = s.mem.flash ∧
      t.tender.slotA = s.tender.slotA ∧ t.tender.slotB = s.tender.slotB ∧ t.tender.creds = s.tender.creds ∧ t.tender.sessions = [] ∧
      t.sys.fwRuns = false ∧ t.sys.cfgApplied = false ∧ t.sys.cutoff = false ∧ t.sys.time = 0 ∧ t.fab.queues = [] ∧ t.hif.linkUp = false
    let kept (t : State) : Prop := fresh t ∧ t.tender.boot = s.tender.boot ∧ t.sys.train = s.sys.train ∧ t.sys.arb = s.sys.arb ∧ (∀ k, k < 8 → t.raw (Reg.secArb k) = s.raw (Reg.secArb k))
    let cut (w : MramTear) : Prop := s.writesNow 0 ≠ [] ∧ Config.tornOff s.sys.freeCnt = true ∧ w ∈ s.writesNow (Config.tornAt s.sys.freeCnt)
    let fate (t : State) : Prop :=
      (s.writesNow 0 = [] ∨ Config.tornOff s.sys.freeCnt = false → kept t) ∧ (cut .boot → t.tender.boot.ok = false) ∧ (¬cut .boot → t.tender.boot = s.tender.boot) ∧
      (∀ i, (cut (.channel i) → trainOk 128 (t.sys.train.chan i) = false) ∧ (¬cut (.channel i) → t.sys.train.chan i = s.sys.train.chan i)) ∧
      (∀ i, (cut (.port i) → trainOk 512 (t.sys.train.port i) = false) ∧ (¬cut (.port i) → t.sys.train.port i = s.sys.train.port i)) ∧
      (∀ i, (cut (.island i) → trainOk 64 (t.sys.train.island i) = false) ∧ (¬cut (.island i) → t.sys.train.island i = s.sys.train.island i)) ∧
      (∀ k j, j < 4 → (cut (.counter k j) → rowOk (t.arbRow k j) = false) ∧ (¬cut (.counter k j) → t.arbRow k j = s.arbRow k j)) ∧
      (∀ k h, s.activeHalf = some (k, h) → (if k = 0 then t.sys.userA else t.sys.userB) = h)
    let sampled (t : State) : Prop := t.sys.mainGood = true ∧ t.sys.clockRuns = true ∧ t.sys.tclk0 = s.tclk ∧
      t.fld Reg.cfgStraps 3 0 = seat % 16 ∧ t.fld Reg.cfgStraps 5 4 = role % 4 ∧ t.fld Reg.cfgStraps 6 6 = boot % 2 ∧ t.sys.held = decide (9 ≤ seat % 16) ∧
      (role % 4 = 3 → seat % 16 < 9 → t.phase = 8 ∧ t.fld Reg.cfgStat 15 8 = 8) ∧ (role % 4 ≠ 3 → t.phase = 0)
    let off (t : State) : Prop := t.sys.mainGood = false ∧ t.sys.standby = false ∧ t.sys.clockRuns = false ∧ t.tclk = 0
    let rails (t : State) : Prop := t.cores = [] ∧ t.clusters = [] ∧ t.mem.tiers = [] ∧ t.mem.host = s.mem.host ∧ t.sys.mainGood = false
    (s.sys.mainGood = false → s.sys.cutoff = false → Completes (.mainPowerGood seat role boot) s fun t => kept t ∧ sampled t) ∧
    (s.sys.mainGood = true ∨ s.sys.cutoff = true → exec (.mainPowerGood seat role boot) s = .next s) ∧
    (s.sys.mainGood = true → Completes (.modResetN seat role boot) s fun t => fresh t ∧ fate t ∧ sampled t) ∧
    (s.sys.mainGood = false → Completes (.modResetN seat role boot) s fun t => fresh t ∧ fate t ∧ t.sys.mainGood = false) ∧
    Completes .standbyLoss s (fun t => fresh t ∧ fate t ∧ off t) ∧
    (∀ mV, (s.sys.mainGood = true → Completes (.mainCutoff mV) s fun t => rails t ∧ t.sys.cutoff = true ∧ t.raw Reg.relEvhead = s.raw Reg.relEvhead + 1) ∧
      (s.sys.mainGood = false → exec (.mainCutoff mV) s = .next s)) ∧
    (∀ island temp, island < 170 →
      (s.sys.mainGood = true → Completes (.thermalCutoff island temp) s fun t => rails t ∧ t.sys.cutoff = true ∧ t.sys.thermtrip = true ∧ t.raw Reg.relEvhead = s.raw Reg.relEvhead + 1) ∧
      (s.sys.mainGood = false → exec (.thermalCutoff island temp) s = .next s))

/-- The start-up phases follow each other. P1 starts training on enabled ports and, with no image asked for or a slot that passes, puts the layers in force; an image that fails stops the start with its cause, and so do two masters. P2 calibrates the islands that have no stored points to use and gives the others the voltage kept for them, or stops with cause 7 and a record of the value and its limit;
P3 trains the channels that cannot take their stored values and sets the capacity for those that are out; P4 clears and opens the tiers; P5 gives the logical cores to the passing positions and makes the thirteenth the spare, or stops with cause 9; P6 gives PHASE 7, and holds PHASE 6 while a port trains.
A member without an image stops with cause 4 at its time limit. A phase out of its turn does nothing. When masters are looked for, how P5 names what fails, that P6 is given again, and what a training or calibration finds, are the model's choices
(assumption log rows 116, 117, 151 and 154). -/
def Obligations.StartUpPhases : Prop :=
  ∀ (s : State), s.waits = [] →
    let ready := s.sys.mainGood = true ∧ s.sys.held = false ∧ s.sys.fwRuns = true
    let stopped (n : Nat) (t : State) : Prop := t.phase = 8 ∧ t.fld Reg.cfgStat 15 8 = n ∧ t.mem.isOpen = false
    (ready → s.phase = 0 → s.sys.cfgApplied = false →
      let training (t : State) : Prop := ∀ p, p < 36 → t.portState p = if wfld (s.raw (Reg.fabPCtrl p)) 0 0 = 1 ∧ s.portState p = 0 then 1 else s.portState p
      (2 ≤ s.masters.length → Completes .p1 s fun t => stopped 5 t ∧ training t) ∧
      (s.masters = [] →
       (s.fld Reg.cfgStraps 6 6 = 1 → Completes .p1 s fun t => t.phase = 1 ∧ t.sys.cfgApplied = true ∧ training t ∧ SameCores s t [] ∧ SameBytes s t) ∧
       (s.fld Reg.cfgStraps 6 6 = 0 → s.fld Reg.cfgStraps 5 4 ≤ 1 → Completes .p1 s fun t =>
         match s.chooseSlot.2.1 with
         | some k => t.phase = 1 ∧ t.sys.cfgApplied = true ∧ t.fld Reg.cfgImage 2 0 = (k + 1) % 8
         | none => stopped s.chooseSlot.2.2 t ∧ t.sys.cfgApplied = false) ∧
       (s.fld Reg.cfgStraps 6 6 = 0 → s.fld Reg.cfgStraps 5 4 = 2 → s.fab.imgCells = 0 → Completes .p1 s fun t => t.phase = 1 ∧ t.sys.cfgApplied = false ∧ training t))) ∧
    (s.sys.fwRuns = false ∨ 1 < s.phase → exec .p1 s = .next s) ∧
    (∀ temps refused, refused.all (fun i => decide (i < 170)) = true → s.phase = 1 → s.sys.cfgApplied = true →
      let points (n : Nat) (t : State) : Prop := ∀ i, i < 170 →
        (i < n ∧ s.recalibrates refused i = true → t.sys.train.island i = trainRecord 64 i (temps.getD i 0) (Config.trained 2 i s.sys.freeCnt) ∧ t.voltsKept i = 0 ∧ t.voltsNow i = 0) ∧
        (¬(i < n ∧ s.recalibrates refused i = true) → t.sys.train.island i = s.sys.train.island i ∧ t.voltsKept i = s.voltsKept i ∧
          t.voltsNow i = if i < n then s.voltsKept i else s.voltsNow i)
      Completes (.p2 ⟨temps, refused, none⟩) s (fun t => t.phase = 2 ∧ points 170 t ∧ SameRegs s t [Reg.cfgStat] ∧ SameCores s t [] ∧ SameBytes s t) ∧
      ∀ i value limit, i < 170 → Completes (.p2 ⟨temps, refused, some ⟨i, value, limit⟩⟩) s fun t => stopped 7 t ∧ points i t ∧ t.raw Reg.relEvhead = s.raw Reg.relEvhead + 1 ∧
        let word (k : Nat) : Nat := (t.raw (Reg.relRing ((s.raw Reg.relEvhead).toNat % 1024) k)).toNat
        word 0 % 2 ^ 8 = 9 ∧ word 4 = i + 3 * 2 ^ 8 ∧ word 5 = value % 2 ^ 64 ∧ word 6 = limit % 2 ^ 64 ∧ word 7 % 2 ^ 32 = 7) ∧
    (s.phase ≠ 1 → ∀ run, Instr.wf (.p2 run) = true → exec (.p2 run) s = .next s) ∧
    (∀ temps, s.phase = 2 → s.logWords = [] → s.mem.dead = [] →
      let values (t : State) (but : List Nat) : Prop := ∀ ch, ch < 1280 → ch ∉ but →
        t.sys.train.chan ch = if s.restores temps [] ch then s.sys.train.chan ch else trainRecord 128 ch (temps.getD (ch / 64) 0) (Config.trained 0 ch s.sys.freeCnt)
      Completes (.p3 ⟨temps, [], []⟩) s (fun t => t.phase = 3 ∧ t.fld Reg.memCapacity 31 0 = 737280 ∧ t.mem.dead = [] ∧ values t []) ∧
      ∀ ch, ch < 1280 → Completes (.p3 ⟨temps, [], [ch]⟩) s fun t => t.phase = 3 ∧ t.fld Reg.memCapacity 31 0 = 737280 - 577 ∧ t.mem.dead = [ch] ∧ t.chState ch = 3 ∧
        t.bit (Reg.memDead (ch / 64)) (ch % 64) = true ∧ values t [ch]) ∧
    (s.phase ≠ 2 → ∀ run, Instr.wf (.p3 run) = true → exec (.p3 run) s = .next s) ∧
    (s.phase = 3 → Completes .p4 s fun t => t.phase = 4 ∧ t.mem.tiers = [] ∧ t.mem.isOpen = true ∧ (∀ a, t.byteAt (.tier a) = 0) ∧ SameRegs s t [Reg.cfgStat] ∧ SameCores s t []) ∧
    (s.phase ≠ 3 → exec .p4 s = .next s) ∧
    (s.phase = 4 → s.mem.dead.length ≤ 32 → (∀ k, k < 1300 → s.isFailed k = false) →
      Completes (.p5 [] [] [] [] []) s (fun t => t.phase = 5 ∧ t.fld Reg.cfgStat 31 20 = 0 ∧
        ∀ c, c < 100 → (∀ i, i < 12 → t.posOf (12 * c + i) = some (13 * c + i) ∧ t.lcidOf (13 * c + i) = 12 * c + i) ∧ t.isSpare (13 * c + 12) = true ∧ t.stateOf (13 * c + 12) = 3) ∧
      (∀ k, k < 1300 → Completes (.p5 [k] [] [] [] []) s fun t => t.phase = 5 ∧ t.isFailed k = true ∧ t.raw Reg.relEvhead ≠ s.raw Reg.relEvhead ∧
        ∀ i, i < 12 → t.posOf (12 * (k / 13) + i) = some (13 * (k / 13) + if i < k % 13 then i else i + 1)) ∧
      ∀ u, Completes (.p5 [] [] [] [] [u]) s fun t => stopped 9 t ∧ t.raw Reg.relEvhead = s.raw Reg.relEvhead + 1) ∧
    (s.phase ≠ 4 → ∀ a b c d e, Instr.wf (.p5 a b c d e) = true → exec (.p5 a b c d e) s = .next s) ∧
    (let ended (t : State) : Prop := t.phase = 7 ∧ t.fld Reg.cfgReadyt 31 0 = s.sys.time / 1000000 % 2 ^ 32
     (s.phase = 5 → (∀ p, p < 36 → s.portState p ≠ 1) → Completes .p6 s fun t => ended t ∧ SameRegs s t [Reg.cfgStat, Reg.cfgReadyt] ∧ t = { s with csr := t.csr }) ∧
     (s.phase = 5 → (∃ p, p < 36 ∧ s.portState p = 1) → Completes .p6 s fun t => t.phase = 6 ∧ SameRegs s t [Reg.cfgStat] ∧ t = { s with csr := t.csr }) ∧
     (s.phase = 6 → Completes .p6 s fun t => ended t ∧ ∀ p, p < 36 → t.portState p = if s.portState p = 1 then 0 else s.portState p)) ∧
    (s.phase ≠ 5 → s.phase ≠ 6 → exec .p6 s = .next s) ∧
    (ready → s.fld Reg.cfgStraps 5 4 = 2 → s.fld Reg.cfgStraps 6 6 = 0 → s.phase ≤ 1 →
      (s.sys.cfgApplied = false → Completes .memberImageTimeout s fun t => stopped 4 t) ∧ (s.sys.cfgApplied = true → exec .memberImageTimeout s = .next s))

/-- STORE and ERASE take the records of the settings, or none, for the next user half while PHASE is 7 and no store is under way; STORE_COMPLETE makes the new half active with the next generation, or on a failed write leaves the former one active and sets ERR 4. The inputs and the governor:
a low main input drops every cluster to STEP 0 with its cycles kept; a clock moves one step at a time towards the least of its caps; samples, while the governor is enabled, lower and raise the power cap and report peaks and a hold at STEP 0, thermal readings move the
thermal cap; the monitors and sensors note and report what they find. What STORE takes and a failed STORE leaves, how samples are counted and compared, how islands are numbered, and what an average of few samples is, are the model's choices (assumption log rows 118,
120, 121 and 155), and so is how PWR.CAPCYC counts (row 195). -/
def Obligations.SettingsAndPower : Prop :=
  ∀ (s : State), s.waits = [] →
    (let asks (c : Instr) (recs : List SetRec) : Prop :=
       (s.bit Reg.cfgStore 2 = true → Completes c s fun t => t.fld Reg.cfgStore 15 8 = 1 ∧ t.sys = s.sys) ∧
       (s.bit Reg.cfgStore 2 = false → s.phase ≠ 7 → Completes c s fun t => t.fld Reg.cfgStore 15 8 = 2 ∧ t.sys = s.sys) ∧
       (s.bit Reg.cfgStore 2 = false → s.phase = 7 → recs.length ≤ 2728 → Completes c s fun t =>
         t.sys = { s.sys with storeReq := some recs } ∧ t.bit Reg.cfgStore 2 = true ∧ t.fld Reg.cfgStore 15 8 = 0 ∧ SameRegs s t [Reg.cfgStore]) ∧
       (s.bit Reg.cfgStore 2 = false → s.phase = 7 → 2728 < recs.length → Completes c s fun t => t.fld Reg.cfgStore 15 8 = 3 ∧ t.sys = s.sys)
     asks .cfgStoreStore s.storeRecs ∧ asks .cfgStoreErase []) ∧
    (∀ recs, s.sys.storeReq = some recs → s.sys.fwRuns = true → recs.length ≤ 2728 →
      let k := match s.activeHalf with | some (a, _) => 1 - a | none => 0
      let gen := match s.activeHalf with | some (_, h) => headGen h.head + 1 | none => 1
      (gen < 2 ^ 32 → Completes (.storeComplete true) s fun t => t.activeHalf = some (k, userHalf gen recs) ∧ (userHalf gen recs).live = recs ∧ t.bit Reg.cfgStore 2 = false ∧
        t.raw Reg.cfgStores = s.raw Reg.cfgStores + 1 ∧ t.fld Reg.cfgUsergen 63 32 = gen ∧ t.fld Reg.cfgUsergen 0 0 = k ∧ t.sys.storeReq = none) ∧
      Completes (.storeComplete false) s (fun t => t.activeHalf = s.activeHalf ∧ t.bit Reg.cfgStore 2 = false ∧ t.fld Reg.cfgStore 15 8 = 4 ∧ t.sys.storeReq = none)) ∧
    (s.sys.storeReq = none ∨ s.sys.fwRuns = false → ∀ ok, exec (.storeComplete ok) s = .next s) ∧
    (∀ mV, s.sys.mainGood = true → s.sys.lowSpell = false → Completes (.mainInputLow mV) s fun t => t.sys.lowSpell = true ∧ t.raw Reg.relEvhead = s.raw Reg.relEvhead + 1 ∧
      ∀ c, c < 100 → (t.cluAt c).clock.step = 0 ∧ t.fld (Reg.pwrClu c) 11 8 = 0 ∧ t.cycles c = s.cycles c) ∧
    (∀ mV, (40000 ≤ mV → Completes (.mainInputBackInRange mV) s fun t => t = { s with sys := { s.sys with lowSpell := false } }) ∧ (mV < 40000 → exec (.mainInputBackInRange mV) s = .next s)) ∧
    (∀ c, c < 100 →
      let k := (s.cluAt c).clock.step
      (s.sys.mainGood = true → k ≠ s.wantedStep c → k ≤ 10 → Completes (.clockStepChange c) s fun t =>
        (t.cluAt c).clock.step = (if k < s.wantedStep c then k + 1 else k - 1) ∧ t.fld (Reg.pwrClu c) 11 8 = (t.cluAt c).clock.step ∧ t.cycles c = s.cycles c ∧
        (∀ n, (∃ x, x < 100 ∧ (s.cluAt x).clock.step < 10) → n = (s.sys.time + 999) / 1000 - s.sys.capMark → t.raw Reg.pwrCapcyc = s.raw Reg.pwrCapcyc + BitVec.ofNat 64 n) ∧
        ((∀ x, x < 100 → 10 ≤ (s.cluAt x).clock.step) → t.raw Reg.pwrCapcyc = s.raw Reg.pwrCapcyc) ∧ SameRegs s t [Reg.pwrClu c, Reg.pwrCapcyc] ∧ SameClusters s t [c]) ∧
      (s.sys.mainGood = false ∨ k = s.wantedStep c → exec (.clockStepChange c) s = .next s)) ∧
    (∀ mW mV inlet outlet,
      let watts := s.fld Reg.pwrLimit 11 0
      let peak := (watts + 10 * s.fld Reg.pwrLimit 47 40) * 1000
      let cap := s.fld Reg.pwrStat 3 0
      let telem := s.bit Reg.pwrStat 8 = true ∨ (s.phase = 7 ∧ 1000 ≤ s.sys.govServe + 1)
      let calm := s.sys.govPeak + 10 ≤ s.sys.govTicks + 1
      let power := lastOf 1000 (s.sys.power ++ [mW])
      let avg10 := average 100 power
      let avg100 := average 1000 power
      let cool (t : State) : Prop := t.fld Reg.pwrCool 15 0 = inlet % 2 ^ 16 ∧ t.fld Reg.pwrCool 31 16 = outlet % 2 ^ 16
      let posts (n : Nat) (t : State) : Prop := t.raw Reg.relEvhead = s.raw Reg.relEvhead + BitVec.ofNat 64 n
      let holds (t : State) : Prop := t.fld Reg.pwrStat 3 0 = 0 ∧ watts * 1000 < avg10 ∧ s.sys.govHeld = false
      let lowered (n k : Nat) (t : State) : Prop := t.fld Reg.pwrStat 3 0 = k ∧ (holds t → posts (n + 1) t) ∧ (¬holds t → posts n t)
      (s.sys.standby = false → Completes (.governorSample mW mV inlet outlet) s fun t => cool t ∧ SameRegs s t [Reg.pwrCool] ∧ t = { s with csr := t.csr }) ∧
      (s.sys.standby = true → Completes (.governorSample mW mV inlet outlet) s fun t => cool t ∧
        t.fld Reg.pwrPin 31 0 = avg10 % 2 ^ 32 ∧ t.fld Reg.pwrVin 15 0 = average 100 (s.sys.volts ++ [mV]) % 2 ^ 16 ∧ t.sys.power = power ∧
        t.raw Reg.pwrEnergy = s.raw Reg.pwrEnergy + BitVec.ofNat 64 ((s.sys.energyRem + mW) / 10000) ∧ t.sys.govTicks = s.sys.govTicks + 1 ∧
        (s.sys.mainGood = false → t.raw Reg.pwrStat = s.raw Reg.pwrStat ∧ posts 0 t) ∧
        (s.sys.mainGood = true → (telem → t.bit Reg.pwrStat 8 = true) ∧ (¬telem → t.bit Reg.pwrStat 8 = false) ∧
          (s.bit Reg.pwrCtrl 0 = false → t.fld Reg.pwrStat 3 0 = 10 ∧ posts 0 t) ∧
          (s.bit Reg.pwrCtrl 0 = true →
            (¬telem → lowered 0 (worstStep watts) t) ∧
            (telem → peak < mW → calm → lowered 1 (cap - 4) t) ∧
            (telem → ¬(peak < mW ∧ calm) → watts * 1000 < avg10 → lowered 0 (if calm ∧ s.sys.govLower + 10 ≤ s.sys.govTicks + 1 then cap - 1 else cap) t) ∧
            (telem → ¬(peak < mW ∧ calm) → avg10 ≤ watts * 1000 → avg100 + 10 * s.fld Reg.pwrLimit 39 32 * 1000 < watts * 1000 → s.sys.govRaise + 1000 ≤ s.sys.govTicks + 1 →
              lowered 0 (min 10 (cap + 1)) t) ∧
            (telem → ¬(peak < mW ∧ calm) → avg10 ≤ watts * 1000 → watts * 1000 ≤ avg100 + 10 * s.fld Reg.pwrLimit 39 32 * 1000 ∨ s.sys.govTicks + 1 < s.sys.govRaise + 1000 →
              lowered 0 cap t))))) ∧
    (∀ c temp, c < 100 →
      let lim := 10 * s.fld Reg.pwrTlim 7 0
      let cap := s.fld (Reg.pwrClu c) 15 12
      Completes (.thermalCapStep c temp) s fun t => t.fld (Reg.pwrClu c) 47 32 = temp % 2 ^ 16 ∧ SameCores s t [] ∧ SameBytes s t ∧
        (lim < temp → t.fld (Reg.pwrClu c) 15 12 = cap - 1 ∧ c ∈ t.sys.thEpisode ∧ t.raw Reg.relEvhead = s.raw Reg.relEvhead + (if c ∈ s.sys.thEpisode then 0 else 1)) ∧
        (temp ≤ lim → t.fld (Reg.pwrClu c) 15 12 = (if temp + 30 < lim ∧ cap < 10 then cap + 1 else cap) ∧ t.raw Reg.relEvhead = s.raw Reg.relEvhead)) ∧
    (∀ i, i < 170 → Completes (.timingMonitorRaise i) s fun t => t.voltsKept i = s.voltsKept i + 5 ∧ t.voltsNow i = s.voltsNow i + 5 ∧
      t = { s with sys := { s.sys with vAdd := t.sys.vAdd, vNow := t.sys.vNow } } ∧ ∀ j, j ≠ i → t.voltsKept j = s.voltsKept j ∧ t.voltsNow j = s.voltsNow j) ∧
    (∀ n temp, n < 20 → Completes (.reelStackRefreshDoubled n temp) s fun t => n ∈ t.mem.refresh2 ∧ t.raw Reg.relEvhead = s.raw Reg.relEvhead + 1 ∧ SameBytes s t ∧ SameCores s t []) ∧
    (∀ inlet, Completes (.coolantInletAboveTinlet inlet) s fun t => t.fld Reg.pwrCool 15 0 = inlet % 2 ^ 16 ∧ t.fld Reg.pwrCool 31 16 = s.fld Reg.pwrCool 31 16 ∧
      t.raw Reg.relEvhead = s.raw Reg.relEvhead + (if 10 * s.fld Reg.pwrTlim 23 16 < inlet then 1 else 0) ∧ t.mem = s.mem ∧ SameCores s t [])

/-! ### Snapshots -/

/-- SNAP_CTRL_NOW asks for a snapshot. PROTECTION_INSTANT, once every cluster of the context has ended its step and no calender is at work: a snapshot that is due protects the pages of its set and starts the generation that SNAP.NEXT names, is skipped while one is being drained, or
sets its error. POOL_COPY_DONE moves a page to the pool; PAGE_DRAINED queues a page for its partner, gives up a partner that cannot be reached, or writes a page to the checkpoint store, and after the last page completes the generation. SHARE_COPY writes the oldest generation to share to host memory.
SNAP_RESTORE_GO starts a restore on an idle device, and RESTORE_COMPLETE of a stored generation gives pages and registers their values of the snapshot. SNAP_PMEM_WRITE lets the engine send to the member again. Which pool page is taken, how a share copy lies, who serves a rebuild, how a member's messages are told apart, and what a member that was given up gets, are the model's choices
(assumption log rows 98, 99, 100, 101, 157 and 187). -/
def Obligations.SnapshotsTakenAndRestored : Prop :=
  ∀ (s : State), s.waits = [] →
    let served := (∀ ch, ch < 1280 → s.bit (Reg.memChStat ch) 4 = false) ∧ (∀ q ∈ s.mem.bankq, q.2.queue.length < 16) ∧ s.mem.parked = []
    (s.phase = 7 → Completes .snapCtrlNow s fun t => t = { s with snap := { s.snap with now := true } }) ∧
    (let cs := s.clustersOf (s.fld Reg.snapCfg 19 16)
     let step := (s.cur (Reg.calStep (cs.headD 0))).toNat
     let every := s.fld Reg.snapCfg 15 0
     let next := s.fld Reg.snapNext 31 0
     let due := s.snap.now = true ∨ (every ≠ 0 ∧ step % every = 0)
     (cs = [] ∨ (∃ c ∈ cs, c ∉ s.snap.ended) ∨ (∃ c, c < 100 ∧ 1 ≤ s.calPhase c ∧ s.calPhase c ≤ 3) → exec .protectionInstant s = .next s) ∧
     (cs ≠ [] → (∀ c ∈ cs, c ∈ s.snap.ended) → (∀ c, c < 100 → s.calPhase c = 0 ∨ 3 < s.calPhase c) → ¬due →
       Completes .protectionInstant s fun t => t = { s with snap := { s.snap with ended := s.snap.ended.filter fun c => !(cs.contains c) } }) ∧
     (cs ≠ [] → (∀ c ∈ cs, c ∈ s.snap.ended) → (∀ c, c < 100 → s.calPhase c = 0 ∨ 3 < s.calPhase c) → due →
       Completes .protectionInstant s fun t => t.snap.now = false ∧ SameBytes s t ∧ SameCores s t [] ∧ (∀ c ∈ cs, c ∉ t.snap.ended) ∧
         (s.snap.cur.isSome = true → t.raw Reg.snapSkipped = s.raw Reg.snapSkipped + 1 ∧ t.snap.prot = s.snap.prot ∧ t.snap.cur = s.snap.cur) ∧
         (s.snap.cur = none → s.snapCheck s.snapSet.length ≠ 0 → t.fld Reg.snapStat 23 16 = s.snapCheck s.snapSet.length ∧ t.snap.prot = s.snap.prot ∧ t.snap.cur = none) ∧
         (s.snap.cur = none → s.snapCheck s.snapSet.length = 0 → t.snap.prot = s.snapSet ∧ t.fld Reg.snapStat 2 0 = 1 ∧ t.fld Reg.snapStat 23 16 = 0 ∧
           t.fld Reg.snapNext 31 0 = (next + 1) % 2 ^ 32 ∧
           ∃ g, t.snap.cur = some g ∧ g.gen = next ∧ g.step = step ∧ g.set = s.snapSet ∧ g.record = s.stateRecord ∧ g.pages = [] ∧ g.complete = false ∧ g.millId = s.fab.millId))) ∧
    (∀ p i, p ∈ s.snap.copying → (upto (s.fld Reg.snapPool 15 0)).find? (fun i => !(s.snap.pool.any fun x => x.2 == i)) = some i → s.mem.errs = [] → Memory.wf s.mem.tiers = true → served →
      let d := s.fld Reg.snapPool 47 21 * pageBytes + i * pageBytes
      Completes (.poolCopyDone p) s fun t => (∀ k, k < pageBytes → t.byteAt (.tier (d + k)) = s.byteAt (.tier (p * pageBytes + k))) ∧
        (∀ l, (∀ k, k < pageBytes → l ≠ .tier (d + k)) → t.byteAt l = s.byteAt l) ∧ p ∉ t.snap.prot ∧ p ∉ t.snap.copying ∧ t.snap.pool = s.snap.pool ++ [(p, i)] ∧
        t.raw Reg.snapCopies = s.raw Reg.snapCopies + 1) ∧
    (∀ g, s.snap.todo = [] → s.snap.cur = some g → s.snap.sending = none → s.snap.pool = [] → s.snap.copying = [] → s.mem.errs = [] → Memory.wf s.mem.tiers = true → served →
      (∀ p rest, s.snap.prot = p :: rest →
        let m := s.partner g p
        let f := s.sendFlow m
        let item (q : Nat) : OutItem :=
          { stream := s.sflow f 59 56, port := q, typ := 1, dst := s.sflow f 43 32, flow := s.sflow f 55 44, idx := 0, cells := 8192, src := p * pageBytes, data := []
            wm := false, wins := [], aux := p + 1, xid := none, last := true, part := some (.page g.gen (s.placeOf g p)) }
        (s.others = [] ∨ s.isGone m = true → Completes .pageDrained s fun t => p ∉ t.snap.prot ∧ t.raw Reg.snapDrained = s.raw Reg.snapDrained + BitVec.ofNat 64 pageBytes ∧ SameBytes s t ∧ SameCores s t [] ∧
          t.fab = s.fab ∧ ∃ v, t.snap.cur = some { g with pages := g.pages ++ [(p, v)] } ∧ ∀ k, k < pageBytes → Sparse.get zeroByte v k = s.byteAt (.tier (p * pageBytes + k))) ∧
        (s.others ≠ [] → s.isGone m = false → s.unreachable m = true → Completes .pageDrained s fun t => t.fld Reg.snapStat 23 16 = 9 ∧ m ∈ t.snap.gaveUp ∧ m ∈ t.snap.abandoned ∧
          t.snap.prot = s.snap.prot ∧ t.raw Reg.relEvhead = s.raw Reg.relEvhead + 1 ∧ SameBytes s t ∧ SameCores s t []) ∧
        (s.others ≠ [] → s.isGone m = false → s.unreachable m = false → s.sflow f 63 63 = 1 → 0 < s.creditOf f → s.isHeld = false →
          Completes .pageDrained s fun t => t.snap.sending = some p ∧ t.snap.prot = s.snap.prot ∧ t.creditOf f = s.creditOf f - 1 ∧
            (∃ q, s.routeOf (s.sflow f 43 32) = some q ∧ t.fab.queues = s.fab.queues ++ [item q]) ∧ SameBytes s t ∧ SameCores s t [])) ∧
      (s.snap.prot = [] → s.others = [] → Completes .pageDrained s fun t => t.snap.cur = none ∧
        t.snap.gens = (if g.pages = [] then s.keptGens else s.snap.gens) ++ [{ g with complete := true, manifest := s.manifestOf g }] ∧ t.fld Reg.snapStat 2 0 = 0 ∧
        t.fld Reg.snapStat 63 32 = ((t.snap.gens.filter (·.complete)).map (·.gen)).foldl max 0 % 2 ^ 32 ∧ t.snap.todo = [] ∧ SameBytes s t ∧ SameCores s t [] ∧
        t.snap.share = s.snap.share ++ (if s.fld Reg.snapCfg 47 32 ≠ 0 ∧ g.gen % s.fld Reg.snapCfg 47 32 = 0 then [g.gen] else []))) ∧
    (s.snap.share = [] → exec .shareCopy s = .next s) ∧
    (∀ n rest, s.snap.share = n :: rest →
      (s.hif.linkUp = false ∨ s.snap.cur.isSome = true → exec .shareCopy s = .next s) ∧
      (∀ g p v h, s.hif.linkUp = true → s.snap.cur = none → s.snap.gens.find? (fun g => g.gen == n && g.complete) = some g → g.pages = [(p, v)] → Memory.wf v = true → (∀ x ∈ v, x.1 < pageBytes) →
        n < 2 ^ 32 → Memory.wf s.mem.host = true →
        let base := s.fld Reg.snapShwin 47 21 * pageBytes
        s.hostAddr base = some h → (∀ x w a, base + pageBytes ≤ x → s.locate none x = .host w a → a < h ∨ h + pageBytes ≤ a) →
        Completes .shareCopy s fun t => t.snap.share = rest ∧ t.bit Reg.snapStat 3 = !rest.isEmpty ∧ t.fld Reg.snapShgen 31 0 = n ∧ ∀ w k, k < pageBytes → t.byteAt (.host w (h + k)) = Sparse.get zeroByte v k)) ∧
    (∀ v, s.phase = 7 → wfld v 63 63 = 1 → wfld v 49 48 ≤ 2 →
      let job := s.fld Reg.fabJobstat 2 0
      let idle := (job = 0 ∨ job = 1 ∨ job = 5 ∨ job = 6) ∧ s.snap.started = false ∧ s.snap.cur = none ∧ s.snap.share = [] ∧ s.snap.restore = none
      (idle → Completes (.snapRestoreGo v) s fun t => t.snap.restore = some (wfld v 49 48, wfld v 31 0) ∧ t.fld Reg.snapStat 2 0 = (if wfld v 49 48 = 1 then 3 else 2) ∧
        t.fld Reg.snapStat 23 16 = 0 ∧ SameRegs s t [Reg.snapRestore, Reg.snapStat] ∧ SameBytes s t ∧ SameCores s t []) ∧
      (¬idle → Completes (.snapRestoreGo v) s fun t => t.fld Reg.snapStat 23 16 = 7 ∧ t.snap = s.snap ∧ SameRegs s t [Reg.snapRestore, Reg.snapStat])) ∧
    (∀ gen, s.snap.restore = some (0, gen) →
      let after := if s.snap.serve.isSome then 4 else 0
      (s.snap.gens.find? (fun g => g.gen == gen && g.complete) = none → Completes .restoreComplete s fun t => t.fld Reg.snapStat 23 16 = 4 ∧ t.fld Reg.snapStat 2 0 = after ∧ t.snap.restore = none ∧ SameBytes s t) ∧
      (∀ g p v, s.snap.gens.find? (fun g => g.gen == gen && g.complete) = some g → gen < 2 ^ 32 → g.pages = [(p, v)] → g.record.length = 2437 → (∃ x : State, g.manifest = x.manifestOf g) → p * pageBytes < 2 ^ 64 → Memory.wf v = true →
        (∀ x ∈ v, x.1 < pageBytes) → s.mem.errs = [] → Memory.wf s.mem.tiers = true → s.pageMapped (p * pageBytes) = true → served →
        Completes .restoreComplete s fun t => t.snap.restore = none ∧ t.fld Reg.snapStat 2 0 = after ∧ (∀ k, k < pageBytes → t.byteAt (.tier (p * pageBytes + k)) = Sparse.get zeroByte v k) ∧
          (∀ l, (∀ k, k < pageBytes → l ≠ .tier (p * pageBytes + k)) → t.byteAt l = s.byteAt l) ∧ ∀ i, i < 2437 → t.raw (recordRegs.getD i 0) = g.record.getD i 0)) ∧
    (∀ m v, m < 16 → s.phase = 7 → s.sys.cfgApplied = true → Completes (.snapPmemWrite m v) s fun t => m ∉ t.snap.gaveUp ∧ t.snap.abandoned = s.snap.abandoned ∧ t.fld (Reg.snapPmem m) 43 32 = wfld v 43 32 ∧
      t.fld (Reg.snapPmem m) 27 16 = wfld v 27 16 ∧ t.fld (Reg.snapPmem m) 11 0 = wfld v 11 0 ∧ SameRegs s t [Reg.snapPmem m] ∧ SameBytes s t)

/-! ### The tender -/

/-- Datagrams: one sent to another address or port does nothing; before the firmware runs nothing is answered, but a STORE is kept, and answered with status 4 once it runs; a malformed one counts in SEC.BADTAG; HELLO opens a pending session; a request of a session runs its command once, answers and keeps the answer, a repeat is answered again, an older one is dropped. BOOT_ROM_RUN applies a pending advance of a counter and starts the ACTIVE slot, else the other one, else recovery.
CONFIRM, TRIAL_TIMEOUT and PENDING_ACTIVATION change the boot record, the last when nothing forbids it, and SEC.BOOT shows a restart once the new firmware runs; sessions, pending sessions and refusals end at their time limits; records that a session has not acknowledged are sent
again; a period of corrected errors posts its count. That BOOT_ROM_RUN is a command, what follows a slot or boot record that fails, how ids and layouts are chosen that the manual does not give, statuses, and what a datagram gets that comes in a restart or repeats an opening, are
the model's choices (assumption log rows 113, 114, 119, 124, 125, 126, 127, 150, 191, 193 and 194). -/
def Obligations.TenderServesSessions : Prop :=
  ∀ (s : State) (seat role src : Nat), s.waits = [] →
    let boot := s.tender.boot
    let receive (bs : List Byte) : Instr := .datagramReceive ⟨bs, s.netAddr, s.fld Reg.secNet 15 0, seat, role, src⟩
    let serves : Prop := s.sys.fwRuns = true ∧ s.sys.standby = true
    (∀ d : Datagram, d.addr ≠ s.netAddr ∨ d.udp ≠ s.fld Reg.secNet 15 0 ∨ s.sys.standby = false → exec (.datagramReceive d) s = .next s) ∧
    (∀ bs, s.sys.fwRuns = false → s.bit Reg.secBoot 4 = true ∨ ofLe ((bs.drop 0x10).take 2) ≠ 0x23 → exec (receive bs) s = .next s) ∧
    (∀ tag sid seq pay, s.sys.fwRuns = false → s.sys.standby = true → s.bit Reg.secBoot 4 = false → sid < 2 ^ 32 → seq < 2 ^ 64 → pay.length ≤ 1408 →
      Completes (receive (datagram tag 0 sid seq 0x23 0 pay)) s fun t => t = { s with tender := { s.tender with storeAsks := s.tender.storeAsks ++ [(sid, seq)] } }) ∧
    (∀ bs, serves → bs.length < 48 → Completes (receive bs) s fun t => t.raw Reg.secBadtag = s.raw Reg.secBadtag + 1 ∧ t.tender.pending = s.tender.pending ∧ SameBytes s t ∧ SameCores s t []) ∧
    (∀ seq pay, serves → s.tender.pending.length < 4 → seq < 2 ^ 64 → pay.length ≤ 1408 →
      Completes (receive (datagram none 0 0 seq 1 0 pay)) s fun t => (∃ r, t.hif.out = s.hif.out ++ [.datagram r]) ∧ t.tender.sids = s.tender.sids + 1 ∧
        (∃ k, t.tender.pending = s.tender.pending ++ [⟨k, s.tender.sids + 1, s.tender.draws, none⟩] ∧ k < 4) ∧ t.tender.sessions = s.tender.sessions ∧ SameBytes s t ∧ SameCores s t []) ∧
    (∀ x seq pay, serves → s.tender.sessions.find? (fun y => y.sid == x.sid) = some x → x.sid < 2 ^ 32 → seq < 2 ^ 64 →
      (seq = x.seq → pay.length ≤ 1408 → Completes (receive (datagram (some x.kmac) 0 x.sid seq 0x11 0 pay)) s fun t => t = s.emit (.datagram x.resp)) ∧
      (∀ cmd, cmd = 2 ∨ cmd = 3 → s.tender.pending.find? (fun y => y.sid == x.sid) = none → seq = x.seq → pay.length ≤ 1408 →
        Completes (receive (datagram none 0 x.sid seq cmd 0 pay)) s fun t => t = s.emit (.datagram x.resp)) ∧
      (seq < x.seq → pay.length ≤ 1408 → exec (receive (datagram (some x.kmac) 0 x.sid seq 0x11 0 pay)) s = .next s) ∧
      (∀ mask value : Word, mask &&& 0x3F ≠ 0 → x.seq < seq → 2 ≤ x.role → s.phase = 7 →
        Completes (receive (datagram (some x.kmac) 0 x.sid seq 0x11 0 (leBytes 8 Reg.hifEvten ++ leBytes 8 mask.toNat ++ leBytes 8 value.toNat))) s fun t =>
          let r := datagram (some x.kmac) 1 x.sid seq 0x11 0 []
          t.raw Reg.hifEvten = ((s.raw Reg.hifEvten &&& ~~~mask) ||| (value &&& mask)) &&& 0x3F ∧ SameRegs s t [Reg.hifEvten] ∧ t.hif.out = s.hif.out ++ [.datagram r] ∧
          t.tender.sessions.find? (fun y => y.sid == x.sid) = some { x with seq := seq, resp := r } ∧ SameBytes s t ∧ SameCores s t [])) ∧
    (s.sys.fwRuns = false → s.sys.held = false → s.sys.clockRuns = true →
      let recovers (t : State) : Prop := t.sys.fwRuns = false ∧ t.bit Reg.secBoot 4 = true ∧ SameRegs s t [Reg.secBoot]
      let posted (t : State) (k : Nat) : Prop := t.raw Reg.relEvhead = s.raw Reg.relEvhead + BitVec.ofNat 64 k ∧ t.tender.badSlots = 0 ∧ t.tender.storeAsks = [] ∧
        ∀ x ∈ s.tender.storeAsks, OutMsg.datagram (datagram none 1 x.1 x.2 0x23 4 []) ∈ t.hif.out
      (boot.ok = false → Completes .bootRomRun s recovers) ∧
      (boot.ok = true → boot.advance = none → boot.active ≤ 1 → Completes .bootRomRun s fun t =>
        if s.slotPasses boot.active then t.sys.fwRuns = true ∧ t.tender.boot = boot ∧ t.bit Reg.secBoot 4 = false ∧ posted t s.tender.badSlots
        else if s.slotPasses (1 - boot.active) then t.sys.fwRuns = true ∧ t.tender.boot = { boot with active := 1 - boot.active, ready := false, trial := false } ∧ t.bit Reg.secBoot 4 = false ∧
          posted t (s.tender.badSlots + 1)
        else recovers t ∧ t.tender.badSlots = s.tender.badSlots + 2) ∧
      (∀ k v, boot.ok = true → boot.advance = some (k, v) → 1 ≤ k → k < 8 → v < 2 ^ 32 → Completes .bootRomRun s fun t =>
        t.arbValue k = max v (s.arbValue k) ∧ t.fld (Reg.secArb k) 31 0 = max v (s.arbValue k) ∧ t.tender.boot.advance = none ∧ ∀ j, j < 8 → j ≠ k → t.arbValue j = s.arbValue j)) ∧
    (s.sys.fwRuns = true → exec .bootRomRun s = .next s) ∧
    (s.sys.fwRuns = true → boot.trial = true →
      Completes .confirm s (fun t => t.tender.boot = { boot with trial := false } ∧ t.bit Reg.secBoot 3 = false ∧ t.sys.fwRuns = true ∧ t.raw Reg.relEvhead = s.raw Reg.relEvhead + 1) ∧
      Completes .trialTimeout s (fun t => t.tender.boot = { boot with active := 1 - boot.active, trial := false, ready := false } ∧ t.sys.fwRuns = false ∧ t.tender.sessions = [] ∧ t.tender.pending = [] ∧
        t.raw Reg.secBoot = s.raw Reg.secBoot ∧ t.fld Reg.secSess 7 0 = 0 ∧ t.raw Reg.relEvhead = s.raw Reg.relEvhead + 1)) ∧
    (s.sys.fwRuns = false ∨ boot.trial = false → exec .confirm s = .next s ∧ exec .trialTimeout s = .next s) ∧
    (let allowed : Prop := s.sys.fwRuns = true ∧ s.bit Reg.secBoot 1 = true ∧ (s.phase = 7 ∨ s.phase = 8) ∧ boot.ready = true ∧ s.bit Reg.cfgStore 2 = false ∧ s.bit Reg.memSurreq 63 = false ∧
       s.bit Reg.memSurstat 2 = false ∧ s.snap.restore = none ∧ s.jobRuns = false
     (allowed → Completes .pendingActivation s fun t => t.tender.boot = { boot with active := 1 - boot.active, ready := false, trial := true } ∧ t.sys.fwRuns = false ∧
       t.raw Reg.secBoot = s.raw Reg.secBoot ∧ t.tender.sessions = [] ∧ t.tender.pending = [] ∧ t.fld Reg.secSess 7 0 = 0 ∧ SameRegs s t [Reg.secSess]) ∧
     (¬allowed → exec .pendingActivation s = .next s)) ∧
    (∀ k, Completes (.sessionTimeout k) s (fun t => t.tender.sessions = s.tender.sessions.filter (fun x => x.slot != k) ∧ t.tender.pending = s.tender.pending ∧ SameRegs s t [Reg.secSess] ∧ SameBytes s t) ∧
      Completes (.pendingSessionExpiry k) s (fun t => t.tender.pending = s.tender.pending.filter (fun x => x.slot != k) ∧ t.tender.sessions = s.tender.sessions ∧ SameRegs s t [Reg.secSess] ∧ SameBytes s t) ∧
      (∀ c, s.cred k = some c → Completes (.lockoutExpiry k) s fun t => t.cred k = some { c with locked := false } ∧ (∀ j, j ≠ k → t.cred j = s.cred j) ∧ t.csr = s.csr) ∧
      (s.cred k = none → exec (.lockoutExpiry k) s = .next s)) ∧
    (∀ x, s.sys.fwRuns = true → s.tender.sessions = [x] → s.owedEvents x ≠ [] → (s.owedEvents x).length ≤ 22 →
      Completes .eventResend s fun t => t.hif.out = s.hif.out ++ [.datagram (datagram (some x.kmac) 2 x.sid x.evSeq 0 0 ((s.owedEvents x).flatMap s.ringBytes))] ∧
        t.tender.sessions = [{ x with evSeq := x.evSeq + 1 }] ∧ t.csr = s.csr) ∧
    (s.sys.fwRuns = false → exec .eventResend s = .next s) ∧
    (∀ uk ui,
      let k := ceKey uk ui
      let r := Sparse.get ceReset s.ce k
      (r.isOpen = false → exec (.cePeriodEnd uk ui) s = .next s) ∧
      (r.isOpen = true → r.count = 0 → Completes (.cePeriodEnd uk ui) s fun t => Sparse.get ceReset t.ce k = ceReset k ∧ t.csr = s.csr) ∧
      (r.isOpen = true → 0 < r.count → r.count < 2 ^ 64 → Completes (.cePeriodEnd uk ui) s fun t => (Sparse.get ceReset t.ce k).isOpen = true ∧ (Sparse.get ceReset t.ce k).count = 0 ∧
        t.raw Reg.relEvhead = s.raw Reg.relEvhead + 1 ∧ (t.raw (Reg.relRing ((s.raw Reg.relEvhead).toNat % 1024) 5)).toNat = r.count))

/-- Mailboxes: a core in supervisor state writes the message of its own mailbox while none is there, and a read of the other clears it; in user state it takes the exception. SMBus, while standby is good, each answer with its PEC: status, the next unread record, enrolment while
no credential exists, and in recovery, alone, the image of slot A and its verification. JTAG reaches IDCODE and BYPASS alone while locked,
and full scan stops the clusters that it reaches. The management
port answers ARP and ICMP echo. REL_WMW_DBASE_EN opens a watermark window that is allowed, else sets its ERR, and closes it; an open window keeps its base. What the status bytes hold and how, what a JTAG scan shifts
out, and the polynomial of the PEC, are the model's choices (assumption log rows 128, 129 and 192). -/
def Obligations.ServicePorts : Prop :=
  ∀ (s : State), s.waits = [] →
    let smb : Prop := s.sys.standby = true ∧ s.bit Reg.secBoot 4 = false
    let recovers : Prop := s.sys.standby = true ∧ s.bit Reg.secBoot 4 = true
    let addr := 0x58 + s.fld Reg.cfgStraps 3 0
    let reply (code : Nat) (bs : List Byte) : OutMsg := .smbus addr bs (pec ([BitVec.ofNat 8 (2 * addr), BitVec.ofNat 8 code, BitVec.ofNat 8 (2 * addr + 1)] ++ bs))
    (∀ pos i v, pos < 1300 → i < 1200 →
      let privileged := (s.coreAt pos).arch.priv = true
      let raised (off : Nat) (t : State) : Prop := SameRegs s t [] ∧ SameCores s t [pos] ∧ t = { s with cores := t.cores } ∧
        ((s.coreAt pos).arch.flow.exc = none → (t.coreAt pos).arch.flow.exc = some (leafExc 2 0 0 0 (csrBase + off)))
      (privileged → s.lcidOf pos = i → s.bit (Reg.secMboxOut i) 63 = false → Completes (.mboxOutWrite pos i v) s fun t =>
        t.raw (Reg.secMboxOut i) = v ||| 0x8000000000000000 ∧ SameRegs s t [Reg.secMboxOut i] ∧ t = { s with csr := t.csr }) ∧
      (privileged → s.lcidOf pos ≠ i ∨ s.bit (Reg.secMboxOut i) 63 = true → exec (.mboxOutWrite pos i v) s = .next s) ∧
      (privileged → Completes (.mboxInRead ⟨pos, i⟩) s fun t => t.hif.out = s.hif.out ++ [.csrData (s.raw (Reg.secMboxIn i))] ∧ t.raw (Reg.secMboxIn i) = 0 ∧ SameRegs s t [Reg.secMboxIn i] ∧
        SameBytes s t ∧ SameCores s t []) ∧
      (¬privileged → Completes (.mboxOutWrite pos i v) s (raised (Reg.secMboxOut i)) ∧ Completes (.mboxInRead ⟨pos, i⟩) s (raised (Reg.secMboxIn i)))) ∧
    (smb → Completes .smbStatusRead s fun t => ∃ b, t = s.emit (reply 0x01 b) ∧ b.length = 8 ∧ b.getD 0 0 = BitVec.ofNat 8 s.phase ∧ ofLe (b.drop 4) = s.unread.length % 2 ^ 32) ∧
    (∀ n rest, smb → s.unread = n :: rest → Completes .smbRecordRead s fun t => t.hif.out = s.hif.out ++ [reply 0x10 (s.ringBytes n)] ∧ t.tender.unread = rest ∧ t.csr = s.csr) ∧
    (¬smb → exec .smbStatusRead s = .next s) ∧ (¬smb ∨ s.unread = [] → exec .smbRecordRead s = .next s) ∧
    (∀ key,
      (smb → s.tender.creds = [] → s.bit Reg.secPolicy 0 = true → Completes (.smbEnroll key) s fun t =>
        t.cred 0 = some { role := 3, isKey := true, key := key, salt := [], iters := 0, fails := 0, locked := false } ∧ t = { s with tender := { s.tender with creds := t.tender.creds } }) ∧
      (¬smb ∨ s.tender.creds ≠ [] ∨ s.bit Reg.secPolicy 0 = false → exec (.smbEnroll key) s = .next s)) ∧
    (∀ off chunk,
      (recovers → chunk.length = 32 → off + 32 ≤ 1572864 → Completes (.smbRecoveryWrite off chunk) s fun t =>
        (∀ i, Sparse.get zeroByte t.tender.slotA i = if off ≤ i ∧ i < off + 32 then chunk.getD (i - off) 0 else Sparse.get zeroByte s.tender.slotA i) ∧
        t = { s with tender := { s.tender with slotA := t.tender.slotA } }) ∧
      (¬recovers → exec (.smbRecoveryWrite off chunk) s = .next s)) ∧
    (recovers → s.sys.fwRuns = false → s.sys.held = false → s.sys.clockRuns = true → s.tender.boot.advance = none → Completes .smbRecoveryVerify s fun t =>
      if s.slotPasses 0 then t.tender.boot = ⟨true, 0, false, false, none⟩ ∧ t.sys.fwRuns = true ∧ t.bit Reg.secBoot 4 = false
      else t = { s with tender := { s.tender with badSlots := s.tender.badSlots + 1 } }) ∧
    (¬recovers → exec .smbRecoveryVerify s = .next s) ∧
    (∀ code clusters, (∀ c ∈ clusters, c < 100) →
      Completes (.jtagInstruction ⟨code, clusters⟩) s fun t =>
        if s.sys.standby = false then t = s
        else if code = Config.jtagIdcodeCode then t = s.emit (.jtag (Config.jtagIdcode.zeroExtend 64))
        else if code = Config.jtagBypassCode then t = s.emit (.jtag 0)
        else if s.fld Reg.secDbg 2 0 = 0 then t = s
        else (∃ v, t.hif.out = s.hif.out ++ [.jtag v]) ∧ t.mem = s.mem ∧ t.cores = s.cores ∧ (s.bit Reg.secDbg 2 = false → t.csr = s.csr) ∧
          (s.bit Reg.secDbg 2 = true → ∀ c ∈ clusters, c ∈ t.sys.scanned ∧ ∀ i, i < 13 → s.stateOf (13 * c + i) = 1 → t.stateOf (13 * c + i) = 6)) ∧
    (∀ icmp body, (s.sys.fwRuns = true → Completes (.arpOrIcmpEcho icmp body) s fun t => ∃ b, t = s.emit (.net b)) ∧ (s.sys.fwRuns = false → exec (.arpOrIcmpEcho icmp body) s = .next s)) ∧
    (∀ n v, n < 16 → s.phase = 7 →
      let off := Reg.relWmwDbase n
      Completes (.relWmwDbaseEn n v) s fun t => SameRegs s t [off] ∧ t = { s with csr := t.csr } ∧
        (s.bit off 63 = true → t.bit off 63 = v.getLsbD 63 ∧ t.fld off 47 12 = s.fld off 47 12) ∧
        (s.bit off 63 = false → t.fld off 47 12 = wfld v 47 12 ∧ (wfld v 63 63 = 0 → t.bit off 63 = false) ∧
          (wfld v 63 63 = 1 → t.bit off 63 = (s.putFld off 47 12 (wfld v 47 12)).wmAllowed n ∧ (t.bit off 63 = false → t.bit off 62 = true))))

/-! ### Reset and memory -/

/-- The machine right after device reset: no command waits and no start-up phase has begun; every scalar register and LDM word holds payload 0 with tag 0xF, every core would run in supervisor state with interrupts disabled, no position backs a logical core, every register has the
value of its description, both tiers are closed, and the memories have their canonical form. Where the manual gives a register no reset value, the values named are the model's choices
(assumption log rows 13, 14, 4 and 3). -/
def Obligations.ResetState : Prop :=
  let s := State.reset
  s.pending = [] ∧ s.waits = [] ∧ s.phase = 0 ∧ s.sys.mainGood = false ∧ s.mem.isOpen = false ∧ (∀ off, s.raw off = csrDefault off) ∧
  (∀ p, (∀ n, (s.coreAt p).arch.reg n = ⟨0, 0xF⟩) ∧ (∀ i, s.ldmWord p i = ⟨0, 0xF⟩) ∧ (s.coreAt p).arch.spr.psr = 1 ∧ (s.coreAt p).work = Work.reset) ∧
  (∀ p, p < 1300 → s.lcidOf p = 0x7FF ∧ s.stateOf p = 0) ∧ (∀ i, i < 1200 → s.posOf i = none) ∧
  s.cur Reg.devId = 0x0000004820414C00 ∧ (∀ l, s.byteAt l = 0) ∧
  Memory.wf s.mem.tiers = true ∧ Memory.wf s.mem.host = true ∧ Memory.wf s.mem.flash = true

/-- Every step keeps the canonical form of the memories: addresses strictly rising, and no entry equal to what an unlisted address reads as; so equal memories are equal data. -/
def Obligations.MemoriesStayCanonical : Prop :=
  let canonical (s : State) : Prop := Memory.wf s.mem.tiers = true ∧ Memory.wf s.mem.host = true ∧ Memory.wf s.mem.flash = true ∧
    Memory.wf s.tender.slotA = true ∧ Memory.wf s.tender.slotB = true
  ∀ s t : State, canonical s → step s = .next t → canonical t

end Statements
end

