-- ==== Sys2Proof/Laws/Sparse.lean ====
section
/-! SUPPORT. The laws of sparse maps: a read after a write, and that a write keeps the canonical form. -/

namespace Sys2Proof.Machine

variable {β : Type} {d : Nat → β} {m : Sparse β} {k j : Nat} {v : β}

@[simp] theorem Sparse.get_nil : Sparse.get d [] k = d k := rfl

theorem Sparse.get_erase_self : Sparse.get d (Sparse.erase m k) k = d k := by
  induction m with
  | nil => rfl
  | cons p m ih =>
    obtain ⟨k', v'⟩ := p
    by_cases h : k' = k
    · simp [Sparse.erase, h, ih]
    · simp [Sparse.erase, Sparse.get, h, ih]

theorem Sparse.get_erase_ne (h : j ≠ k) : Sparse.get d (Sparse.erase m k) j = Sparse.get d m j := by
  induction m with
  | nil => rfl
  | cons p m ih =>
    obtain ⟨k', v'⟩ := p
    by_cases hk : k' = k
    · subst hk
      simp [Sparse.erase, Sparse.get, ih, Ne.symm h]
    · simp [Sparse.erase, Sparse.get, hk, ih]

theorem Sparse.get_insert_erase_self : Sparse.get d (Sparse.insert (Sparse.erase m k) k v) k = v := by
  induction m with
  | nil => simp [Sparse.erase, Sparse.insert, Sparse.get]
  | cons p m ih =>
    obtain ⟨k', v'⟩ := p
    by_cases hk : k' = k
    · simp [Sparse.erase, hk, ih]
    · by_cases hl : k < k'
      · simp [Sparse.erase, Sparse.insert, Sparse.get, hk, hl]
      · simp [Sparse.erase, Sparse.insert, Sparse.get, hk, hl, ih]

theorem Sparse.get_insert_ne (h : j ≠ k) : Sparse.get d (Sparse.insert m k v) j = Sparse.get d m j := by
  induction m with
  | nil => simp [Sparse.insert, Sparse.get, Ne.symm h]
  | cons p m ih =>
    obtain ⟨k', v'⟩ := p
    by_cases hl : k < k'
    · simp [Sparse.insert, Sparse.get, hl, Ne.symm h]
    · simp [Sparse.insert, Sparse.get, hl, ih]

/-- A read of a key after a write to it gives the value written. -/
@[simp] theorem Sparse.get_set_self [DecidableEq β] : Sparse.get d (Sparse.set d m k v) k = v := by
  unfold Sparse.set
  split
  · next h => rw [Sparse.get_erase_self, h]
  · exact Sparse.get_insert_erase_self

/-- A write leaves every other key as it was. -/
theorem Sparse.get_set_ne [DecidableEq β] (h : j ≠ k) : Sparse.get d (Sparse.set d m k v) j = Sparse.get d m j := by
  unfold Sparse.set
  split
  · exact Sparse.get_erase_ne h
  · rw [Sparse.get_insert_ne h, Sparse.get_erase_ne h]

/-- A read of any key after a write. -/
theorem Sparse.get_set [DecidableEq β] : Sparse.get d (Sparse.set d m k v) j = if j = k then v else Sparse.get d m j := by
  split
  · next h => subst h; exact Sparse.get_set_self
  · next h => exact Sparse.get_set_ne h

theorem Sparse.wfFrom_weaken [DecidableEq β] {lo : Option Nat} {k : Nat} (h : Sparse.wfFrom d (some k) m = true)
    (hlo : ∀ l, lo = some l → l < k) : Sparse.wfFrom d lo m = true := by
  cases m with
  | nil => cases lo <;> rfl
  | cons p m =>
    obtain ⟨k', v'⟩ := p
    simp only [Sparse.wfFrom, Bool.and_eq_true, decide_eq_true_eq] at h
    cases lo with
    | none => simp [Sparse.wfFrom, h.1.2, h.2]
    | some l =>
      have := hlo l rfl
      simp [Sparse.wfFrom, h.1.2, h.2]
      omega

theorem Sparse.wfFrom_erase [DecidableEq β] {lo : Option Nat} (h : Sparse.wfFrom d lo m = true) :
    Sparse.wfFrom d lo (Sparse.erase m k) = true := by
  induction m generalizing lo with
  | nil => cases lo <;> rfl
  | cons p m ih =>
    obtain ⟨k', v'⟩ := p
    by_cases hk : k' = k
    · subst hk
      cases lo with
      | none =>
        simp only [Sparse.wfFrom, Bool.and_eq_true] at h
        simp only [Sparse.erase, if_true]
        exact Sparse.wfFrom_weaken (ih h.2) (by intro l hl; cases hl)
      | some l =>
        simp only [Sparse.wfFrom, Bool.and_eq_true, decide_eq_true_eq] at h
        simp only [Sparse.erase, if_true]
        exact Sparse.wfFrom_weaken (ih h.2) (by intro l' hl; cases hl; exact h.1.1)
    · cases lo with
      | none =>
        simp only [Sparse.wfFrom, Bool.and_eq_true] at h
        simp [Sparse.erase, hk, Sparse.wfFrom, ih h.2, of_decide_eq_true h.1]
      | some l =>
        simp only [Sparse.wfFrom, Bool.and_eq_true, decide_eq_true_eq] at h
        simp [Sparse.erase, hk, Sparse.wfFrom, ih h.2, h.1.2, h.1.1]

/-- No key of the map is `k`. -/
def Sparse.absent (m : Sparse β) (k : Nat) : Prop := ∀ p ∈ m, p.1 ≠ k

theorem Sparse.absent_erase : Sparse.absent (Sparse.erase m k) k := by
  induction m with
  | nil => intro p hp; cases hp
  | cons q m ih =>
    obtain ⟨k', v'⟩ := q
    by_cases hk : k' = k
    · simpa [Sparse.erase, hk] using ih
    · intro p hp
      simp only [Sparse.erase, hk, if_false, List.mem_cons] at hp
      rcases hp with rfl | hp
      · exact hk
      · exact ih p hp

theorem Sparse.wfFrom_insert [DecidableEq β] {lo : Option Nat} (h : Sparse.wfFrom d lo m = true) (ha : Sparse.absent m k)
    (hv : v ≠ d k) (hlo : ∀ l, lo = some l → l < k) : Sparse.wfFrom d lo (Sparse.insert m k v) = true := by
  induction m generalizing lo with
  | nil =>
    cases lo with
    | none => simp [Sparse.insert, Sparse.wfFrom, hv]
    | some l => simp [Sparse.insert, Sparse.wfFrom, hv, hlo l rfl]
  | cons p m ih =>
    obtain ⟨k', v'⟩ := p
    have hk : k' ≠ k := ha (k', v') (by simp)
    have ha' : Sparse.absent m k := fun p hp => ha p (by simp [hp])
    by_cases hl : k < k'
    · cases lo with
      | none =>
        simp only [Sparse.wfFrom, Bool.and_eq_true] at h
        simp [Sparse.insert, hl, Sparse.wfFrom, hv, of_decide_eq_true h.1, h.2]
      | some l =>
        simp only [Sparse.wfFrom, Bool.and_eq_true, decide_eq_true_eq] at h
        simp [Sparse.insert, hl, Sparse.wfFrom, hv, h.1.2, h.2, hlo l rfl]
    · have hlt : k' < k := by omega
      cases lo with
      | none =>
        simp only [Sparse.wfFrom, Bool.and_eq_true] at h
        simp [Sparse.insert, hl, Sparse.wfFrom, of_decide_eq_true h.1, ih h.2 ha' (by intro l hl'; cases hl'; exact hlt)]
      | some l =>
        simp only [Sparse.wfFrom, Bool.and_eq_true, decide_eq_true_eq] at h
        simp [Sparse.insert, hl, Sparse.wfFrom, h.1.1, h.1.2, ih h.2 ha' (by intro l hl'; cases hl'; exact hlt)]

/-- A write keeps the canonical form. -/
theorem Sparse.wf_set [DecidableEq β] (h : Sparse.wf d m = true) : Sparse.wf d (Sparse.set d m k v) = true := by
  unfold Sparse.set Sparse.wf
  split
  · exact Sparse.wfFrom_erase h
  · next hv => exact Sparse.wfFrom_insert (Sparse.wfFrom_erase h) Sparse.absent_erase hv (by intro l hl; cases hl)

end Sys2Proof.Machine
end

