-- ==== Sys2Proof/Laws/State.lean ====
section
/-! SUPPORT. Each named update of the state, field by field: what it leaves as it was. Every lemma holds by unfolding, so that no proof needs to unfold an update of
the record. -/

namespace Sys2Proof.Machine

variable (s : State)

@[simp] theorem State.put_pending (off : Nat) (w : Word) : (s.put off w).pending = s.pending := rfl
@[simp] theorem State.put_cores (off : Nat) (w : Word) : (s.put off w).cores = s.cores := rfl
@[simp] theorem State.put_clusters (off : Nat) (w : Word) : (s.put off w).clusters = s.clusters := rfl
@[simp] theorem State.put_numRecs (off : Nat) (w : Word) : (s.put off w).numRecs = s.numRecs := rfl
@[simp] theorem State.put_numHeld (off : Nat) (w : Word) : (s.put off w).numHeld = s.numHeld := rfl
@[simp] theorem State.put_mem (off : Nat) (w : Word) : (s.put off w).mem = s.mem := rfl
@[simp] theorem State.put_fab (off : Nat) (w : Word) : (s.put off w).fab = s.fab := rfl
@[simp] theorem State.put_hif (off : Nat) (w : Word) : (s.put off w).hif = s.hif := rfl
@[simp] theorem State.put_sys (off : Nat) (w : Word) : (s.put off w).sys = s.sys := rfl
@[simp] theorem State.put_snap (off : Nat) (w : Word) : (s.put off w).snap = s.snap := rfl
@[simp] theorem State.put_tender (off : Nat) (w : Word) : (s.put off w).tender = s.tender := rfl
@[simp] theorem State.put_ce (off : Nat) (w : Word) : (s.put off w).ce = s.ce := rfl
@[simp] theorem State.put_groupStop (off : Nat) (w : Word) : (s.put off w).groupStop = s.groupStop := rfl
@[simp] theorem State.put_waits (off : Nat) (w : Word) : (s.put off w).waits = s.waits := rfl

@[simp] theorem State.putFld_pending (off hi lo v : Nat) : (s.putFld off hi lo v).pending = s.pending := rfl
@[simp] theorem State.putFld_cores (off hi lo v : Nat) : (s.putFld off hi lo v).cores = s.cores := rfl
@[simp] theorem State.putFld_clusters (off hi lo v : Nat) : (s.putFld off hi lo v).clusters = s.clusters := rfl
@[simp] theorem State.putFld_numRecs (off hi lo v : Nat) : (s.putFld off hi lo v).numRecs = s.numRecs := rfl
@[simp] theorem State.putFld_numHeld (off hi lo v : Nat) : (s.putFld off hi lo v).numHeld = s.numHeld := rfl
@[simp] theorem State.putFld_mem (off hi lo v : Nat) : (s.putFld off hi lo v).mem = s.mem := rfl
@[simp] theorem State.putFld_fab (off hi lo v : Nat) : (s.putFld off hi lo v).fab = s.fab := rfl
@[simp] theorem State.putFld_hif (off hi lo v : Nat) : (s.putFld off hi lo v).hif = s.hif := rfl
@[simp] theorem State.putFld_sys (off hi lo v : Nat) : (s.putFld off hi lo v).sys = s.sys := rfl
@[simp] theorem State.putFld_snap (off hi lo v : Nat) : (s.putFld off hi lo v).snap = s.snap := rfl
@[simp] theorem State.putFld_tender (off hi lo v : Nat) : (s.putFld off hi lo v).tender = s.tender := rfl
@[simp] theorem State.putFld_ce (off hi lo v : Nat) : (s.putFld off hi lo v).ce = s.ce := rfl
@[simp] theorem State.putFld_groupStop (off hi lo v : Nat) : (s.putFld off hi lo v).groupStop = s.groupStop := rfl
@[simp] theorem State.putFld_waits (off hi lo v : Nat) : (s.putFld off hi lo v).waits = s.waits := rfl

@[simp] theorem State.putBit_pending (off i : Nat) (b : Bool) : (s.putBit off i b).pending = s.pending := rfl
@[simp] theorem State.putBit_cores (off i : Nat) (b : Bool) : (s.putBit off i b).cores = s.cores := rfl
@[simp] theorem State.putBit_clusters (off i : Nat) (b : Bool) : (s.putBit off i b).clusters = s.clusters := rfl
@[simp] theorem State.putBit_numRecs (off i : Nat) (b : Bool) : (s.putBit off i b).numRecs = s.numRecs := rfl
@[simp] theorem State.putBit_numHeld (off i : Nat) (b : Bool) : (s.putBit off i b).numHeld = s.numHeld := rfl
@[simp] theorem State.putBit_mem (off i : Nat) (b : Bool) : (s.putBit off i b).mem = s.mem := rfl
@[simp] theorem State.putBit_fab (off i : Nat) (b : Bool) : (s.putBit off i b).fab = s.fab := rfl
@[simp] theorem State.putBit_hif (off i : Nat) (b : Bool) : (s.putBit off i b).hif = s.hif := rfl
@[simp] theorem State.putBit_sys (off i : Nat) (b : Bool) : (s.putBit off i b).sys = s.sys := rfl
@[simp] theorem State.putBit_snap (off i : Nat) (b : Bool) : (s.putBit off i b).snap = s.snap := rfl
@[simp] theorem State.putBit_tender (off i : Nat) (b : Bool) : (s.putBit off i b).tender = s.tender := rfl
@[simp] theorem State.putBit_ce (off i : Nat) (b : Bool) : (s.putBit off i b).ce = s.ce := rfl
@[simp] theorem State.putBit_groupStop (off i : Nat) (b : Bool) : (s.putBit off i b).groupStop = s.groupStop := rfl
@[simp] theorem State.putBit_waits (off i : Nat) (b : Bool) : (s.putBit off i b).waits = s.waits := rfl

@[simp] theorem State.bump_pending (off n : Nat) : (s.bump off n).pending = s.pending := rfl
@[simp] theorem State.bump_cores (off n : Nat) : (s.bump off n).cores = s.cores := rfl
@[simp] theorem State.bump_clusters (off n : Nat) : (s.bump off n).clusters = s.clusters := rfl
@[simp] theorem State.bump_numRecs (off n : Nat) : (s.bump off n).numRecs = s.numRecs := rfl
@[simp] theorem State.bump_numHeld (off n : Nat) : (s.bump off n).numHeld = s.numHeld := rfl
@[simp] theorem State.bump_mem (off n : Nat) : (s.bump off n).mem = s.mem := rfl
@[simp] theorem State.bump_fab (off n : Nat) : (s.bump off n).fab = s.fab := rfl
@[simp] theorem State.bump_hif (off n : Nat) : (s.bump off n).hif = s.hif := rfl
@[simp] theorem State.bump_sys (off n : Nat) : (s.bump off n).sys = s.sys := rfl
@[simp] theorem State.bump_snap (off n : Nat) : (s.bump off n).snap = s.snap := rfl
@[simp] theorem State.bump_tender (off n : Nat) : (s.bump off n).tender = s.tender := rfl
@[simp] theorem State.bump_ce (off n : Nat) : (s.bump off n).ce = s.ce := rfl
@[simp] theorem State.bump_groupStop (off n : Nat) : (s.bump off n).groupStop = s.groupStop := rfl
@[simp] theorem State.bump_waits (off n : Nat) : (s.bump off n).waits = s.waits := rfl

@[simp] theorem State.setStateOf_pending (pos v : Nat) : (s.setStateOf pos v).pending = s.pending := rfl
@[simp] theorem State.setStateOf_cores (pos v : Nat) : (s.setStateOf pos v).cores = s.cores := rfl
@[simp] theorem State.setStateOf_clusters (pos v : Nat) : (s.setStateOf pos v).clusters = s.clusters := rfl
@[simp] theorem State.setStateOf_numRecs (pos v : Nat) : (s.setStateOf pos v).numRecs = s.numRecs := rfl
@[simp] theorem State.setStateOf_numHeld (pos v : Nat) : (s.setStateOf pos v).numHeld = s.numHeld := rfl
@[simp] theorem State.setStateOf_mem (pos v : Nat) : (s.setStateOf pos v).mem = s.mem := rfl
@[simp] theorem State.setStateOf_fab (pos v : Nat) : (s.setStateOf pos v).fab = s.fab := rfl
@[simp] theorem State.setStateOf_hif (pos v : Nat) : (s.setStateOf pos v).hif = s.hif := rfl
@[simp] theorem State.setStateOf_sys (pos v : Nat) : (s.setStateOf pos v).sys = s.sys := rfl
@[simp] theorem State.setStateOf_snap (pos v : Nat) : (s.setStateOf pos v).snap = s.snap := rfl
@[simp] theorem State.setStateOf_tender (pos v : Nat) : (s.setStateOf pos v).tender = s.tender := rfl
@[simp] theorem State.setStateOf_ce (pos v : Nat) : (s.setStateOf pos v).ce = s.ce := rfl
@[simp] theorem State.setStateOf_groupStop (pos v : Nat) : (s.setStateOf pos v).groupStop = s.groupStop := rfl
@[simp] theorem State.setStateOf_waits (pos v : Nat) : (s.setStateOf pos v).waits = s.waits := rfl

@[simp] theorem State.setCore_pending (pos : Nat) (c : Core) : (s.setCore pos c).pending = s.pending := rfl
@[simp] theorem State.setCore_csr (pos : Nat) (c : Core) : (s.setCore pos c).csr = s.csr := rfl
@[simp] theorem State.setCore_clusters (pos : Nat) (c : Core) : (s.setCore pos c).clusters = s.clusters := rfl
@[simp] theorem State.setCore_numRecs (pos : Nat) (c : Core) : (s.setCore pos c).numRecs = s.numRecs := rfl
@[simp] theorem State.setCore_numHeld (pos : Nat) (c : Core) : (s.setCore pos c).numHeld = s.numHeld := rfl
@[simp] theorem State.setCore_mem (pos : Nat) (c : Core) : (s.setCore pos c).mem = s.mem := rfl
@[simp] theorem State.setCore_fab (pos : Nat) (c : Core) : (s.setCore pos c).fab = s.fab := rfl
@[simp] theorem State.setCore_hif (pos : Nat) (c : Core) : (s.setCore pos c).hif = s.hif := rfl
@[simp] theorem State.setCore_sys (pos : Nat) (c : Core) : (s.setCore pos c).sys = s.sys := rfl
@[simp] theorem State.setCore_snap (pos : Nat) (c : Core) : (s.setCore pos c).snap = s.snap := rfl
@[simp] theorem State.setCore_tender (pos : Nat) (c : Core) : (s.setCore pos c).tender = s.tender := rfl
@[simp] theorem State.setCore_ce (pos : Nat) (c : Core) : (s.setCore pos c).ce = s.ce := rfl
@[simp] theorem State.setCore_groupStop (pos : Nat) (c : Core) : (s.setCore pos c).groupStop = s.groupStop := rfl
@[simp] theorem State.setCore_waits (pos : Nat) (c : Core) : (s.setCore pos c).waits = s.waits := rfl

@[simp] theorem State.modCore_pending (pos : Nat) (f : Core → Core) : (s.modCore pos f).pending = s.pending := rfl
@[simp] theorem State.modCore_csr (pos : Nat) (f : Core → Core) : (s.modCore pos f).csr = s.csr := rfl
@[simp] theorem State.modCore_clusters (pos : Nat) (f : Core → Core) : (s.modCore pos f).clusters = s.clusters := rfl
@[simp] theorem State.modCore_numRecs (pos : Nat) (f : Core → Core) : (s.modCore pos f).numRecs = s.numRecs := rfl
@[simp] theorem State.modCore_numHeld (pos : Nat) (f : Core → Core) : (s.modCore pos f).numHeld = s.numHeld := rfl
@[simp] theorem State.modCore_mem (pos : Nat) (f : Core → Core) : (s.modCore pos f).mem = s.mem := rfl
@[simp] theorem State.modCore_fab (pos : Nat) (f : Core → Core) : (s.modCore pos f).fab = s.fab := rfl
@[simp] theorem State.modCore_hif (pos : Nat) (f : Core → Core) : (s.modCore pos f).hif = s.hif := rfl
@[simp] theorem State.modCore_sys (pos : Nat) (f : Core → Core) : (s.modCore pos f).sys = s.sys := rfl
@[simp] theorem State.modCore_snap (pos : Nat) (f : Core → Core) : (s.modCore pos f).snap = s.snap := rfl
@[simp] theorem State.modCore_tender (pos : Nat) (f : Core → Core) : (s.modCore pos f).tender = s.tender := rfl
@[simp] theorem State.modCore_ce (pos : Nat) (f : Core → Core) : (s.modCore pos f).ce = s.ce := rfl
@[simp] theorem State.modCore_groupStop (pos : Nat) (f : Core → Core) : (s.modCore pos f).groupStop = s.groupStop := rfl
@[simp] theorem State.modCore_waits (pos : Nat) (f : Core → Core) : (s.modCore pos f).waits = s.waits := rfl

@[simp] theorem State.setArch_pending (pos : Nat) (a : Arch) : (s.setArch pos a).pending = s.pending := rfl
@[simp] theorem State.setArch_csr (pos : Nat) (a : Arch) : (s.setArch pos a).csr = s.csr := rfl
@[simp] theorem State.setArch_clusters (pos : Nat) (a : Arch) : (s.setArch pos a).clusters = s.clusters := rfl
@[simp] theorem State.setArch_numRecs (pos : Nat) (a : Arch) : (s.setArch pos a).numRecs = s.numRecs := rfl
@[simp] theorem State.setArch_numHeld (pos : Nat) (a : Arch) : (s.setArch pos a).numHeld = s.numHeld := rfl
@[simp] theorem State.setArch_mem (pos : Nat) (a : Arch) : (s.setArch pos a).mem = s.mem := rfl
@[simp] theorem State.setArch_fab (pos : Nat) (a : Arch) : (s.setArch pos a).fab = s.fab := rfl
@[simp] theorem State.setArch_hif (pos : Nat) (a : Arch) : (s.setArch pos a).hif = s.hif := rfl
@[simp] theorem State.setArch_sys (pos : Nat) (a : Arch) : (s.setArch pos a).sys = s.sys := rfl
@[simp] theorem State.setArch_snap (pos : Nat) (a : Arch) : (s.setArch pos a).snap = s.snap := rfl
@[simp] theorem State.setArch_tender (pos : Nat) (a : Arch) : (s.setArch pos a).tender = s.tender := rfl
@[simp] theorem State.setArch_ce (pos : Nat) (a : Arch) : (s.setArch pos a).ce = s.ce := rfl
@[simp] theorem State.setArch_groupStop (pos : Nat) (a : Arch) : (s.setArch pos a).groupStop = s.groupStop := rfl
@[simp] theorem State.setArch_waits (pos : Nat) (a : Arch) : (s.setArch pos a).waits = s.waits := rfl

@[simp] theorem State.setFlow_pending (pos : Nat) (f : Flow) : (s.setFlow pos f).pending = s.pending := rfl
@[simp] theorem State.setFlow_csr (pos : Nat) (f : Flow) : (s.setFlow pos f).csr = s.csr := rfl
@[simp] theorem State.setFlow_clusters (pos : Nat) (f : Flow) : (s.setFlow pos f).clusters = s.clusters := rfl
@[simp] theorem State.setFlow_numRecs (pos : Nat) (f : Flow) : (s.setFlow pos f).numRecs = s.numRecs := rfl
@[simp] theorem State.setFlow_numHeld (pos : Nat) (f : Flow) : (s.setFlow pos f).numHeld = s.numHeld := rfl
@[simp] theorem State.setFlow_mem (pos : Nat) (f : Flow) : (s.setFlow pos f).mem = s.mem := rfl
@[simp] theorem State.setFlow_fab (pos : Nat) (f : Flow) : (s.setFlow pos f).fab = s.fab := rfl
@[simp] theorem State.setFlow_hif (pos : Nat) (f : Flow) : (s.setFlow pos f).hif = s.hif := rfl
@[simp] theorem State.setFlow_sys (pos : Nat) (f : Flow) : (s.setFlow pos f).sys = s.sys := rfl
@[simp] theorem State.setFlow_snap (pos : Nat) (f : Flow) : (s.setFlow pos f).snap = s.snap := rfl
@[simp] theorem State.setFlow_tender (pos : Nat) (f : Flow) : (s.setFlow pos f).tender = s.tender := rfl
@[simp] theorem State.setFlow_ce (pos : Nat) (f : Flow) : (s.setFlow pos f).ce = s.ce := rfl
@[simp] theorem State.setFlow_groupStop (pos : Nat) (f : Flow) : (s.setFlow pos f).groupStop = s.groupStop := rfl
@[simp] theorem State.setFlow_waits (pos : Nat) (f : Flow) : (s.setFlow pos f).waits = s.waits := rfl

@[simp] theorem State.setSpr_pending (pos : Nat) (p : Spr) : (s.setSpr pos p).pending = s.pending := rfl
@[simp] theorem State.setSpr_csr (pos : Nat) (p : Spr) : (s.setSpr pos p).csr = s.csr := rfl
@[simp] theorem State.setSpr_clusters (pos : Nat) (p : Spr) : (s.setSpr pos p).clusters = s.clusters := rfl
@[simp] theorem State.setSpr_numRecs (pos : Nat) (p : Spr) : (s.setSpr pos p).numRecs = s.numRecs := rfl
@[simp] theorem State.setSpr_numHeld (pos : Nat) (p : Spr) : (s.setSpr pos p).numHeld = s.numHeld := rfl
@[simp] theorem State.setSpr_mem (pos : Nat) (p : Spr) : (s.setSpr pos p).mem = s.mem := rfl
@[simp] theorem State.setSpr_fab (pos : Nat) (p : Spr) : (s.setSpr pos p).fab = s.fab := rfl
@[simp] theorem State.setSpr_hif (pos : Nat) (p : Spr) : (s.setSpr pos p).hif = s.hif := rfl
@[simp] theorem State.setSpr_sys (pos : Nat) (p : Spr) : (s.setSpr pos p).sys = s.sys := rfl
@[simp] theorem State.setSpr_snap (pos : Nat) (p : Spr) : (s.setSpr pos p).snap = s.snap := rfl
@[simp] theorem State.setSpr_tender (pos : Nat) (p : Spr) : (s.setSpr pos p).tender = s.tender := rfl
@[simp] theorem State.setSpr_ce (pos : Nat) (p : Spr) : (s.setSpr pos p).ce = s.ce := rfl
@[simp] theorem State.setSpr_groupStop (pos : Nat) (p : Spr) : (s.setSpr pos p).groupStop = s.groupStop := rfl
@[simp] theorem State.setSpr_waits (pos : Nat) (p : Spr) : (s.setSpr pos p).waits = s.waits := rfl

@[simp] theorem State.setWork_pending (pos : Nat) (w : Work) : (s.setWork pos w).pending = s.pending := rfl
@[simp] theorem State.setWork_csr (pos : Nat) (w : Work) : (s.setWork pos w).csr = s.csr := rfl
@[simp] theorem State.setWork_clusters (pos : Nat) (w : Work) : (s.setWork pos w).clusters = s.clusters := rfl
@[simp] theorem State.setWork_numRecs (pos : Nat) (w : Work) : (s.setWork pos w).numRecs = s.numRecs := rfl
@[simp] theorem State.setWork_numHeld (pos : Nat) (w : Work) : (s.setWork pos w).numHeld = s.numHeld := rfl
@[simp] theorem State.setWork_mem (pos : Nat) (w : Work) : (s.setWork pos w).mem = s.mem := rfl
@[simp] theorem State.setWork_fab (pos : Nat) (w : Work) : (s.setWork pos w).fab = s.fab := rfl
@[simp] theorem State.setWork_hif (pos : Nat) (w : Work) : (s.setWork pos w).hif = s.hif := rfl
@[simp] theorem State.setWork_sys (pos : Nat) (w : Work) : (s.setWork pos w).sys = s.sys := rfl
@[simp] theorem State.setWork_snap (pos : Nat) (w : Work) : (s.setWork pos w).snap = s.snap := rfl
@[simp] theorem State.setWork_tender (pos : Nat) (w : Work) : (s.setWork pos w).tender = s.tender := rfl
@[simp] theorem State.setWork_ce (pos : Nat) (w : Work) : (s.setWork pos w).ce = s.ce := rfl
@[simp] theorem State.setWork_groupStop (pos : Nat) (w : Work) : (s.setWork pos w).groupStop = s.groupStop := rfl
@[simp] theorem State.setWork_waits (pos : Nat) (w : Work) : (s.setWork pos w).waits = s.waits := rfl

@[simp] theorem State.setCaches_pending (pos : Nat) (x : Caches) : (s.setCaches pos x).pending = s.pending := rfl
@[simp] theorem State.setCaches_csr (pos : Nat) (x : Caches) : (s.setCaches pos x).csr = s.csr := rfl
@[simp] theorem State.setCaches_clusters (pos : Nat) (x : Caches) : (s.setCaches pos x).clusters = s.clusters := rfl
@[simp] theorem State.setCaches_numRecs (pos : Nat) (x : Caches) : (s.setCaches pos x).numRecs = s.numRecs := rfl
@[simp] theorem State.setCaches_numHeld (pos : Nat) (x : Caches) : (s.setCaches pos x).numHeld = s.numHeld := rfl
@[simp] theorem State.setCaches_mem (pos : Nat) (x : Caches) : (s.setCaches pos x).mem = s.mem := rfl
@[simp] theorem State.setCaches_fab (pos : Nat) (x : Caches) : (s.setCaches pos x).fab = s.fab := rfl
@[simp] theorem State.setCaches_hif (pos : Nat) (x : Caches) : (s.setCaches pos x).hif = s.hif := rfl
@[simp] theorem State.setCaches_sys (pos : Nat) (x : Caches) : (s.setCaches pos x).sys = s.sys := rfl
@[simp] theorem State.setCaches_snap (pos : Nat) (x : Caches) : (s.setCaches pos x).snap = s.snap := rfl
@[simp] theorem State.setCaches_tender (pos : Nat) (x : Caches) : (s.setCaches pos x).tender = s.tender := rfl
@[simp] theorem State.setCaches_ce (pos : Nat) (x : Caches) : (s.setCaches pos x).ce = s.ce := rfl
@[simp] theorem State.setCaches_groupStop (pos : Nat) (x : Caches) : (s.setCaches pos x).groupStop = s.groupStop := rfl
@[simp] theorem State.setCaches_waits (pos : Nat) (x : Caches) : (s.setCaches pos x).waits = s.waits := rfl

@[simp] theorem State.setLdmWord_pending (pos i : Nat) (w : Tagged) : (s.setLdmWord pos i w).pending = s.pending := rfl
@[simp] theorem State.setLdmWord_csr (pos i : Nat) (w : Tagged) : (s.setLdmWord pos i w).csr = s.csr := rfl
@[simp] theorem State.setLdmWord_clusters (pos i : Nat) (w : Tagged) : (s.setLdmWord pos i w).clusters = s.clusters := rfl
@[simp] theorem State.setLdmWord_numRecs (pos i : Nat) (w : Tagged) : (s.setLdmWord pos i w).numRecs = s.numRecs := rfl
@[simp] theorem State.setLdmWord_numHeld (pos i : Nat) (w : Tagged) : (s.setLdmWord pos i w).numHeld = s.numHeld := rfl
@[simp] theorem State.setLdmWord_mem (pos i : Nat) (w : Tagged) : (s.setLdmWord pos i w).mem = s.mem := rfl
@[simp] theorem State.setLdmWord_fab (pos i : Nat) (w : Tagged) : (s.setLdmWord pos i w).fab = s.fab := rfl
@[simp] theorem State.setLdmWord_hif (pos i : Nat) (w : Tagged) : (s.setLdmWord pos i w).hif = s.hif := rfl
@[simp] theorem State.setLdmWord_sys (pos i : Nat) (w : Tagged) : (s.setLdmWord pos i w).sys = s.sys := rfl
@[simp] theorem State.setLdmWord_snap (pos i : Nat) (w : Tagged) : (s.setLdmWord pos i w).snap = s.snap := rfl
@[simp] theorem State.setLdmWord_tender (pos i : Nat) (w : Tagged) : (s.setLdmWord pos i w).tender = s.tender := rfl
@[simp] theorem State.setLdmWord_ce (pos i : Nat) (w : Tagged) : (s.setLdmWord pos i w).ce = s.ce := rfl
@[simp] theorem State.setLdmWord_groupStop (pos i : Nat) (w : Tagged) : (s.setLdmWord pos i w).groupStop = s.groupStop := rfl
@[simp] theorem State.setLdmWord_waits (pos i : Nat) (w : Tagged) : (s.setLdmWord pos i w).waits = s.waits := rfl

@[simp] theorem State.setClu_pending (c : Nat) (x : Cluster) : (s.setClu c x).pending = s.pending := rfl
@[simp] theorem State.setClu_csr (c : Nat) (x : Cluster) : (s.setClu c x).csr = s.csr := rfl
@[simp] theorem State.setClu_cores (c : Nat) (x : Cluster) : (s.setClu c x).cores = s.cores := rfl
@[simp] theorem State.setClu_numRecs (c : Nat) (x : Cluster) : (s.setClu c x).numRecs = s.numRecs := rfl
@[simp] theorem State.setClu_numHeld (c : Nat) (x : Cluster) : (s.setClu c x).numHeld = s.numHeld := rfl
@[simp] theorem State.setClu_mem (c : Nat) (x : Cluster) : (s.setClu c x).mem = s.mem := rfl
@[simp] theorem State.setClu_fab (c : Nat) (x : Cluster) : (s.setClu c x).fab = s.fab := rfl
@[simp] theorem State.setClu_hif (c : Nat) (x : Cluster) : (s.setClu c x).hif = s.hif := rfl
@[simp] theorem State.setClu_sys (c : Nat) (x : Cluster) : (s.setClu c x).sys = s.sys := rfl
@[simp] theorem State.setClu_snap (c : Nat) (x : Cluster) : (s.setClu c x).snap = s.snap := rfl
@[simp] theorem State.setClu_tender (c : Nat) (x : Cluster) : (s.setClu c x).tender = s.tender := rfl
@[simp] theorem State.setClu_ce (c : Nat) (x : Cluster) : (s.setClu c x).ce = s.ce := rfl
@[simp] theorem State.setClu_groupStop (c : Nat) (x : Cluster) : (s.setClu c x).groupStop = s.groupStop := rfl
@[simp] theorem State.setClu_waits (c : Nat) (x : Cluster) : (s.setClu c x).waits = s.waits := rfl

@[simp] theorem State.modClu_pending (c : Nat) (f : Cluster → Cluster) : (s.modClu c f).pending = s.pending := rfl
@[simp] theorem State.modClu_csr (c : Nat) (f : Cluster → Cluster) : (s.modClu c f).csr = s.csr := rfl
@[simp] theorem State.modClu_cores (c : Nat) (f : Cluster → Cluster) : (s.modClu c f).cores = s.cores := rfl
@[simp] theorem State.modClu_numRecs (c : Nat) (f : Cluster → Cluster) : (s.modClu c f).numRecs = s.numRecs := rfl
@[simp] theorem State.modClu_numHeld (c : Nat) (f : Cluster → Cluster) : (s.modClu c f).numHeld = s.numHeld := rfl
@[simp] theorem State.modClu_mem (c : Nat) (f : Cluster → Cluster) : (s.modClu c f).mem = s.mem := rfl
@[simp] theorem State.modClu_fab (c : Nat) (f : Cluster → Cluster) : (s.modClu c f).fab = s.fab := rfl
@[simp] theorem State.modClu_hif (c : Nat) (f : Cluster → Cluster) : (s.modClu c f).hif = s.hif := rfl
@[simp] theorem State.modClu_sys (c : Nat) (f : Cluster → Cluster) : (s.modClu c f).sys = s.sys := rfl
@[simp] theorem State.modClu_snap (c : Nat) (f : Cluster → Cluster) : (s.modClu c f).snap = s.snap := rfl
@[simp] theorem State.modClu_tender (c : Nat) (f : Cluster → Cluster) : (s.modClu c f).tender = s.tender := rfl
@[simp] theorem State.modClu_ce (c : Nat) (f : Cluster → Cluster) : (s.modClu c f).ce = s.ce := rfl
@[simp] theorem State.modClu_groupStop (c : Nat) (f : Cluster → Cluster) : (s.modClu c f).groupStop = s.groupStop := rfl
@[simp] theorem State.modClu_waits (c : Nat) (f : Cluster → Cluster) : (s.modClu c f).waits = s.waits := rfl

@[simp] theorem State.setPort_pending (p : Nat) (x : Port) : (s.setPort p x).pending = s.pending := rfl
@[simp] theorem State.setPort_csr (p : Nat) (x : Port) : (s.setPort p x).csr = s.csr := rfl
@[simp] theorem State.setPort_cores (p : Nat) (x : Port) : (s.setPort p x).cores = s.cores := rfl
@[simp] theorem State.setPort_clusters (p : Nat) (x : Port) : (s.setPort p x).clusters = s.clusters := rfl
@[simp] theorem State.setPort_numRecs (p : Nat) (x : Port) : (s.setPort p x).numRecs = s.numRecs := rfl
@[simp] theorem State.setPort_numHeld (p : Nat) (x : Port) : (s.setPort p x).numHeld = s.numHeld := rfl
@[simp] theorem State.setPort_mem (p : Nat) (x : Port) : (s.setPort p x).mem = s.mem := rfl
@[simp] theorem State.setPort_hif (p : Nat) (x : Port) : (s.setPort p x).hif = s.hif := rfl
@[simp] theorem State.setPort_sys (p : Nat) (x : Port) : (s.setPort p x).sys = s.sys := rfl
@[simp] theorem State.setPort_snap (p : Nat) (x : Port) : (s.setPort p x).snap = s.snap := rfl
@[simp] theorem State.setPort_tender (p : Nat) (x : Port) : (s.setPort p x).tender = s.tender := rfl
@[simp] theorem State.setPort_ce (p : Nat) (x : Port) : (s.setPort p x).ce = s.ce := rfl
@[simp] theorem State.setPort_groupStop (p : Nat) (x : Port) : (s.setPort p x).groupStop = s.groupStop := rfl
@[simp] theorem State.setPort_waits (p : Nat) (x : Port) : (s.setPort p x).waits = s.waits := rfl

@[simp] theorem State.modPort_pending (p : Nat) (f : Port → Port) : (s.modPort p f).pending = s.pending := rfl
@[simp] theorem State.modPort_csr (p : Nat) (f : Port → Port) : (s.modPort p f).csr = s.csr := rfl
@[simp] theorem State.modPort_cores (p : Nat) (f : Port → Port) : (s.modPort p f).cores = s.cores := rfl
@[simp] theorem State.modPort_clusters (p : Nat) (f : Port → Port) : (s.modPort p f).clusters = s.clusters := rfl
@[simp] theorem State.modPort_numRecs (p : Nat) (f : Port → Port) : (s.modPort p f).numRecs = s.numRecs := rfl
@[simp] theorem State.modPort_numHeld (p : Nat) (f : Port → Port) : (s.modPort p f).numHeld = s.numHeld := rfl
@[simp] theorem State.modPort_mem (p : Nat) (f : Port → Port) : (s.modPort p f).mem = s.mem := rfl
@[simp] theorem State.modPort_hif (p : Nat) (f : Port → Port) : (s.modPort p f).hif = s.hif := rfl
@[simp] theorem State.modPort_sys (p : Nat) (f : Port → Port) : (s.modPort p f).sys = s.sys := rfl
@[simp] theorem State.modPort_snap (p : Nat) (f : Port → Port) : (s.modPort p f).snap = s.snap := rfl
@[simp] theorem State.modPort_tender (p : Nat) (f : Port → Port) : (s.modPort p f).tender = s.tender := rfl
@[simp] theorem State.modPort_ce (p : Nat) (f : Port → Port) : (s.modPort p f).ce = s.ce := rfl
@[simp] theorem State.modPort_groupStop (p : Nat) (f : Port → Port) : (s.modPort p f).groupStop = s.groupStop := rfl
@[simp] theorem State.modPort_waits (p : Nat) (f : Port → Port) : (s.modPort p f).waits = s.waits := rfl

@[simp] theorem State.setQueue_pending (n : Nat) (x : HostQ) : (s.setQueue n x).pending = s.pending := rfl
@[simp] theorem State.setQueue_csr (n : Nat) (x : HostQ) : (s.setQueue n x).csr = s.csr := rfl
@[simp] theorem State.setQueue_cores (n : Nat) (x : HostQ) : (s.setQueue n x).cores = s.cores := rfl
@[simp] theorem State.setQueue_clusters (n : Nat) (x : HostQ) : (s.setQueue n x).clusters = s.clusters := rfl
@[simp] theorem State.setQueue_numRecs (n : Nat) (x : HostQ) : (s.setQueue n x).numRecs = s.numRecs := rfl
@[simp] theorem State.setQueue_numHeld (n : Nat) (x : HostQ) : (s.setQueue n x).numHeld = s.numHeld := rfl
@[simp] theorem State.setQueue_mem (n : Nat) (x : HostQ) : (s.setQueue n x).mem = s.mem := rfl
@[simp] theorem State.setQueue_fab (n : Nat) (x : HostQ) : (s.setQueue n x).fab = s.fab := rfl
@[simp] theorem State.setQueue_sys (n : Nat) (x : HostQ) : (s.setQueue n x).sys = s.sys := rfl
@[simp] theorem State.setQueue_snap (n : Nat) (x : HostQ) : (s.setQueue n x).snap = s.snap := rfl
@[simp] theorem State.setQueue_tender (n : Nat) (x : HostQ) : (s.setQueue n x).tender = s.tender := rfl
@[simp] theorem State.setQueue_ce (n : Nat) (x : HostQ) : (s.setQueue n x).ce = s.ce := rfl
@[simp] theorem State.setQueue_groupStop (n : Nat) (x : HostQ) : (s.setQueue n x).groupStop = s.groupStop := rfl
@[simp] theorem State.setQueue_waits (n : Nat) (x : HostQ) : (s.setQueue n x).waits = s.waits := rfl

@[simp] theorem State.emit_pending (m : OutMsg) : (s.emit m).pending = s.pending := rfl
@[simp] theorem State.emit_csr (m : OutMsg) : (s.emit m).csr = s.csr := rfl
@[simp] theorem State.emit_cores (m : OutMsg) : (s.emit m).cores = s.cores := rfl
@[simp] theorem State.emit_clusters (m : OutMsg) : (s.emit m).clusters = s.clusters := rfl
@[simp] theorem State.emit_numRecs (m : OutMsg) : (s.emit m).numRecs = s.numRecs := rfl
@[simp] theorem State.emit_numHeld (m : OutMsg) : (s.emit m).numHeld = s.numHeld := rfl
@[simp] theorem State.emit_mem (m : OutMsg) : (s.emit m).mem = s.mem := rfl
@[simp] theorem State.emit_fab (m : OutMsg) : (s.emit m).fab = s.fab := rfl
@[simp] theorem State.emit_sys (m : OutMsg) : (s.emit m).sys = s.sys := rfl
@[simp] theorem State.emit_snap (m : OutMsg) : (s.emit m).snap = s.snap := rfl
@[simp] theorem State.emit_tender (m : OutMsg) : (s.emit m).tender = s.tender := rfl
@[simp] theorem State.emit_ce (m : OutMsg) : (s.emit m).ce = s.ce := rfl
@[simp] theorem State.emit_groupStop (m : OutMsg) : (s.emit m).groupStop = s.groupStop := rfl
@[simp] theorem State.emit_waits (m : OutMsg) : (s.emit m).waits = s.waits := rfl

@[simp] theorem State.setErr_pending (u e : Nat) : (s.setErr u e).pending = s.pending := rfl
@[simp] theorem State.setErr_csr (u e : Nat) : (s.setErr u e).csr = s.csr := rfl
@[simp] theorem State.setErr_cores (u e : Nat) : (s.setErr u e).cores = s.cores := rfl
@[simp] theorem State.setErr_clusters (u e : Nat) : (s.setErr u e).clusters = s.clusters := rfl
@[simp] theorem State.setErr_numRecs (u e : Nat) : (s.setErr u e).numRecs = s.numRecs := rfl
@[simp] theorem State.setErr_numHeld (u e : Nat) : (s.setErr u e).numHeld = s.numHeld := rfl
@[simp] theorem State.setErr_fab (u e : Nat) : (s.setErr u e).fab = s.fab := rfl
@[simp] theorem State.setErr_hif (u e : Nat) : (s.setErr u e).hif = s.hif := rfl
@[simp] theorem State.setErr_sys (u e : Nat) : (s.setErr u e).sys = s.sys := rfl
@[simp] theorem State.setErr_snap (u e : Nat) : (s.setErr u e).snap = s.snap := rfl
@[simp] theorem State.setErr_tender (u e : Nat) : (s.setErr u e).tender = s.tender := rfl
@[simp] theorem State.setErr_ce (u e : Nat) : (s.setErr u e).ce = s.ce := rfl
@[simp] theorem State.setErr_groupStop (u e : Nat) : (s.setErr u e).groupStop = s.groupStop := rfl
@[simp] theorem State.setErr_waits (u e : Nat) : (s.setErr u e).waits = s.waits := rfl

@[simp] theorem State.setTrain_pending (t : Training) : (s.setTrain t).pending = s.pending := rfl
@[simp] theorem State.setTrain_csr (t : Training) : (s.setTrain t).csr = s.csr := rfl
@[simp] theorem State.setTrain_cores (t : Training) : (s.setTrain t).cores = s.cores := rfl
@[simp] theorem State.setTrain_clusters (t : Training) : (s.setTrain t).clusters = s.clusters := rfl
@[simp] theorem State.setTrain_numRecs (t : Training) : (s.setTrain t).numRecs = s.numRecs := rfl
@[simp] theorem State.setTrain_numHeld (t : Training) : (s.setTrain t).numHeld = s.numHeld := rfl
@[simp] theorem State.setTrain_mem (t : Training) : (s.setTrain t).mem = s.mem := rfl
@[simp] theorem State.setTrain_fab (t : Training) : (s.setTrain t).fab = s.fab := rfl
@[simp] theorem State.setTrain_hif (t : Training) : (s.setTrain t).hif = s.hif := rfl
@[simp] theorem State.setTrain_snap (t : Training) : (s.setTrain t).snap = s.snap := rfl
@[simp] theorem State.setTrain_tender (t : Training) : (s.setTrain t).tender = s.tender := rfl
@[simp] theorem State.setTrain_ce (t : Training) : (s.setTrain t).ce = s.ce := rfl
@[simp] theorem State.setTrain_groupStop (t : Training) : (s.setTrain t).groupStop = s.groupStop := rfl
@[simp] theorem State.setTrain_waits (t : Training) : (s.setTrain t).waits = s.waits := rfl

@[simp] theorem State.mramWrote_pending (w : MramTear) : (s.mramWrote w).pending = s.pending := rfl
@[simp] theorem State.mramWrote_csr (w : MramTear) : (s.mramWrote w).csr = s.csr := rfl
@[simp] theorem State.mramWrote_cores (w : MramTear) : (s.mramWrote w).cores = s.cores := rfl
@[simp] theorem State.mramWrote_clusters (w : MramTear) : (s.mramWrote w).clusters = s.clusters := rfl
@[simp] theorem State.mramWrote_numRecs (w : MramTear) : (s.mramWrote w).numRecs = s.numRecs := rfl
@[simp] theorem State.mramWrote_numHeld (w : MramTear) : (s.mramWrote w).numHeld = s.numHeld := rfl
@[simp] theorem State.mramWrote_mem (w : MramTear) : (s.mramWrote w).mem = s.mem := rfl
@[simp] theorem State.mramWrote_fab (w : MramTear) : (s.mramWrote w).fab = s.fab := rfl
@[simp] theorem State.mramWrote_hif (w : MramTear) : (s.mramWrote w).hif = s.hif := rfl
@[simp] theorem State.mramWrote_snap (w : MramTear) : (s.mramWrote w).snap = s.snap := rfl
@[simp] theorem State.mramWrote_tender (w : MramTear) : (s.mramWrote w).tender = s.tender := rfl
@[simp] theorem State.mramWrote_ce (w : MramTear) : (s.mramWrote w).ce = s.ce := rfl
@[simp] theorem State.mramWrote_groupStop (w : MramTear) : (s.mramWrote w).groupStop = s.groupStop := rfl
@[simp] theorem State.mramWrote_waits (w : MramTear) : (s.mramWrote w).waits = s.waits := rfl

@[simp] theorem State.idle_pending : s.idle.pending = s.pending := rfl
@[simp] theorem State.idle_csr : s.idle.csr = s.csr := rfl
@[simp] theorem State.idle_cores : s.idle.cores = s.cores := rfl
@[simp] theorem State.idle_clusters : s.idle.clusters = s.clusters := rfl
@[simp] theorem State.idle_numRecs : s.idle.numRecs = s.numRecs := rfl
@[simp] theorem State.idle_numHeld : s.idle.numHeld = s.numHeld := rfl
@[simp] theorem State.idle_mem : s.idle.mem = s.mem := rfl
@[simp] theorem State.idle_fab : s.idle.fab = s.fab := rfl
@[simp] theorem State.idle_hif : s.idle.hif = s.hif := rfl
@[simp] theorem State.idle_snap : s.idle.snap = s.snap := rfl
@[simp] theorem State.idle_tender : s.idle.tender = s.tender := rfl
@[simp] theorem State.idle_ce : s.idle.ce = s.ce := rfl
@[simp] theorem State.idle_groupStop : s.idle.groupStop = s.groupStop := rfl
@[simp] theorem State.idle_waits : s.idle.waits = s.waits := rfl

end Sys2Proof.Machine
end

