-- ==== Sys2Proof/Laws/Access.lean ====
section
/-! SUPPORT. Reading after writing: registers, cores, clusters, ports, queues and errors; and fields of words. -/

namespace Sys2Proof.Machine

/-! ### Fields of words -/

theorem fld_lt (x hi lo : Nat) : fld x hi lo < 2 ^ (hi + 1 - lo) := Nat.mod_lt _ (Nat.two_pow_pos _)

theorem wfld_lt (w : Word) (hi lo : Nat) : wfld w hi lo < 2 ^ (hi + 1 - lo) := fld_lt _ _ _

theorem testBit_fld (x hi lo i : Nat) : (fld x hi lo).testBit i = (decide (i < hi + 1 - lo) && x.testBit (lo + i)) := by
  simp [fld, Nat.testBit_mod_two_pow, Nat.testBit_shiftRight]

/-- A number taken apart at the borders of a field. -/
theorem fld_parts (x lo n : Nat) : x = x / 2 ^ (lo + n) * 2 ^ (lo + n) + (x >>> lo) % 2 ^ n * 2 ^ lo + x % 2 ^ lo := by
  have h1 := Nat.div_add_mod x (2 ^ lo)
  have h2 := Nat.div_add_mod (x / 2 ^ lo) (2 ^ n)
  rw [Nat.shiftRight_eq_div_pow, Nat.pow_add, ← Nat.div_div_eq_div_mul]
  calc x = 2 ^ lo * (x / 2 ^ lo) + x % 2 ^ lo := h1.symm
    _ = 2 ^ lo * (2 ^ n * (x / 2 ^ lo / 2 ^ n) + x / 2 ^ lo % 2 ^ n) + x % 2 ^ lo := by rw [h2]
    _ = _ := by 
      rw [Nat.mul_add, ← Nat.mul_assoc, Nat.mul_comm (2 ^ lo * 2 ^ n), Nat.mul_comm (2 ^ lo) (x / 2 ^ lo % 2 ^ n)]

/-- What stands after a field has been replaced: the bits above, the new field, the bits below. -/
theorem setFld_eq (x hi lo v : Nat) :
    setFld x hi lo v = x / 2 ^ (lo + (hi + 1 - lo)) * 2 ^ (lo + (hi + 1 - lo)) + v % 2 ^ (hi + 1 - lo) * 2 ^ lo + x % 2 ^ lo := by
  have h := fld_parts x lo (hi + 1 - lo)
  simp only [setFld, Nat.shiftLeft_eq]
  generalize hA : x / 2 ^ (lo + (hi + 1 - lo)) * 2 ^ (lo + (hi + 1 - lo)) = A at h ⊢
  generalize hB : (x >>> lo) % 2 ^ (hi + 1 - lo) * 2 ^ lo = B at h ⊢
  generalize x % 2 ^ lo = C at h ⊢
  generalize v % 2 ^ (hi + 1 - lo) * 2 ^ lo = D
  omega

theorem testBit_setFld (x hi lo v i : Nat) :
    (setFld x hi lo v).testBit i = if lo ≤ i ∧ i < lo + (hi + 1 - lo) then v.testBit (i - lo) else x.testBit i := by
  generalize hn : hi + 1 - lo = n
  have e : setFld x hi lo v = 2 ^ lo * (2 ^ n * (x / 2 ^ (lo + n)) + v % 2 ^ n) + x % 2 ^ lo := by
    rw [setFld_eq, hn, Nat.mul_add, ← Nat.mul_assoc, ← Nat.pow_add, Nat.mul_comm (x / _), Nat.mul_comm (v % _)]
  rw [e, Nat.testBit_two_pow_mul_add _ (Nat.mod_lt _ (Nat.two_pow_pos lo))]
  by_cases h : i < lo
  · have : ¬(lo ≤ i ∧ i < lo + n) := by omega
    simp [h, this, Nat.testBit_mod_two_pow]
  · rw [if_neg h, Nat.testBit_two_pow_mul_add _ (Nat.mod_lt _ (Nat.two_pow_pos n))]
    by_cases h2 : i - lo < n
    · have : lo ≤ i ∧ i < lo + n := by omega
      simp [h2, this, Nat.testBit_mod_two_pow]
    · have : ¬(lo ≤ i ∧ i < lo + n) := by omega
      rw [if_neg h2, if_neg this, Nat.testBit_div_two_pow]
      congr 1; omega

theorem setFld_lt {x hi lo v n : Nat} (h : x < 2 ^ n) (hh : hi < n) (hl : lo ≤ hi) : setFld x hi lo v < 2 ^ n := by
  apply Nat.lt_pow_two_of_testBit
  intro i hi'
  rw [testBit_setFld, if_neg (by omega)]
  exact Nat.testBit_lt_two_pow (Nat.lt_of_lt_of_le h (Nat.pow_le_pow_right (by decide) hi'))

/-- The field that was replaced reads as the new value. -/
theorem wfld_wsetFld_self (w : Word) {hi lo v : Nat} (hh : hi < 64) (hl : lo ≤ hi) : wfld (wsetFld w hi lo v) hi lo = v % 2 ^ (hi + 1 - lo) := by
  rw [wfld, wsetFld, BitVec.toNat_ofNat, Nat.mod_eq_of_lt (setFld_lt w.isLt hh hl)]
  apply Nat.eq_of_testBit_eq
  intro i
  rw [testBit_fld, testBit_setFld, Nat.testBit_mod_two_pow]
  by_cases h : i < hi + 1 - lo
  · rw [if_pos (by omega)]; simp [h]
  · simp [h]

/-- A field beside the one that was replaced reads as before. -/
theorem wfld_wsetFld_ne (w : Word) {hi lo v hi' lo' : Nat} (hh : hi < 64) (hl : lo ≤ hi) (h : hi < lo' ∨ hi' < lo) : wfld (wsetFld w hi lo v) hi' lo' = wfld w hi' lo' := by
  rw [wfld, wsetFld, BitVec.toNat_ofNat, Nat.mod_eq_of_lt (setFld_lt w.isLt hh hl), wfld]
  apply Nat.eq_of_testBit_eq
  intro i
  rw [testBit_fld, testBit_fld, testBit_setFld]
  by_cases hi2 : i < hi' + 1 - lo'
  · rw [if_neg (by omega)]
  · simp [hi2]

/-! ### Registers -/

variable (s : State)

theorem State.raw_put (off off' : Nat) (w : Word) : (s.put off w).raw off' = if off' = off then w else s.raw off' := Sparse.get_set ..

@[simp] theorem State.raw_put_self (off : Nat) (w : Word) : (s.put off w).raw off = w := Sparse.get_set_self ..

theorem State.raw_put_ne {off off' : Nat} (w : Word) (h : off' ≠ off) : (s.put off w).raw off' = s.raw off' := Sparse.get_set_ne h

theorem State.raw_putFld_ne {off off' : Nat} (hi lo v : Nat) (h : off' ≠ off) : (s.putFld off hi lo v).raw off' = s.raw off' := Sparse.get_set_ne h

@[simp] theorem State.raw_putFld_self (off hi lo v : Nat) : (s.putFld off hi lo v).raw off = wsetFld (s.raw off) hi lo v := Sparse.get_set_self ..

theorem State.raw_putBit_ne {off off' : Nat} (i : Nat) (b : Bool) (h : off' ≠ off) : (s.putBit off i b).raw off' = s.raw off' := Sparse.get_set_ne h

@[simp] theorem State.raw_bump_self (off n : Nat) : (s.bump off n).raw off = s.raw off + BitVec.ofNat 64 n := Sparse.get_set_self ..

theorem State.raw_bump_ne {off off' : Nat} (n : Nat) (h : off' ≠ off) : (s.bump off n).raw off' = s.raw off' := Sparse.get_set_ne h

/-- A register reads the same in states that agree on the registers. -/
theorem State.raw_congr {s t : State} (h : t.csr = s.csr) (off : Nat) : t.raw off = s.raw off := by rw [State.raw, State.raw, h]

theorem State.cur_congr {s t : State} (h : t.csr = s.csr) (h' : t.sys = s.sys) (off : Nat) : t.cur off = s.cur off := by
  rw [State.cur, State.cur, State.raw, State.raw, h, h']

theorem State.fld_congr {s t : State} (h : t.csr = s.csr) (h' : t.sys = s.sys) (off hi lo : Nat) : t.fld off hi lo = s.fld off hi lo := by
  rw [State.fld, State.fld, State.cur_congr h h']

/-- With the layers in force a register reads as its content. -/
theorem State.cur_of_applied {s : State} (h : s.sys.cfgApplied = true) (off : Nat) : s.cur off = s.raw off := by simp [State.cur, h]

theorem State.fld_putFld_self {off hi lo v : Nat} (h : s.sys.cfgApplied = true) (hh : hi < 64) (hl : lo ≤ hi) :
    (s.putFld off hi lo v).fld off hi lo = v % 2 ^ (hi + 1 - lo) := by
  rw [State.fld, State.cur_of_applied (by simpa using h), State.raw_putFld_self, wfld_wsetFld_self _ hh hl]

theorem State.fld_putFld_ne {off hi lo hi' lo' v : Nat} (h : s.sys.cfgApplied = true) (hh : hi < 64) (hl : lo ≤ hi) (hd : hi < lo' ∨ hi' < lo) :
    (s.putFld off hi lo v).fld off hi' lo' = s.fld off hi' lo' := by
  rw [State.fld, State.cur_of_applied (by simpa using h), State.raw_putFld_self, wfld_wsetFld_ne _ hh hl hd, State.fld, State.cur_of_applied h]

theorem State.fld_put_ne {off off' : Nat} (w : Word) (hi lo : Nat) (hd : off' ≠ off) : (s.put off w).fld off' hi lo = s.fld off' hi lo := by
  simp [State.fld, State.cur, State.raw_put_ne _ _ hd]

theorem State.fld_putFld_other {off off' : Nat} (hi lo v hi' lo' : Nat) (hd : off' ≠ off) : (s.putFld off hi lo v).fld off' hi' lo' = s.fld off' hi' lo' :=
  State.fld_put_ne s _ _ _ hd

/-! ### Units -/

theorem State.coreAt_setCore (p q : Nat) (c : Core) : (s.setCore p c).coreAt q = if q = p then c else s.coreAt q := Sparse.get_set ..

@[simp] theorem State.coreAt_setCore_self (p : Nat) (c : Core) : (s.setCore p c).coreAt p = c := Sparse.get_set_self ..

theorem State.coreAt_setCore_ne {p q : Nat} (c : Core) (h : q ≠ p) : (s.setCore p c).coreAt q = s.coreAt q := Sparse.get_set_ne h

@[simp] theorem State.coreAt_modCore_self (p : Nat) (f : Core → Core) : (s.modCore p f).coreAt p = f (s.coreAt p) := Sparse.get_set_self ..

theorem State.coreAt_modCore_ne {p q : Nat} (f : Core → Core) (h : q ≠ p) : (s.modCore p f).coreAt q = s.coreAt q := Sparse.get_set_ne h

theorem State.coreAt_congr {s t : State} (h : t.cores = s.cores) (p : Nat) : t.coreAt p = s.coreAt p := by rw [State.coreAt, State.coreAt, h]

theorem State.cluAt_setClu (c d : Nat) (x : Cluster) : (s.setClu c x).cluAt d = if d = c then x else s.cluAt d := Sparse.get_set ..

@[simp] theorem State.cluAt_modClu_self (c : Nat) (f : Cluster → Cluster) : (s.modClu c f).cluAt c = f (s.cluAt c) := Sparse.get_set_self ..

theorem State.cluAt_modClu_ne {c d : Nat} (f : Cluster → Cluster) (h : d ≠ c) : (s.modClu c f).cluAt d = s.cluAt d := Sparse.get_set_ne h

theorem State.cluAt_congr {s t : State} (h : t.clusters = s.clusters) (c : Nat) : t.cluAt c = s.cluAt c := by rw [State.cluAt, State.cluAt, h]

theorem State.portAt_setPort (p q : Nat) (x : Port) : (s.setPort p x).portAt q = if q = p then x else s.portAt q := Sparse.get_set ..

@[simp] theorem State.portAt_modPort_self (p : Nat) (f : Port → Port) : (s.modPort p f).portAt p = f (s.portAt p) := Sparse.get_set_self ..

theorem State.portAt_modPort_ne {p q : Nat} (f : Port → Port) (h : q ≠ p) : (s.modPort p f).portAt q = s.portAt q := Sparse.get_set_ne h

theorem State.portAt_congr {s t : State} (h : t.fab.ports = s.fab.ports) (p : Nat) : t.portAt p = s.portAt p := by rw [State.portAt, State.portAt, h]

theorem State.queueAt_setQueue (n m : Nat) (x : HostQ) : (s.setQueue n x).queueAt m = if m = n then x else s.queueAt m := Sparse.get_set ..

theorem State.errAt_setErr (u v e : Nat) : (s.setErr u e).errAt v = if v = u then e else s.errAt v := Sparse.get_set ..

theorem Core.word_setWord (c : Core) (i j : Nat) (w : Tagged) : (c.setWord i w).word j = if j = i then w else c.word j := Sparse.get_set ..

/-! ### The empty queue and the clock -/

/-- What one step of an empty queue leaves: all but the time. -/
theorem State.idle_eq : s.idle = { s with sys := { s.sys with time := s.sys.time + 1 } } := rfl

end Sys2Proof.Machine
end

