-- ==== Sys2Proof/Laws/Answer.lean ====
section
/-! SUPPORT. The form of every command's answer, said once: what `answer`, `settle`, `State.written` and `step` can do. -/

namespace Sys2Proof.Machine

variable {s t : State} {f : State → State} {ok : Bool}

/-- Everything `answer` can do: the effect with its waits settled and the queue as it was, or the one fault. -/
theorem answer_cases (ok : Bool) (s : State) (f : State → State) :
    (ok = true ∧ answer ok s f = .next { settle s (f { s with waits := [] }) with waits := [], pending := s.pending }) ∨
    (ok = false ∧ answer ok s f = .fault .noSuchUnit) := by
  cases ok
  · exact .inr ⟨rfl, rfl⟩
  · exact .inl ⟨rfl, rfl⟩

/-- A next state comes only from a command whose units exist. -/
theorem answer_next (h : answer ok s f = .next t) : ok = true ∧ t = { settle s (f { s with waits := [] }) with waits := [], pending := s.pending } := by
  obtain ⟨h1, h2⟩ | ⟨_, h2⟩ := answer_cases ok s f
  · rw [h2] at h; injection h with h; exact ⟨h1, h.symm⟩
  · rw [h2] at h; cases h

theorem answer_pending (h : answer ok s f = .next t) : t.pending = s.pending := by rw [(answer_next h).2]

theorem answer_waits (h : answer ok s f = .next t) : t.waits = [] := by rw [(answer_next h).2]

theorem answer_not_refused {r : Refusal} : answer ok s f ≠ .refused r := by
  obtain ⟨_, h⟩ | ⟨_, h⟩ := answer_cases ok s f <;> rw [h] <;> intro e <;> cases e

/-- An effect that found nothing to wait for stands. -/
theorem settle_of_no_wait (h : t.waits = []) : settle s t = t := by simp [settle, h]

/-- An effect that found something to wait for is dropped, and the waits are started. -/
theorem settle_of_wait (h : t.waits ≠ []) : settle s t = t.waits.foldl State.startWait s := by
  cases hw : t.waits with
  | nil => exact absurd hw h
  | cons x xs => simp [settle, hw]

/-- The next state of a command that waits for nothing. -/
theorem answer_of_no_wait (h : (f { s with waits := [] }).waits = []) :
    answer true s f = .next { f { s with waits := [] } with waits := [], pending := s.pending } := by
  simp [answer, settle_of_no_wait h]

theorem State.written_of_phase (f : State → State) (h : s.phase = 7) : State.written f s = f s := by simp [State.written, h]

/-- Before phase 7 a write to a register that has a command of its own changes nothing (R401). -/
theorem State.written_of_ne (f : State → State) (h : s.phase ≠ 7) : State.written f s = s := by simp [State.written, h]

/-- A request at a bank changes the bank queues and registers alone. -/
theorem State.request_frame (s : State) (clu a : Nat) :
    (s.request clu a).1 = { s with csr := (s.request clu a).1.csr, mem := { s.mem with bankq := (s.request clu a).1.mem.bankq, nextReq := (s.request clu a).1.mem.nextReq } } := by
  simp only [State.request]; repeat' (first | rfl | split)

/-- Starting a wait changes nothing but the snapshot engine, counters, the bank queues, the host's outstanding snoops and what is sent to the host: it stores no byte. -/
theorem State.startWait_frame (s : State) (w : WaitOn) :
    (s.startWait w).pending = s.pending ∧ (s.startWait w).waits = s.waits ∧ (s.startWait w).mem.tiers = s.mem.tiers ∧ (s.startWait w).mem.host = s.mem.host ∧
    (s.startWait w).cores = s.cores ∧ (s.startWait w).clusters = s.clusters ∧ (s.startWait w).fab = s.fab ∧ (s.startWait w).tender = s.tender := by
  cases w with
  | page p => simp only [State.startWait]; repeat' (first | exact ⟨rfl, rfl, rfl, rfl, rfl, rfl, rfl, rfl⟩ | split)
  | line l => simp only [State.startWait]; split <;> exact ⟨rfl, rfl, rfl, rfl, rfl, rfl, rfl, rfl⟩
  | bank a =>
    simp only [State.startWait]
    repeat' (first | exact ⟨rfl, rfl, rfl, rfl, rfl, rfl, rfl, rfl⟩ | split)
    all_goals rw [State.request_frame]; exact ⟨rfl, rfl, rfl, rfl, rfl, rfl, rfl, rfl⟩
  | busy => exact ⟨rfl, rfl, rfl, rfl, rfl, rfl, rfl, rfl⟩

/-- With nothing in the queue a step only lets time pass. -/
theorem step_nil (h : s.pending = []) : step s = .next s.idle := by simp [step, h]

/-- With a command at the front, a step runs it. -/
theorem step_cons {c : Instr} {cs : List Instr} (h : s.pending = c :: cs) : step s = exec c { s with pending := cs } := by simp [step, h]

end Sys2Proof.Machine
end

