-- ==== Sys2Proof/Laws/Memory.lean ====
section
/-! SUPPORT. The laws of the memories: every operation keeps the canonical form, and a byte read after a store is the byte stored. -/

namespace Sys2Proof.Machine

/-! ### Operations on one memory -/

theorem Sparse.wfFrom_filter {β : Type} [DecidableEq β] {d : Nat → β} (f : Nat × β → Bool) {m : Sparse β} {lo : Option Nat}
    (h : Sparse.wfFrom d lo m = true) : Sparse.wfFrom d lo (m.filter f) = true := by
  induction m generalizing lo with
  | nil => cases lo <;> rfl
  | cons p m ih =>
    obtain ⟨k, v⟩ := p
    cases lo with
    | none =>
      simp only [Sparse.wfFrom, Bool.and_eq_true] at h
      cases hf : f (k, v)
      · rw [List.filter_cons_of_neg (by simp [hf])]
        exact Sparse.wfFrom_weaken (ih h.2) (by intro l hl; cases hl)
      · rw [List.filter_cons_of_pos hf]
        simp [Sparse.wfFrom, ih h.2, of_decide_eq_true h.1]
    | some l =>
      simp only [Sparse.wfFrom, Bool.and_eq_true, decide_eq_true_eq] at h
      cases hf : f (k, v)
      · rw [List.filter_cons_of_neg (by simp [hf])]
        exact Sparse.wfFrom_weaken (ih h.2) (by intro l' hl; cases hl; exact h.1.1)
      · rw [List.filter_cons_of_pos hf]
        simp [Sparse.wfFrom, ih h.2, h.1.1, h.1.2]

theorem Sparse.wf_filter {β : Type} [DecidableEq β] {d : Nat → β} (f : Nat × β → Bool) {m : Sparse β} (h : Sparse.wf d m = true) :
    Sparse.wf d (m.filter f) = true := Sparse.wfFrom_filter f h

/-- Stores one after another, each of a value computed from the memory, keep the canonical form. -/
theorem Sparse.wf_foldl_set {α β : Type} [DecidableEq β] {d : Nat → β} (key : α → Nat) (val : Sparse β → α → β) (l : List α) {m : Sparse β}
    (h : Sparse.wf d m = true) : Sparse.wf d (l.foldl (fun m x => Sparse.set d m (key x) (val m x)) m) = true := by
  induction l generalizing m with
  | nil => exact h
  | cons x l ih => exact ih (Sparse.wf_set h)

theorem Sparse.wf_putRange {m : Memory} (h : Memory.wf m = true) (a n : Nat) (v : Memory) : Memory.wf (Sparse.putRange m a n v) = true :=
  Sparse.wf_foldl_set (fun x : Nat × Byte => a + x.1) (fun _ x => x.2) v (Sparse.wf_filter _ h)

theorem Sparse.wf_xorRange {m : Memory} (h : Memory.wf m = true) (a : Nat) (v : Memory) : Memory.wf (Sparse.xorRange m a v) = true :=
  Sparse.wf_foldl_set (fun x : Nat × Byte => a + x.1) (fun m x => Sparse.get zeroByte m (a + x.1) ^^^ x.2) v h

theorem memPut_wf {m : Memory} (h : Memory.wf m = true) (a : Nat) (bs : List Byte) : Memory.wf (memPut m a bs) = true := by
  induction bs generalizing m a with
  | nil => exact h
  | cons b bs ih => exact ih (Sparse.wf_set h) _

/-- Bytes put below an address leave it as it was. -/
theorem memPut_get_lt {m : Memory} {a x : Nat} (bs : List Byte) (h : x < a) : Sparse.get zeroByte (memPut m a bs) x = Sparse.get zeroByte m x := by
  induction bs generalizing m a with
  | nil => rfl
  | cons b bs ih => rw [memPut, ih (by omega), Sparse.get_set_ne (by omega)]

/-- A byte put is read back. -/
theorem memPut_get {m : Memory} {a i : Nat} {bs : List Byte} (h : i < bs.length) :
    Sparse.get zeroByte (memPut m a bs) (a + i) = bs[i] := by
  induction bs generalizing m a i with
  | nil => cases h
  | cons b bs ih =>
    cases i with
    | zero => rw [memPut, memPut_get_lt _ (by omega)]; simp
    | succ i =>
      have h' : i < bs.length := by simpa using h
      have := ih (m := Sparse.set zeroByte m a b) (a := a + 1) h'
      rw [memPut, show a + (i + 1) = a + 1 + i by omega, this, List.getElem_cons_succ]

/-! ### The memories of the machine -/

/-- The memories of the machine have their canonical form. -/
def State.Canonical (s : State) : Prop := Memory.wf s.mem.tiers = true ∧ Memory.wf s.mem.host = true ∧ Memory.wf s.mem.flash = true

theorem State.Canonical.congr {s t : State} (h : s.Canonical) (e : t.mem = s.mem) : t.Canonical := by
  simpa [State.Canonical, e] using h

theorem State.setByteAt_canonical {s : State} (h : s.Canonical) (tag : Tag) (b : Byte) (l : Loc) : (s.setByteAt tag b l).Canonical := by
  cases l with
  | tier a => exact ⟨Sparse.wf_set h.1, h.2.1, h.2.2⟩
  | host q a => exact ⟨h.1, Sparse.wf_set h.2.1, h.2.2⟩
  | ldm p o => exact h
  | csr o => exact h
  | hole => exact h

theorem State.setBytes_canonical {s : State} (h : s.Canonical) (own : Option Nat) (tag : Tag) (a : Nat) (bs : List Byte) :
    (s.setBytes own tag a bs).Canonical := by
  induction bs generalizing s a with
  | nil => exact h
  | cons b bs ih => exact ih (State.setByteAt_canonical h tag b _) _

theorem State.hostStore_canonical {s : State} (h : s.Canonical) (a : Nat) (bs : List Byte) : (s.hostStore a bs).Canonical := by
  induction bs generalizing s a with
  | nil => exact h
  | cons b bs ih => exact ih (State.setByteAt_canonical h _ b _) _

/-- A byte of a tier after a store to a tier. -/
theorem State.tierByte_setByteAt (s : State) (tag : Tag) (b : Byte) (a x : Nat) :
    (s.setByteAt tag b (.tier a)).tierByte x = if x = a then b else s.tierByte x := Sparse.get_set ..

/-- A byte of host memory after a store to host memory, whichever decoder or queue named it. -/
theorem State.hostByte_setByteAt (s : State) (tag : Tag) (b : Byte) (q r a x : Nat) :
    (s.setByteAt tag b (.host q a)).byteAt (.host r x) = if x = a then b else s.byteAt (.host r x) := Sparse.get_set ..

/-- A store to a tier leaves host memory and every LDM as it was. -/
theorem State.byteAt_setByteAt_tier (s : State) (tag : Tag) (b : Byte) (a : Nat) (l : Loc) (h : ∀ x, l ≠ .tier x) :
    (s.setByteAt tag b (.tier a)).byteAt l = s.byteAt l := by
  cases l with
  | tier x => exact absurd rfl (h x)
  | ldm p o => rfl
  | host q x => rfl
  | csr o => rfl
  | hole => rfl

/-- A store to host memory leaves the tiers and every LDM as it was. -/
theorem State.byteAt_setByteAt_host (s : State) (tag : Tag) (b : Byte) (q a : Nat) (l : Loc) (h : ∀ r x, l ≠ .host r x) :
    (s.setByteAt tag b (.host q a)).byteAt l = s.byteAt l := by
  cases l with
  | host r x => exact absurd rfl (h r x)
  | tier x => rfl
  | ldm p o => rfl
  | csr o => rfl
  | hole => rfl

@[simp] theorem State.bytes_length (s : State) (own : Option Nat) (a n : Nat) : (s.bytes own a n).length = n := by
  induction n generalizing a with
  | zero => rfl
  | succ n ih => simp [State.bytes, ih]

/-! ### Stores leave the rest of the machine -/

theorem State.setByteAt_frame (s : State) (tag : Tag) (b : Byte) (l : Loc) :
    (s.setByteAt tag b l).pending = s.pending ∧ (s.setByteAt tag b l).waits = s.waits ∧ (s.setByteAt tag b l).csr = s.csr ∧
    (s.setByteAt tag b l).clusters = s.clusters ∧ (s.setByteAt tag b l).fab = s.fab ∧ (s.setByteAt tag b l).hif = s.hif ∧
    (s.setByteAt tag b l).sys = s.sys ∧ (s.setByteAt tag b l).snap = s.snap ∧ (s.setByteAt tag b l).tender = s.tender := by
  cases l <;> exact ⟨rfl, rfl, rfl, rfl, rfl, rfl, rfl, rfl, rfl⟩

theorem State.setBytes_frame (s : State) (own : Option Nat) (tag : Tag) (a : Nat) (bs : List Byte) :
    (s.setBytes own tag a bs).pending = s.pending ∧ (s.setBytes own tag a bs).waits = s.waits ∧ (s.setBytes own tag a bs).csr = s.csr ∧
    (s.setBytes own tag a bs).clusters = s.clusters ∧ (s.setBytes own tag a bs).fab = s.fab ∧ (s.setBytes own tag a bs).hif = s.hif ∧
    (s.setBytes own tag a bs).sys = s.sys ∧ (s.setBytes own tag a bs).snap = s.snap ∧ (s.setBytes own tag a bs).tender = s.tender := by
  induction bs generalizing s a with
  | nil => exact ⟨rfl, rfl, rfl, rfl, rfl, rfl, rfl, rfl, rfl⟩
  | cons b bs ih =>
    obtain ⟨h1, h2, h3, h4, h5, h6, h7, h8, h9⟩ := State.setByteAt_frame s tag b (s.locate own a)
    obtain ⟨g1, g2, g3, g4, g5, g6, g7, g8, g9⟩ := ih (s.setByteAt tag b (s.locate own a)) (a + 1)
    exact ⟨g1.trans h1, g2.trans h2, g3.trans h3, g4.trans h4, g5.trans h5, g6.trans h6, g7.trans h7, g8.trans h8, g9.trans h9⟩

end Sys2Proof.Machine
end

