-- ==== Sys2Proof/Tests/Slice0.lean ====
section
/-! SUPPORT. Tests: ill-formed commands are refused, the leaves of the manual's encoding decode, and, for each statement, concrete states and operands that
meet its hypotheses. -/

namespace Sys2Proof.Tests

open Sys2Proof Sys2Proof.Machine

/- One theorem after the other: a thread for each at once would need more memory than the check allows. -/
set_option Elab.async false

/-- The command stops because it names no unit of the device. -/
def stops (c : Instr) (s : State) : Bool :=
  match exec c s with
  | .fault .noSuchUnit => true
  | _ => false

/-- The command completes with a next state that has the property. -/
def yields (c : Instr) (s : State) (P : State → Bool) : Bool :=
  match exec c s with
  | .next t => P t
  | _ => false

/-! ### Ill-formed commands: one for each check of `Instr.wf` -/

theorem test_ill_formed_units :
    ([.leafIssue ⟨1300, [], 0⟩, .programStoreFill 1300, .stringStep 1300, .tileOpCommit 1300, .loadReturn 1300 0 (.unit .good), .headboxTransferComplete 1300 0,
      .vectorOpComplete 1300 none, .vectorOpComplete 0 (some (.reg ⟨44, 0, true, 0⟩)), .vectorOpComplete 0 (some (.reg ⟨0, 4, false, 0⟩)), .arrayCheckFault 1300 ⟨.regData false, 0⟩, .exceptionEntry 1300 ⟨0, 0⟩, .prefetchFillReturn 1300 0, .spareTakeover 100, .couch 100,
      .couchLimitExpiry 100, .rotationTurn 100, .testSessionStart 100, .timerCompare 100 0, .timerCompare 0 12, .cluCouchGo 100 0, .suspectDue 1300,
      .relPosreqTest 1300, .relPosreqMark 1300, .relPosreqUnmark 1300, .suspectHoursElapsed 1300, .selfTestSliceEnd 100 0] : List Instr).all
      (fun c => stops c State.reset) = true := by decide +kernel

theorem test_ill_formed_arithmetic_and_memory :
    ([.norm 100, .contrib 100, .update 100, .endEntry 100, .calenderEntryDone 100, .calCtrlQreset 100, .deviceRecord 16, .millTotalReturn 16, .stepEnd 16,
      .numSlotCtrlClr 256 0, .orbReduction 100 0, .orbReduction 0 8, .l2OrbCtrlEn 100 0 0, .l2OrbCtrlEn 0 8 0, .calQbaseStepWrite 100 true 0,
      .bankGrant 1280 0, .bankGrant 0 48, .retrainingWindowStart 1280, .retrainingWindowEnd 1280 true, .rowRemap 1280 0 0 0, .rowRemap 0 3 0 0,
      .rowRemap 0 0 16 0, .rowRemap 0 0 0 12288, .numContextOrGroupWrite 0xB00FF8 0, .numContextOrGroupWrite 0xB02400 0,
      .numContextOrGroupWrite 0xB01004 0] : List Instr).all (fun c => stops c State.reset) = true := by decide +kernel

theorem test_ill_formed_fabric_and_host :
    ([.cellReceive 36 ⟨⟨0, 0⟩, ⟨0, 0⟩, none⟩, .sheet 36, .replayTimeout 36, .laneLockLoss 36, .fabPCtrlRetrain 36, .cellStallTimeout ⟨16, none⟩, .cellStallTimeout ⟨0, some 4096⟩, .fabStrCtrlReload 16,
      .portRetrainWindowEnd 36 true, .portTrainingDone 36 ⟨true, 0⟩ 0, .fabPCtrlEn 36 0, .hostCounterRead 2, .hostCounterRead 0x4000000, .rcRead (.core 1300) 0 8,
      .rcRead .host 0 0, .rcRead .host 0x3FFFFFC 8, .registerWrite (.core 1300) 0 8 0, .registerWrite .host 0 0 0, .registerWrite .host 0x3FFFFFC 8 0,
      .hifQSqtail 16 0, .hifQCqhead 16 0, .hifQCtrlEn 16 0, .commandCompletion 16, .hifCdb 19 0, .hifCdbc 19 0, .msixUnmask 32, .clockStepChange 100,
      .thermalCapStep 100 0, .mboxOutWrite 1300 0 0, .mboxOutWrite 0 1200 0, .mboxInRead ⟨0, 1200⟩, .mboxInRead ⟨1300, 0⟩, .relWmwDbaseEn 16 0, .snapPmemWrite 16 0, .rcRead .bar2 0xFFFC 8, .registerWrite .config 0xFFE 4 0] : List Instr).all
      (fun c => stops c State.reset) = true := by decide +kernel

theorem test_ill_formed_module :
    ([.timingMonitorRaise 170, .thermalCutoff 170 0, .reelStackRefreshDoubled 20 0, .p2 ⟨[], [170], none⟩, .p2 ⟨[], [], some ⟨170, 0, 0⟩⟩, .p3 ⟨[], [1280], []⟩, .p3 ⟨[], [], [1280]⟩,
      .p5 [1300] [] [] [] [], .p5 [] [1280] [] [] [], .p5 [] [] [754974720] [] [], .p5 [] [] [] [12000] [], .jtagInstruction ⟨6, [100]⟩] : List Instr).all (fun c => stops c State.reset) = true := by decide +kernel

/-! ### States from which the tests start -/

/-- The device in operation: main power, firmware and clock run, the layers apply, the tiers are open at full capacity, the link is up. -/
def up : State :=
  let s := { State.reset with
    sys := { Sys.reset with mainGood := true, standby := true, clockRuns := true, cfgApplied := true, fwRuns := true }
    mem := { Mem.reset with isOpen := true }, hif := { HostIf.reset with linkUp := true } }
  (s.putFld Reg.cfgStat 3 0 7).putFld Reg.memCapacity 31 0 737280

/-- An operation syllable, and a leaf of syllables with its parity bits (R48, R49). -/
def op (cls f : Nat) : Nat := cls * 1024 + f

def leaf (syls : List Nat) (fmt : Nat := 0) : BitVec 256 :=
  let w := (upto syls.length).foldl (fun w k => w + syls.getD k 0 * 2 ^ (14 * k + 4)) (fmt * 4)
  BitVec.ofNat 256 (w + (popCount 126 (fld w 129 4) % 2) * 2 + popCount 126 (fld w 255 130) % 2)

/-- Position 0 runs as logical core 0, with position 12 as the spare, before the leaf `bits` at leaf 0 of its program store. -/
def at0 (bits : BitVec 256) (f : Arch → Arch) : State :=
  let s := ((up.mapSlot 0 (some 0)).setStateOf 0 1).makeSpare 12
  (s.setArch 0 (f Arch.reset)).setCaches 0 { Caches.reset with ps := [(0, ⟨0, 0, [true, false, false, false], [bits, 0, 0, 0]⟩)] }

/-- Registers s1, s2, ... filled in turn. -/
def withRegs (vs : List Tagged) (a : Arch) : Arch := (upto vs.length).foldl (fun a i => a.setReg (i + 1) (vs.getD i emptyTagged)) a

/-- Every entry of a sparse map has the property, and every unlisted value has it: so has every value that is read. -/
theorem get_all {β : Type} (d : Nat → β) (P : Nat → β → Bool) (m : Sparse β) (k : Nat) (hd : P k (d k) = true) (h : m.all (fun p => P p.1 p.2) = true) :
    P k (Sparse.get d m k) = true := by
  induction m with
  | nil => exact hd
  | cons p m ih =>
    simp only [List.all_cons, Bool.and_eq_true] at h
    by_cases hk : p.1 = k
    · subst hk; simp [Sparse.get, h.1]
    · simpa [Sparse.get, hk] using ih h.2

/-- A bank queue that keeps no request waiting, and a register word that reports no retraining window. -/
def bankFree (_ : Nat) (q : BankQ) : Bool := decide (q.queue.length < 16) && decide (q.waiting = [])
def noWindow (off : Nat) (w : Word) : Bool := decide (off < 0x401000) || decide (0x532000 ≤ off) || !w.getLsbD 4

def calmB (s : State) : Bool :=
  decide (s.waits = []) && decide (s.snap.prot = []) && decide (s.hif.snoop = []) && decide (s.hif.biWait = []) && (s.clusters.all fun p => p.2.rot.session.isNone) &&
  (s.csr.all fun p => noWindow p.1 p.2) && (s.mem.bankq.all fun p => bankFree p.1 p.2) && decide (s.mem.parked = []) && s.mem.patBusy.isNone

theorem window_defaults : (upto 1280).all (fun ch => noWindow (Reg.memChStat ch) (csrDefault (Reg.memChStat ch)) &&
    decide (0x401000 ≤ Reg.memChStat ch) && decide (Reg.memChStat ch < 0x532000)) = true := by decide +kernel

theorem no_window (s : State) (h : s.csr.all (fun p => noWindow p.1 p.2) = true) (ch : Nat) (hc : ch < 1280) : s.bit (Reg.memChStat ch) 4 = false := by
  have hd := List.all_eq_true.mp window_defaults ch (by simpa [upto] using hc)
  simp only [Bool.and_eq_true, decide_eq_true_eq] at hd
  have hr : (s.raw (Reg.memChStat ch)).getLsbD 4 = false := by
    have := get_all csrDefault noWindow s.csr _ hd.1.1 h
    simpa [noWindow, State.raw, Nat.not_lt.mpr hd.1.2, Nat.not_le.mpr hd.2] using this
  have hk : (s.cur (Reg.memChStat ch)).getLsbD 4 = false := by
    unfold State.cur; split
    · exact hr
    · rw [BitVec.getLsbD_and, hr, Bool.false_and]
  have hm : (s.cur (Reg.memChStat ch)).toNat / 16 % 2 = 0 := by
    rw [BitVec.getLsbD, Nat.testBit_eq_decide_div_mod_eq] at hk
    simpa using hk
  simp [State.bit, State.fld, wfld, fld, Nat.shiftRight_eq_div_pow, hm]

theorem calm_of (s : State) (h : calmB s = true) : s.Calm := by
  simp only [calmB, Bool.and_eq_true, decide_eq_true_eq] at h
  obtain ⟨⟨⟨⟨⟨⟨⟨⟨h1, h2⟩, h3⟩, h4⟩, h5⟩, h6⟩, h7⟩, h8⟩, h9⟩ := h
  refine ⟨h1, h2, h3, h4, fun c => ?_, no_window s h6, fun b => ?_, h8, by simpa using h9⟩
  · simpa [State.cluAt] using get_all clusterReset (fun _ k => k.rot.session.isNone) s.clusters c rfl h5
  · simpa [bankFree, State.bankAt] using get_all bankReset bankFree s.mem.bankq b rfl h7

/-- No slot is being handed over where no cluster has a couch under way. -/
theorem no_handover (s : State) (h : s.clusters.all (fun p => p.2.couch.isNone) = true) (i : Nat) : s.handover i = false := by
  have hc : (s.cluAt (i / 12)).couch = none := by
    simpa [State.cluAt] using get_all clusterReset (fun _ k => k.couch.isNone) s.clusters (i / 12) rfl h
  simp [State.handover, hc]

/-- Bytes in the tiers, byte by byte. -/
theorem in_tiers (s : State) (a n : Nat) (h : (upto n).all (fun i => decide (s.locate none (a + i) = .tier (a + i))) = true) : s.InTiers a n := fun i hi => by
  simpa using List.all_eq_true.mp h i (by simpa [upto] using hi)

theorem no_errs (s : State) (h : s.mem.errs = []) : ∀ u, s.errAt u = 0 := fun u => by simp [State.errAt, h]; rfl

def beforeB (s : State) (bits : BitVec 256) (br : Option BrCtx) : Bool :=
  let f := (s.coreAt 0).arch.flow
  let w := (s.coreAt 0).work
  calmB s && decide (s.stateOf 0 = 1) && decide (s.allowedInt 0 = none) &&
  decide (f.br = br ∧ f.shadow = none ∧ f.resume = none ∧ f.ctlOnly = none ∧ f.exc = none ∧ f.deferred = [] ∧ f.str = none ∧ f.atCouch = false) &&
  decide (w.loads = [] ∧ w.vq = [] ∧ w.tq = []) && decide ((s.coreAt 0).caches.psLeaf f.pc = some bits) && parityOk bits.toNat

theorem before_of (s : State) (bits : BitVec 256) (br : Option BrCtx) (h : beforeB s bits br = true) : s.Before 0 bits br := by
  simp only [beforeB, Bool.and_eq_true, decide_eq_true_eq] at h
  exact ⟨by decide, calm_of s h.1.1.1.1.1.1, h.1.1.1.1.1.2, h.1.1.1.1.2, h.1.1.1.2, h.1.1.2, h.1.2, h.2⟩

/-- The first operation of a leaf. -/
def opOf (s : State) (bits : BitVec 256) : Op := (decodeLeaf (s.coreAt 0).arch.priv bits).ops.headD ⟨0, 0, 0, 0, 0, 0, 0⟩

def singleB (s : State) (bits : BitVec 256) : Bool :=
  let a := (s.coreAt 0).arch
  let l := decodeLeaf a.priv bits
  decide (l.ops = [opOf s bits]) && decide (l.halt = false) && decide (l.viols = []) && decide (a.placeViols a.priv a.flow.pc [opOf s bits] = [])

/-- The leaf stands before the core, with its one operation. -/
def stands (s : State) (bits : BitVec 256) (br : Option BrCtx) : Bool := beforeB s bits br && singleB s bits

theorem stands_of (s : State) (bits : BitVec 256) (br : Option BrCtx) (h : stands s bits br = true) : s.Before 0 bits br ∧ s.Single 0 bits (opOf s bits) := by
  simp only [stands, singleB, Bool.and_eq_true, decide_eq_true_eq] at h
  exact ⟨before_of s bits br h.1, ⟨h.2.1.1.1, h.2.1.1.2, h.2.1.2, h.2.2⟩⟩

/-- What each operation gives, shown by evaluation. -/
theorem alu_ok (s : State) (k : Ctx) (ops : List Op)
    (h : ops.all (fun o => match s.alu k o with | .ok _ fl => !(traps k.a.modeNow fl) | _ => false) = true) :
    ∀ o ∈ ops, ∃ v fl, s.alu k o = .ok v fl ∧ traps k.a.modeNow fl = false := by
  intro o ho
  have := List.all_eq_true.mp h o ho
  cases hx : s.alu k o with
  | ok v fl => exact ⟨v, fl, rfl, by simpa [hx] using this⟩
  | tag r => simp [hx] at this
  | addr => simp [hx] at this

/-! ### Leaves -/

/-- add s3, s1, s2 and sub s4, s1, s2 (class 0x1: rd [9:5], opcode [4:0]; ra [9:5] and rb [4:0] of the extension). -/
def addLeaf : BitVec 256 := leaf [op 1 (3 * 32 + 0), 1 * 32 + 2, op 1 (4 * 32 + 1), 1 * 32 + 2]

def addState : State := at0 addLeaf (withRegs [⟨7, 0⟩, ⟨0xFFFFFFFFFFFFFFFF, 0⟩])

theorem test_add_wraps : yields (.leafIssue ⟨0, [], 0⟩) addState (fun t => (t.coreAt 0).arch.reg 3 == ⟨6, 0⟩ && (t.coreAt 0).arch.reg 4 == ⟨8, 0⟩) = true := by
  decide +kernel

theorem witness_disturbed_leaf : (addState.disturb ⟨0, [], 0⟩).stateOf 0 = 1 := by decide +kernel

theorem witness_scalar_leaf :
    let s := addState
    s.Before 0 addLeaf none ∧ (decodeLeaf (s.ctx 0 addLeaf).priv addLeaf).viols = [] ∧ (decodeLeaf (s.ctx 0 addLeaf).priv addLeaf).halt = false ∧
    (∀ o ∈ (decodeLeaf (s.ctx 0 addLeaf).priv addLeaf).ops, 1 ≤ o.cls ∧ o.cls ≤ 3) ∧ (decodeLeaf (s.ctx 0 addLeaf).priv addLeaf).ops.length = 2 ∧
    ∀ o ∈ (decodeLeaf (s.ctx 0 addLeaf).priv addLeaf).ops, ∃ v fl, s.alu (s.ctx 0 addLeaf) o = .ok v fl ∧ traps (s.ctx 0 addLeaf).a.modeNow fl = false := by
  refine ⟨before_of _ _ _ ?_, ?_, ?_, ?_, ?_, alu_ok _ _ _ ?_⟩ <;> decide +kernel

/-- The same leaf as a delay leaf. -/
theorem witness_delay_leaf :
    (at0 addLeaf fun a => { (withRegs [⟨7, 0⟩, ⟨1, 0⟩] a) with flow := { a.flow with br := some ⟨8, some 20, emptyTagged⟩ } }).Before 0 addLeaf (some ⟨8, some 20, emptyTagged⟩) := by
  refine before_of _ _ _ ?_; decide +kernel

theorem witness_queue : State.reset.pending = [] ∧ (∀ c ∈ ({ State.reset with pending := [.p1] } : State).pending, c.wf = true) ∧ (Instr.p1).wf = true ∧
    (Instr.leafIssue ⟨1300, [], 0⟩).wf = false := by decide

theorem witness_integer_results :
    0x17 < 0x18 ∧ isInt 0 = true ∧ isInt 0xE = true ∧ (0x15 ≤ 0x15 ∧ isInt 1 = false) ∧ (0x14 < 0x15 ∧ isInt 0xF = false) ∧ isInt 2 = false ∧ (1 : Word) ≠ 0 := by decide

theorem test_division_corners : aluRR 0x0B 1 2 ⟨0x8000000000000000, 0⟩ ⟨0xFFFFFFFFFFFFFFFF, 0⟩ = .ok ⟨0x8000000000000000, 0⟩ 0 ∧
    aluRR 0x0E 1 2 ⟨7, 0⟩ ⟨0, 0xE⟩ = .ok ⟨7, 0⟩ 0 ∧ aluRR 0x0D 1 2 ⟨0xFFFFFFFFFFFFFFF9, 0⟩ ⟨2, 0⟩ = .ok ⟨0xFFFFFFFFFFFFFFFF, 0⟩ 0 := by decide +kernel

theorem witness_address_arithmetic : ((1 : Tag) = 1 ∨ (1 : Tag) = 5) ∧ ((5 : Tag) = 1 ∨ (5 : Tag) = 5) ∧ ((0 : Tag) = 0 ∨ (0 : Tag) = 0xE) ∧ (1 : Tag) ≠ 5 ∧
    ¬((2 : Tag) = 0 ∨ (2 : Tag) = 0xE) := by decide

theorem test_address_arithmetic : aluRR 0 1 2 ⟨0x100, 1⟩ ⟨8, 0⟩ = .ok ⟨0x108, 1⟩ 0 ∧ aluRR 1 1 2 ⟨0x100, 5⟩ ⟨0x108, 5⟩ = .ok ⟨0xFFFFFFFFFFFFFFF8, 0⟩ 0 ∧
    aluRR 2 1 2 ⟨0x107, 1⟩ ⟨0xFFFFFFFFFFFFFFF8, 0xE⟩ = .ok ⟨0x100, 1⟩ 0 ∧ aluRR 1 1 2 ⟨8, 0⟩ ⟨0x100, 1⟩ = .tag 2 := by decide +kernel

/-! #### Faults -/

def illLeaf : BitVec 256 := leaf [op 0xF 0]
def illState : State := at0 illLeaf id

theorem witness_violation : illState.Before 0 illLeaf none ∧
    firstViol ((decodeLeaf true illLeaf).viols ++ (illState.ctx 0 illLeaf).a.placeViols true 0 (decodeLeaf true illLeaf).ops) = some ⟨0, 2⟩ ∧
    ∀ o ∈ (decodeLeaf true illLeaf).ops, o.syl ≤ 0 → o.mayFail1 = false := by
  refine ⟨before_of _ _ _ ?_, ?_, ?_⟩ <;> decide +kernel

/-- vext s5, v2[s1] of a source with four elements. -/
def vextLeaf : BitVec 256 := leaf [op 6 (0x1F * 32 + 6 * 4), 3, 5 * 32 + 2, 1 * 32 + 16]
def vextState (n : Word) : State := at0 vextLeaf (withRegs [⟨n, 0⟩])

theorem witness_vext_fault : let s := vextState 4
    let o := opOf s vextLeaf
    stands s vextLeaf none = true ∧ o.cls = 6 ∧ o.opc = 0x1F ∧ o.vs = true ∧ isInt ((s.ctx 0 vextLeaf).r o.vb).tag = true ∧ o.vn ≤ ((s.ctx 0 vextLeaf).r o.vb).pay.toNat := by
  decide +kernel

/-- add s3, s1, s2 of a floating operand; then a division of zero by zero whose invalid result traps. -/
def oneAdd : BitVec 256 := leaf [op 1 (3 * 32 + 0), 1 * 32 + 2]
def tagState : State := at0 oneAdd (withRegs [⟨1, 2⟩, ⟨1, 0⟩])
def fdivLeaf : BitVec 256 := leaf [op 3 (3 * 32 + 0x13), 1 * 32 + 2]
def trapState : State := at0 fdivLeaf fun a => let a := withRegs [⟨0, 2⟩, ⟨0, 2⟩] a; { a with spr := { a.spr with mode := 0xF8 } }

theorem witness_tag_fault : stands tagState oneAdd none = true ∧ tagState.alu (tagState.ctx 0 oneAdd) (opOf tagState oneAdd) = .tag 1 ∧
    1 ≤ (opOf tagState oneAdd).cls ∧ (opOf tagState oneAdd).cls ≤ 3 := by decide +kernel

theorem witness_arithmetic_trap : stands trapState fdivLeaf none = true ∧
    (match trapState.alu (trapState.ctx 0 fdivLeaf) (opOf trapState fdivLeaf) with
     | .ok _ fl => traps (trapState.ctx 0 fdivLeaf).a.modeNow fl
     | _ => false) = true := by decide +kernel

theorem test_division_traps : yields (.leafIssue ⟨0, [], 0⟩) trapState (fun t => (t.coreAt 0).arch.flow.exc == some (leafExc 0x0B 0 0 0 0)) = true := by decide +kernel

def rfeLeaf : BitVec 256 := leaf [op 4 (0x0C * 32)]
def haltLeaf : BitVec 256 := BitVec.ofNat 256 (0x3FFF * 16 + 3 * 4)
def user (a : Arch) : Arch := { a with spr := { a.spr with psr := 0 } }
def psinvLeaf : BitVec 256 := leaf [op 0xB (5 * 32)]
def mfsrLeaf (n r : Nat) : BitVec 256 := leaf [op 0xB r, n]
def cmoLeaf (code r : Nat) : BitVec 256 := leaf [op 0xB (4 * 32 + r), code]
def mtsrLeaf (n r : Nat) : BitVec 256 := leaf [op 0xB (32 + r), n]

theorem witness_privilege : stands (at0 rfeLeaf user) rfeLeaf none = true ∧ stands (at0 psinvLeaf user) psinvLeaf none = true ∧
    stands (at0 (mtsrLeaf 6 1) user) (mtsrLeaf 6 1) none = true ∧ stands (at0 (mfsrLeaf 0 1) user) (mfsrLeaf 0 1) none = true ∧
    beforeB (at0 haltLeaf user) haltLeaf none = true ∧ (decodeLeaf false haltLeaf).halt = true ∧ (decodeLeaf false haltLeaf).viols = [] ∧
    (decodeLeaf false haltLeaf).ops = [] ∧ ((at0 haltLeaf user).ctx 0 haltLeaf).priv = false ∧ stands (at0 (cmoLeaf 8 1) user) (cmoLeaf 8 1) none = true := by decide +kernel

/-! #### Branches, block repeats -/

def brLeaf (opc r disp : Nat) : BitVec 256 := leaf [op 4 (opc * 32 + r), disp / 1024, disp % 1024]
def jumpLeaf (opc r : Nat) : BitVec 256 := leaf [op 4 (opc * 32 + r)]
def condRegs : Arch → Arch := withRegs [⟨1, 6⟩, ⟨0x7FFFFFFFFFF, 5⟩]

theorem witness_branches : stands (at0 (brLeaf 0 0 5) condRegs) (brLeaf 0 0 5) none = true ∧ stands (at0 (brLeaf 1 1 (2 ^ 19)) condRegs) (brLeaf 1 1 (2 ^ 19)) none = true ∧
    stands (at0 (brLeaf 2 1 7) condRegs) (brLeaf 2 1 7) none = true ∧ stands (at0 (brLeaf 3 0 9) condRegs) (brLeaf 3 0 9) none = true ∧
    stands (at0 (jumpLeaf 4 2) condRegs) (jumpLeaf 4 2) none = true ∧ stands (at0 (jumpLeaf 5 2) condRegs) (jumpLeaf 5 2) none = true ∧
    ((at0 (brLeaf 1 1 0) condRegs).ctx 0 0).r 1 = ⟨1, 6⟩ ∧ ((at0 (jumpLeaf 4 2) condRegs).ctx 0 0).r 2 = ⟨0x7FFFFFFFFFF, 5⟩ := by decide +kernel

theorem test_branch_links : yields (.leafIssue ⟨0, [], 0⟩) (at0 (jumpLeaf 5 2) condRegs) (fun t => (t.coreAt 0).arch.reg 30 == ⟨2, 5⟩ && (t.coreAt 0).arch.flow.pc == 1) = true := by
  decide +kernel

/-- rpt0 and rpt1 take their count from s1, rpti0 and rpti1 have it in the leaf. -/
def rptLeaf (opc r e n : Nat) : BitVec 256 := leaf ([op 4 (opc * 32 + r), e] ++ if opc ≤ 7 then [] else [n])
def rptRegs (a : Arch) : Arch := withRegs [⟨0x1FFFFFFFF, 0xE⟩] a

theorem witness_rpt : [6, 7].all (fun opc => stands (at0 (rptLeaf opc 1 1023 0) rptRegs) (rptLeaf opc 1 1023 0) none) = true ∧
    [8, 9].all (fun opc => stands (at0 (rptLeaf opc 0 0 0) id) (rptLeaf opc 0 0 0) none) = true ∧ isInt (((at0 (rptLeaf 6 1 0 0) rptRegs).ctx 0 (rptLeaf 6 1 0 0)).r 1).tag = true := by
  decide +kernel

theorem test_rpt_count_is_cut : yields (.leafIssue ⟨0, [], 0⟩) (at0 (rptLeaf 6 1 1023 0) rptRegs) (fun t => (t.coreAt 0).arch.loop0 == ⟨⟨1, 5⟩, ⟨1024, 5⟩, true, 0xFFFFFFFF⟩) = true := by
  decide +kernel

/-- Block repeats that both end at leaf 9. -/
def loops (n m : Nat) : Arch := { Arch.reset with loop0 := ⟨⟨3, 5⟩, ⟨9, 5⟩, true, n⟩, loop1 := ⟨⟨6, 5⟩, ⟨9, 5⟩, true, m⟩ }

theorem test_block_repeat : ((loops 2 2).nextLeaf true 9 none).flow.pc = 6 ∧ ((loops 2 1).nextLeaf true 9 none).flow.pc = 3 ∧
    ((loops 1 1).nextLeaf true 9 none).flow.pc = 10 ∧ ((loops 1 1).nextLeaf true 9 none).loop0.count = 0 := by decide +kernel

/-! #### Stores, loads, special registers -/

/-- A memory operation of opcode `opc` on register 2, with base register 1 and the displacement field `d`. -/
def memLeaf (opc d : Nat) : BitVec 256 := leaf [op 5 (2 * 32 + opc), 1 * 32 + d / 1024, d % 1024]
def memAt (opc : Nat) (base : Nat) (v : Tagged) (d : Nat := 0) : State := at0 (memLeaf opc d) (withRegs [⟨BitVec.ofNat 64 base, 1⟩, v])

/-- The hypotheses of a store to, or a load from, the core's own LDM. -/
def ldmAccess (s : State) (bits : BitVec 256) (need : Need) (off : Nat) : Bool :=
  let k := s.ctx 0 bits
  let o := opOf s bits
  stands s bits none && decide ((k.r (hi5 o.e1)).tag = 1) && decide (s.locate (some 0) (k.memAddr o) = .ldm 0 off) && decide (k.memAddr o % memSize o.opc = 0) &&
    decide (s.rangeKind 0 need (k.memAddr o) = none) && decide (s.errAt (physBase + off / 8 * 8) = 0) && decide (s.mem.errs = [])

theorem witness_stores : ldmAccess (memAt 0x10 (ownBase + 2 ^ 18 - 1) ⟨0x1FF, 0xE⟩) (memLeaf 0x10 0) .write (2 ^ 18 - 1) = true ∧
    ldmAccess (memAt 0x12 physBase ⟨5, 3⟩) (memLeaf 0x12 0) .write 0 = true ∧ ldmAccess (memAt 0x13 logBase ⟨5, 1⟩) (memLeaf 0x13 0) .write 0 = true ∧
    ldmAccess (memAt 0x13 (ownBase + 16) ⟨5, 4⟩ (2 ^ 15 - 1)) (memLeaf 0x13 (2 ^ 15 - 1)) .write 8 = true ∧
    isStore (opOf (memAt 0x10 ownBase ⟨0, 0⟩) (memLeaf 0x10 0)) = true ∧ isStore (opOf (memAt 0x13 ownBase ⟨0, 0⟩) (memLeaf 0x13 0)) = true := by decide +kernel

/-- The hypotheses of a store to, a load from or an atomic on the tiers; another tag of the base is a fault. -/
def tierAccess (s : State) (bits : BitVec 256) (need : Need) : Bool :=
  let k := s.ctx 0 bits
  let o := opOf s bits
  stands s bits none && decide ((k.r (hi5 o.e1)).tag = 1) && decide (k.memAddr o % memSize o.opc = 0) && decide (s.rangeKind 0 need (k.memAddr o) = none) &&
    !(inCsr (k.memAddr o)) && decide (s.mem.errs = []) && decide ((s.coreAt 0).caches.side = []) &&
    (upto (memSize o.opc)).all fun i => decide (s.locate none (k.memAddr o + i) = .tier (k.memAddr o + i))

theorem witness_tier_stores : tierAccess (memAt 0x13 0x1000 ⟨5, 1⟩) (memLeaf 0x13 0) .write = true ∧ tierAccess (memAt 0x11 (feltBase + 2) ⟨5, 0⟩) (memLeaf 0x11 0) .write = true := by
  decide +kernel

def badBase (opc : Nat) : State := at0 (memLeaf opc 0) (withRegs [⟨0x1000, 2⟩, ⟨0, 0⟩])

theorem witness_base_tag : [0, 0x13, 0x18].all (fun opc => stands (badBase opc) (memLeaf opc 0) none && decide (((badBase opc).ctx 0 (memLeaf opc 0)).r (hi5 (opOf (badBase opc) (memLeaf opc 0)).e1) = ⟨0x1000, 2⟩) &&
    decide ((badBase opc).fillsOf 0 < 64)) = true := by decide +kernel

/-- The LDM word at offset 8 holds bytes F0 to FF with tag 2. -/
def loadAt (opc base : Nat) : State := (memAt opc base ⟨0, 0⟩).setLdmWord 0 1 ⟨0xFFFEFDFCFBFAF9F0, 2⟩

theorem witness_loads : ldmAccess (loadAt 0 (ownBase + 8)) (memLeaf 0 0) .read 8 = true ∧ ldmAccess (loadAt 5 (physBase + 12)) (memLeaf 5 0) .read 12 = true ∧
    ldmAccess (loadAt 6 (ownBase + 8)) (memLeaf 6 0) .read 8 = true ∧ ldmAccess (loadAt 7 (ownBase + 8)) (memLeaf 7 0) .read 8 = true ∧
    ((loadAt 7 (ownBase + 8)).ldmWord 0 1).tag = 2 ∧ ownLdm 0 (ownBase + 2 ^ 18 - 1) = true ∧ ownLdm 0 (physBase + 2 ^ 18 - 1) = true ∧
    isLoad (opOf (loadAt 9 ownBase) (memLeaf 9 0)) = true := by decide +kernel

/-- An atomic of opcode `opc` on the word at `base`, with s3 as its operand and s4 as the value to compare; the old word comes to s2. -/
def amoLeaf (opc : Nat) : BitVec 256 := leaf [op 5 (2 * 32 + opc), 1 * 32 + 3, if opc = 0x1D then 4 * 32 else 0]
def amoAt (opc base : Nat) : State :=
  (at0 (amoLeaf opc) (withRegs [⟨BitVec.ofNat 64 base, 1⟩, ⟨0, 0⟩, ⟨7, 0⟩, ⟨5, 0xE⟩])).setLdmWord 0 1 ⟨5, 0xE⟩

theorem witness_atomics : [0x18, 0x1D, 0x1F].all (fun opc => ldmAccess (amoAt opc (ownBase + 8)) (amoLeaf opc) .atomic 8 && isAmo (opOf (amoAt opc ownBase) (amoLeaf opc)) &&
    isInt ((amoAt opc (ownBase + 8)).ldmWord 0 1).tag) = true ∧ isInt (((amoAt 0x1D (ownBase + 8)).ctx 0 (amoLeaf 0x1D)).r (hi5 (opOf (amoAt 0x1D ownBase) (amoLeaf 0x1D)).e2)).tag = true := by
  decide +kernel

theorem test_compare_and_swap : yields (.leafIssue ⟨0, [], 0⟩) (amoAt 0x1D (ownBase + 8)) (fun t => t.ldmWord 0 1 == ⟨7, 0⟩ && (t.coreAt 0).arch.reg 2 == ⟨5, 0⟩) = true := by decide +kernel

theorem test_load_extends : yields (.leafIssue ⟨0, [], 0⟩) (loadAt 0 (ownBase + 8)) (fun t => (t.coreAt 0).arch.reg 2 == ⟨0xFFFFFFFFFFFFFFF0, 0⟩) = true ∧
    yields (.leafIssue ⟨0, [], 0⟩) (loadAt 5 (physBase + 12)) (fun t => (t.coreAt 0).arch.reg 2 == ⟨0xFFFEFDFC, 0⟩) = true := by decide +kernel

theorem witness_special_registers :
    [0, 1, 2, 3, 4, 5, 6, 7, 8, 9, 0x10, 0x11, 0x20, 0x27, 0x30, 0x31, 0x32, 0x34, 0x36, 0x40, 0x47, 0x3FF].all (fun n =>
      stands (at0 (mtsrLeaf n 1) (withRegs [⟨0x55, 1⟩])) (mtsrLeaf n 1) none && stands (at0 (mfsrLeaf n 1) id) (mfsrLeaf n 1) none) = true ∧
    [7, 8, 0x11, 0x27, 0x36, 0x47, 0x81].all (fun n =>
      stands (at0 (mtsrLeaf n 1) fun a => user (withRegs [⟨0x55, 1⟩] a)) (mtsrLeaf n 1) none && stands (at0 (mfsrLeaf n 1) user) (mfsrLeaf n 1) none) = true ∧
    ((at0 (mfsrLeaf 0 1) id).coreAt 0).arch.priv = true := by decide +kernel

def svcLeaf (opc code : Nat) : BitVec 256 := leaf [op 4 (opc * 32), code]

theorem witness_traps : stands (at0 (svcLeaf 0x0A 1023) id) (svcLeaf 0x0A 1023) none = true ∧ stands (at0 (svcLeaf 0x0B 1) id) (svcLeaf 0x0B 1) none = true ∧
    beforeB (at0 haltLeaf id) haltLeaf none = true ∧ (at0 haltLeaf id).groupStop = [] ∧ ((at0 haltLeaf id).cluAt 0).couch = none := by decide +kernel

/-- A copy of 8 bytes from reel address 0x1000 to 0x2000. -/
def copyX : Xfer := ⟨1, 0, 0, 0, 7, false, false, 0x1000, 0x2000, 8, 1, 0, 0, 0, 0, 0, [], true, false⟩

/-- fence, couchpt and psinv, with a transfer of the logical core under way or none. -/
def sysLeaf (opc e : Nat) : BitVec 256 := leaf ([op 0xB (opc * 32)] ++ if opc = 2 then [e] else [])

theorem witness_system : [0, 1, 2, 3].all (fun e => stands (at0 (sysLeaf 2 e) user) (sysLeaf 2 e) none) = true ∧ stands (at0 (sysLeaf 3 0) user) (sysLeaf 3 0) none = true ∧
    stands (at0 (sysLeaf 5 0) id) (sysLeaf 5 0) none = true ∧ (at0 (sysLeaf 2 3) user).transfersOf 0 = false ∧
    ((at0 (sysLeaf 2 3) user).modCore 0 fun k => { k with work := { k.work with hbq := [copyX] } }).transfersOf 0 = true ∧
    stands ((at0 (sysLeaf 2 3) user).modCore 0 fun k => { k with work := { k.work with hbq := [copyX] } }) (sysLeaf 2 3) none = true := by decide +kernel

/-- cmo of a line in the tiers, in host memory under a window, by set and way, and of a leaf. -/
theorem witness_cmo : [0, 1, 2, 3, 4].all (fun c => stands (at0 (cmoLeaf c 1) (withRegs [⟨0x1000, 1⟩])) (cmoLeaf c 1) none) = true ∧
    [8, 9, 10, 11].all (fun c => stands (at0 (cmoLeaf c 1) (withRegs [⟨0x11, 0⟩])) (cmoLeaf c 1) none) = true ∧
    stands (at0 (cmoLeaf 12 1) (withRegs [⟨4, 5⟩])) (cmoLeaf 12 1) none = true ∧ (at0 (cmoLeaf 1 1) (withRegs [⟨0x1000, 1⟩])).rangeKind 0 .read 0x1000 = none ∧
    (at0 (cmoLeaf 1 1) (withRegs [⟨0x1000, 1⟩])).cacheKind 0 0x1000 ≠ 0 ∧ inCsr 0x1000 = false := by decide +kernel

/-! ### Exceptions -/

/-- Position 0 with a supervisor stack at own LDM 0x100, a handler table at 0x200 whose entries name leaf 0, and the exception `e` before it. -/
def excAt (e : Exc) (psr : Word) : State :=
  let s := at0 addLeaf fun a => { a with
    spr := { a.spr with ksp := ⟨BitVec.ofNat 64 (ownBase + 0x100), 1⟩, evba := ⟨BitVec.ofNat 64 (ownBase + 0x200), 1⟩, psr := psr }, flow := { a.flow with exc := some e } }
  s.setLdmWord 0 (0x40 + e.code) ⟨0, 5⟩

def illExc : Exc := leafExc 1 2 0 0 0

theorem witness_exception_entry :
    let s := excAt illExc 1
    let a := (s.coreAt 0).arch
    s.stateOf 0 = 1 ∧ s.chosen 0 = some illExc ∧ illExc.deferred = false ∧ illExc.hbk = [] ∧ wfld a.spr.psr 2 2 = 0 ∧ a.spr.ksp.pay.toNat % 64 = 0 ∧
    s.locate (some 0) (a.spr.ksp.pay.toNat - 64) = .ldm 0 0xC0 ∧ ownLdm 0 (a.spr.ksp.pay.toNat - 64) = true ∧
    s.checkPage (some 0) (some 0) .write (a.spr.ksp.pay.toNat - 64) = none ∧ s.handler 0 1 = some 0 ∧ (s.coreAt 0).caches.psLeaf 0 = some addLeaf ∧
    parityOk addLeaf.toNat = true := by decide +kernel

theorem witness_exception_calm : (excAt illExc 1).Calm := by refine calm_of _ ?_; decide +kernel

theorem test_exception_entry : yields (.exceptionEntry 0 ⟨0, 0⟩) (excAt illExc 1) (fun t => t.ldmWord 0 0x18 == ⟨0, 5⟩ && t.raw (Reg.coreIllegal 0) == 1) = true := by
  decide +kernel

theorem witness_frame : let a := { Arch.reset with flow := { Flow.reset with shadow := some ⟨2, 2, 5, 6⟩, br := some ⟨3, none, emptyTagged⟩ } }
    a.flow.ctlOnly = none ∧ 7 < 8 ∧ 63 < 64 ∧ 31 < 32 ∧ 255 < 256 ∧ 1023 < 1024 ∧ ∀ h, a.flow.shadow = some h → h.cnt < 3 ∧ h.reg < 3 := by
  refine ⟨rfl, ?_, ?_, ?_, ?_, ?_, fun h hh => ?_⟩ <;> first | decide | (cases hh; decide)

/-- Before rfe with a frame at own LDM 0x100 that holds the EPSR word `q`. -/
def rfeAt (q : Word) : State :=
  let s := at0 rfeLeaf fun a => { a with spr := { a.spr with ksp := ⟨BitVec.ofNat 64 (ownBase + 0x100), 1⟩ } }
  ((((s.setLdmWord 0 0x20 ⟨9, 5⟩).setLdmWord 0 0x21 ⟨q, 0⟩).setLdmWord 0 0x24 ⟨0x11, 0⟩).setLdmWord 0 0x25 ⟨0x32, 0⟩).setLdmWord 0 0x26 ⟨1, 6⟩

theorem witness_rfe : [0x3F03, 0x300000, 0xC00000, 0x50000, 0x60000, 0xA0000].all (fun q =>
    stands (rfeAt q) rfeLeaf none && decide ((rfeAt q).rfeFault 0 0 = none)) = true ∧ ((rfeAt 0).ctx 0 rfeLeaf).priv = true ∧
    wfld ((rfeAt 0).ctx 0 rfeLeaf).a.spr.psr 2 2 = 0 := by decide +kernel

/-- Before rfe in the double-fault handler, with the save area at own LDM 0x400. -/
def rfeSaved : State :=
  let s := at0 rfeLeaf fun a => { a with spr := { a.spr with psr := 5, dfsa := ⟨BitVec.ofNat 64 (ownBase + 0x400), 1⟩ } }
  (((s.setLdmWord 0 0x80 ⟨9, 5⟩).setLdmWord 0 0x81 ⟨3, 0⟩).setLdmWord 0 0x8C ⟨0x77, 1⟩).setLdmWord 0 0x93 ⟨0x88, 2⟩

theorem witness_rfe_of_double_fault : stands rfeSaved rfeLeaf none = true ∧ rfeSaved.rfeFault 0 0 = none ∧ (rfeSaved.ctx 0 rfeLeaf).priv = true ∧
    wfld (rfeSaved.ctx 0 rfeLeaf).a.spr.psr 2 2 = 1 ∧ rfeSaved.mem.errs = [] := by decide +kernel

theorem test_rfe_restores_saved : yields (.leafIssue ⟨0, [], 0⟩) rfeSaved (fun t => (t.coreAt 0).arch.reg 0 == ⟨0x77, 1⟩ && (t.coreAt 0).arch.reg 7 == ⟨0x88, 2⟩ && (t.coreAt 0).arch.flow.pc == 9) = true := by
  decide +kernel

theorem witness_third_fault :
    let s := excAt illExc 5
    s.stateOf 0 = 1 ∧ Sparse.wf coreReset s.cores = true ∧ (s.coreAt 0).work = Work.reset ∧ s.chosen 0 = some illExc ∧ wfld (s.coreAt 0).arch.spr.psr 2 2 = 1 ∧
    s.lcidOf 0 / 12 = 0 ∧ (s.cluAt 0).couch = none ∧ calmB s = true := by decide +kernel

/-- Slot 0 of cluster 0 waits, position 12 is the spare. -/
def takeoverState : State := (up.makeSpare 12).modClu 0 fun k => { k with takeover := [(0, 3, 0), (11, 4, 5)] }

theorem witness_takeover : takeoverState.waits = [] ∧ (takeoverState.cluAt 0).takeover = [(0, 3, 0), (11, 4, 5)] ∧ takeoverState.spareOf 0 = some 12 ∧
    (takeoverState.coreAt 12).work.hbq = [] ∧ takeoverState.begunOf 0 = false ∧ takeoverState.fab.recvWait = [] ∧ Sparse.wf coreReset takeoverState.cores = true := by decide +kernel

/-- Slot 11 of cluster 99 at position 1299. -/
def lastSlot : State := (up.mapSlot 1199 (some 1299)).setStateOf 1299 1

theorem witness_timer : lastSlot.waits = [] ∧ 1299 / 13 = 99 ∧ lastSlot.lcidOf 1299 = 12 * 99 + 11 := by decide +kernel

/-! ### Program store, loads, strings, headbox -/

def fillState : State := ((at0 addLeaf id).setCaches 0 { Caches.reset with psFills := [⟨1, false, some 4, none⟩] }).setBytes none 0 0x80 (leBytes 32 addLeaf.toNat)

theorem witness_fill : (fillState.coreAt 0).caches.psFills = [⟨1, false, some 4, none⟩] ∧ (fillState.coreAt 0).caches.psFind 1 = none ∧
    (∀ i, i < 4 → fillState.checkPage (some 0) (some 0) .fetch (32 * (4 * 1 + i)) = none) ∧ fillState.mem.errs = [] ∧ calmB fillState = true := by decide +kernel

def outLoad (reg addr size : Nat) (amo bad : Bool) : OutLoad :=
  { reg := reg, val := ⟨9, 0⟩, leaf := 3, syl := 0, addr := addr, size := size, bad := bad, fill := true, amo := amo, miss := true, mem := true, req := none }

def loadState : State := (at0 addLeaf id).setWork 0 { Work.reset with loads := [outLoad 5 0x1000 8 false false, outLoad 32 0x2000 8 true false, outLoad 6 0x3000 4 true true] }

theorem witness_load_return : loadState.mem.errs = [] ∧ loadState.hif.linkUp = true ∧ calmB loadState = true ∧
    (loadState.coreAt 0).work.loads[0]? = some (outLoad 5 0x1000 8 false false) ∧ (loadState.coreAt 0).work.loads[1]? = some (outLoad 32 0x2000 8 true false) ∧
    (loadState.coreAt 0).work.loads[2]? = some (outLoad 6 0x3000 4 true true) ∧
    [0x1000, 0x2000, 0x3000].all (fun a => decide (loadState.locate (some 0) a = .tier a) && !loadState.held (some 0) a) = true ∧ loadState.InTiers 0x2000 8 := by
  refine ⟨?_, ?_, ?_, ?_, ?_, ?_, ?_, in_tiers _ _ _ ?_⟩ <;> decide +kernel

/-- A load whose request waits in the replay queue of bank 3. -/
def replayState : State :=
  { (loadState.setWork 0 { Work.reset with loads := [{ outLoad 5 0x1000 8 false false with req := some (3, 7) }] }) with
    mem := { loadState.mem with bankq := [(3, { bankReset 3 with waiting := [(0, 7)] })] } }

theorem witness_replay : replayState.waits = [] ∧ replayState.replaying (some (3, 7)) = true ∧
    (replayState.coreAt 0).work.loads[0]? = some { outLoad 5 0x1000 8 false false with req := some (3, 7) } := by decide +kernel

/-- An atomic whose data cannot be corrected leaves its word as it was before. -/
theorem test_atomic_undone : yields (.loadReturn 0 1 (.unit .uncorrectable)) loadState (fun t => t.num none 0x2000 8 == 9 && (t.coreAt 0).arch.reg 32 == emptyTagged) = true := by
  decide +kernel

/-- A string operation with rt at own LDM 0x130 in s1, rs in s2 and `n` bytes to go in s3. -/
def strAt (o : Nat) (rs : Tagged) (n : Nat) : State :=
  (at0 addLeaf fun a => let a := withRegs [⟨BitVec.ofNat 64 (ownBase + 0x130), 1⟩, rs, ⟨BitVec.ofNat 64 n, 0⟩] a
    { a with flow := { a.flow with str := some ⟨o, 1, 2, 3, 0⟩ } }).setLdmWord 0 0x27 ⟨0x1122334455667788, 0⟩

def strReady (s : State) : Bool :=
  decide (s.stateOf 0 = 1) && decide (s.mem.errs = []) && decide ((s.coreAt 0).arch.flow.exc = none) && decide ((s.coreAt 0).arch.flow.deferred = []) &&
  decide (s.allowedInt 0 = none) && decide (s.stepFaults 0 ((s.coreAt 0).arch.flow.str.getD ⟨0, 0, 0, 0, 0⟩) = []) && calmB s

theorem witness_strings : strReady (strAt 0x0C ⟨BitVec.ofNat 64 (ownBase + 0x140), 1⟩ 16) = true ∧ strReady (strAt 0x0D ⟨0x5A, 0⟩ 100) = true ∧ strReady (strAt 0x0E ⟨0x44, 0⟩ 16) = true ∧
    (∀ i, i < 16 → (strAt 0x0C ⟨BitVec.ofNat 64 (ownBase + 0x140), 1⟩ 16).locate (some 0) (ownBase + 0x130 + i) = .ldm 0 (0x130 + i)) ∧
    (∀ i, i < 16 → (strAt 0x0C ⟨BitVec.ofNat 64 (ownBase + 0x140), 1⟩ 16).locate (some 0) (ownBase + 0x140 + i) = .ldm 0 (0x140 + i)) := by decide +kernel

theorem test_scan_stops : yields (.stringStep 0) (strAt 0x0E ⟨0x44, 0⟩ 16) (fun t => (t.coreAt 0).arch.reg 1 == ⟨BitVec.ofNat 64 (ownBase + 0x13C), 1⟩ && (t.coreAt 0).arch.reg 3 == ⟨4, 0⟩) = true := by
  decide +kernel

/-- The copy under way, and its bytes. -/
def copyState : State := ((at0 addLeaf id).setWork 0 { Work.reset with hbq := [copyX] }).setBytes none 0 0x1000 [1, 2, 3, 4, 5, 6, 7, 8]

theorem witness_copy_handover : ∀ i, copyState.handover i = false := no_handover _ (by decide +kernel)

theorem witness_copy : calmB copyState = true ∧ copyState.mem.errs = [] ∧ copyState.hif.linkUp = true ∧ (copyState.coreAt 0).work.hbq[0]? = some copyX ∧
    copyState.xferFor 1 = some (0, copyX) ∧ Sparse.wf coreReset copyState.cores = true ∧ copyState.posOf 0 = some 0 ∧
    (∀ i, i < 8 → copyState.locate none (0x1000 + i) = .tier (0x1000 + i)) ∧ (∀ i, i < 8 → copyState.locate none (0x2000 + i) = .tier (0x2000 + i)) := by decide +kernel

/-- A copy that overlaps itself: each byte is its source byte as it stood before. -/
theorem test_copy_overlap : yields (.headboxTransferComplete 0 0)
    (((at0 addLeaf id).setWork 0 { Work.reset with hbq := [{ copyX with dst := 0x1002 }] }).setBytes none 0 0x1000 [1, 2, 3, 4, 5, 6, 7, 8])
    (fun t => (upto 10).map (fun i => t.byte none (0x1000 + i)) == [1, 2, 1, 2, 3, 4, 5, 6, 7, 8]) = true := by decide +kernel

/-! ### Vector, tile and matrix operations -/

/-- vadd of `n` elements of type `et` from v2 and v3 into v1, by the number `op`. -/
def vjobAt (op et n : Nat) : VJob :=
  { leaf := 0, syl := 0, seq := 1, mem := false, op := op, et := et, n := n, vd := 1, va := 2, vb := 3, vc := 4, s := false, me := true, m := 2, sb := emptyTagged, sc := emptyTagged
    mode := 0, seed := 0, step := 0, start := 1, cut := n, alt := none }

def vecArch (a : Arch) : Arch := { a with vregs := [(2, 0xFFFF7FFF12345678), (3, 0x00020001F00F1111), (4, 0x3), (31, 5)], mregs := [(2, 0xB)] }
def vecState (op et n : Nat) : State := (at0 addLeaf vecArch).setWork 0 { Work.reset with vq := [vjobAt op et n] }

theorem witness_vector : ((vecState 0 6 4).coreAt 0).work.vq = [vjobAt 0 6 4] ∧ (vjobAt 0 6 4).whole = false ∧ (vjobAt 0 6 4).maskDst = false ∧ (vjobAt 0 6 4).ratio = 1 ∧
    (vjobAt 0 6 4).dsz ∈ [8, 16, 32, 64] ∧ (vjobAt 0 6 4).start < 4 ∧ 4 * (vjobAt 0 6 4).dsz ≤ 4096 * 31 ∧ (vecState 0 6 4).waits = [] := by decide +kernel

theorem witness_vector_integer : (vjobAt 0x0D 7 4).mem = false ∧ 4 ≤ (vjobAt 0x0D 7 4).et ∧ (vjobAt 0x0D 7 4).et < 8 ∧ (vjobAt 0x0D 4 4).et = 4 ∧ (vjobAt 0x0D 7 4).s = false := by decide

/-- A dot product of INT8 elements into INT32, a compare of INT16 elements, and the whole operations: mpop, mfirst, vext, vredsum, vredmm, vcompress, vexpand. -/
theorem witness_vector_forms : (vjobAt 0x16 7 8).ratio = 4 ∧ (vjobAt 0x16 7 8).dsz = 32 ∧ cdiv 8 4 * 32 ≤ 4096 * (32 - 1) ∧ (vjobAt 0x0F 6 4).maskDst = true ∧
    ({ vjobAt 0x1E 0 4 with vb := 0 }).maskDst = true ∧ [0x18, 0x19, 0x1A, 0x1B, 0x1F].all (fun o => (vjobAt o 6 4).whole && decide ((vjobAt o 6 4).sz ∈ [8, 16, 32, 64])) = true ∧
    [5, 6].all (fun b => ({ vjobAt 0x1E 0 4 with vb := b }).whole && ({ vjobAt 0x1E 0 4 with vb := b }).scalarDst) = true ∧ (vjobAt 0x18 6 4).scalarDst = false ∧ (vjobAt 0x1F 6 4).scalarDst = true ∧
    ((upto 4).filter fun i => !(vjobAt 0x19 6 4).me || ((vecState 0x19 6 4).coreAt 0).arch.mBit 2 i) ≠ [] ∧
    [0x0F, 0x16, 0x18, 0x1A, 0x1F].all (fun o => decide (((vecState o 6 4).coreAt 0).work.vq = [vjobAt o 6 4])) = true := by decide +kernel

theorem test_vector_sum : yields (.vectorOpComplete 0 none) (vecState 0x18 6 4) (fun t => (t.coreAt 0).arch.vEl 1 16 0 == (0x5678 + 0x1234 + 0xFFFF) % 65536) = true := by decide +kernel

/-- A vector memory operation with base `rb` and stride `rs`. -/
def vmemJob (op et n rb : Nat) (rs : Word) : VJob := { vjobAt op et n with mem := true, start := 0, me := decide (op ≠ 3 ∧ op ≠ 7), sb := ⟨rs, 0⟩, sc := ⟨BitVec.ofNat 64 rb, 1⟩ }
def vmemState (op et n rb : Nat) (rs : Word) : State :=
  ((at0 addLeaf vecArch).setWork 0 { Work.reset with vq := [vmemJob op et n rb rs] }).putBit (Reg.l2Ctrl 0) 0 false

/-- The hypotheses on a vector memory operation; the elements of a store lie apart. -/
def vmemGood (op et n rb : Nat) (rs : Word) : Bool :=
  let s := vmemState op et n rb rs
  let j := vmemJob op et n rb rs
  let a := (s.coreAt 0).arch
  calmB s && decide (s.mem.errs = []) && !(s.bit (Reg.l2Ctrl 0) 0) && decide ((s.coreAt 0).work.misses < 16) && decide ((s.coreAt 0).work.vq = [j]) && decide (j.alt = none) &&
  decide (j.cut = n) && decide (j.sz ∈ [8, 16, 32, 64]) &&
  (upto n).all fun i => (upto j.bytes).all fun b => match s.locate (some 0) (j.addr a i + b) with
    | .ldm p _ => p == 0
    | .tier _ => true
    | _ => false

theorem witness_vector_memory : vmemGood 0 6 8 (ownBase + 0x100) 0 = true ∧ vmemGood 1 5 4 0x1000 0x40 = true ∧ vmemGood 3 0 12 0x1001 0 = true ∧ vmemGood 4 7 8 (feltBase + 3) 0 = true ∧
    vmemGood 5 6 4 (ownBase + 0x100) (wordOfInt (-8)) = true ∧ vmemGood 7 0 12 (ownBase + 0x105) 0 = true ∧
    (upto 4).all (fun i => decide ((vmemJob 5 6 4 (ownBase + 0x100) (wordOfInt (-8))).addr Arch.reset i = ownBase + 0x100 - 8 * i)) = true := by decide +kernel

theorem test_vector_store_mask : yields (.vectorOpComplete 0 none) (vmemState 5 6 4 (ownBase + 0x100) (wordOfInt (-8))) (fun t =>
    t.num (some 0) (ownBase + 0x100) 2 == 0 && t.num (some 0) (ownBase + 0xF0) 2 == 0) = true := by decide +kernel

theorem test_vector_add : yields (.vectorOpComplete 0 none) (vecState 0 6 4) (fun t => (t.coreAt 0).arch.vEl 1 16 1 == 0x0243 && (t.coreAt 0).arch.vEl 1 16 2 == 0 &&
    (t.coreAt 0).arch.vEl 1 16 3 == 1) = true := by decide +kernel

def tjobAt (cls op : Nat) : TJob :=
  { leaf := 3, syl := 0, seq := 1, cls := cls, op := op, t := 1, tw := 2, t1 := 5, mf := 3, acc := true, a := 1, a1 := 3, rb := 63, rs := 0, rows := 0, rowb := 0 }

/-- Tiles 1 and 2 hold INT8 rows of 8 bytes, two and eight of them, and bank 1 a value. -/
def tileState (cls op : Nat) : State :=
  (at0 addLeaf fun a => { a with
    tcfg := [(1, 0x80020004), (2, 0x80080004)], tiles := [(1, 0xFF02), (2, 0x03 + 0xFD * 2 ^ 1024)], banks := [(1, 0x10)], astat := [(1, 0x3F)] }).setWork 0
    { Work.reset with tq := [tjobAt cls op, tjobAt 8 2] }

theorem witness_tiles : ((tileState 9 0).coreAt 0).work.tq = [tjobAt 9 0, tjobAt 8 2] ∧ ((tileState 9 0).coreAt 0).work.vq = [] ∧ (tileState 8 8).waits = [] ∧
    rowElems (tcFmt (((tileState 9 0).coreAt 0).arch.tcfgAt 2)) (tcBytes (((tileState 9 0).coreAt 0).arch.tcfgAt 2)) = 8 ∧
    tcRows (((tileState 9 0).coreAt 0).arch.tcfgAt 1) = 2 ∧ (tjobAt 9 0).mf = 3 ∧ (tileState 9 0).isSuspect 0 = false := by decide +kernel

/-- Tile transfers of two rows of eight bytes at own LDM 0x200, 64 bytes apart; whole banks; mmul2 with both accumulators. -/
def rowJob (op : Nat) : TJob :=
  { tjobAt 8 op with rb := ownBase + 0x200, rs := if op = 4 ∨ op = 5 then 128 else -64, rows := if op = 4 ∨ op = 5 then 32 else 2, rowb := if op = 4 ∨ op = 5 then 128 else 8 }
def rowState' (op : Nat) : State := (tileState 8 0).setWork 0 { Work.reset with tq := [rowJob op] }

theorem witness_tile_rows : [0, 1, 4, 5].all (fun op => calmB (rowState' op) && decide ((rowState' op).mem.errs = []) && decide (((rowState' op).coreAt 0).work.tq = [rowJob op]) &&
    (upto (rowJob op).rows).all fun q => (upto (rowJob op).rowb).all fun b => decide ((rowState' op).locate (some 0) ((rowJob op).rowAddr q + b) =
      .ldm 0 (if op = 4 ∨ op = 5 then 0x200 + 128 * q + b else 0x200 - 64 * q + b))) = true := by decide +kernel

theorem test_tile_store : yields (.tileOpCommit 0) (rowState' 1) (fun t => t.ldmWord 0 0x40 == ⟨0xFF02, 0xE⟩) = true := by decide +kernel

theorem witness_mmul2 : (tjobAt 9 1).a ≠ (tjobAt 9 1).a1 ∧ tcRows (((tileState 9 1).coreAt 0).arch.tcfgAt (tjobAt 9 1).t1) ≤ 32 ∧ ({ tjobAt 9 0 with mf := 6 }).mf = 6 ∧
    rowElems (tcFmt 0x80080000) (tcBytes 0x80080000) ≤ 16 := by decide +kernel

/-- A faulty column fails the compare of a valid row that is in the slot, the checksum column too; a row beyond M, a column beyond N and a sound column pass. -/
theorem witness_compares : let a := ((tileState 9 0).coreAt 0).arch
    slotRow 3 (tcRows (a.tcfgAt 1)) 0 1 = true ∧ a.compareRow 3 1 2 1 7 1 = true ∧ a.compareRow 3 1 2 1 32 (-1) = true ∧ slotRow 3 (tcRows (a.tcfgAt 1)) 0 2 = false ∧
    a.compareRow 3 1 2 1 8 1 = false ∧ a.compareRow 3 1 2 1 7 0 = false ∧ (tjobAt 9 0).a / 2 = 0 := by decide +kernel

theorem test_compare_stops : yields (.arrayCheckFault 0 ⟨.compare 0 0 1 7 1, 0⟩) (tileState 9 0) (fun t =>
    decide ((t.coreAt 0).work.tq = [tjobAt 8 2]) && (t.coreAt 0).arch.flow.deferred.map (·.kind) == [3]) = true := by decide +kernel

theorem test_matrix_int8 : yields (.tileOpCommit 0) (tileState 9 0) (fun t => bankEl ((t.coreAt 0).arch.bank 1) 0 == 0x10 + 6 + 3) = true := by decide +kernel

/-- A vector, a vector memory, a tile, a matrix and a headbox operation at issue. -/
def vldLeaf : BitVec 256 := leaf [op 7 (0 * 32 + 6 * 4), 3, 1 * 32 + 1, 0]
def vaddLeaf : BitVec 256 := leaf [op 6 (0 * 32 + 6 * 4), 3, 1 * 32 + 2, 3 * 32]
def aclrLeaf : BitVec 256 := leaf [op 8 (6 * 32 + 1 * 4)]
def mmulLeaf : BitVec 256 := leaf [op 9 (0 * 32 + 3 * 4 + 2), 1 * 128 + 2 * 16 + 1 * 4]
def hbLeaf : BitVec 256 := leaf [op 0xA (0 * 32 + 1), 7 * 128]
def tiled (a : Arch) : Arch := { a with tcfg := [(1, 0x80020004), (2, 0x80080004)] }
def hbState : State :=
  (((at0 hbLeaf (withRegs [⟨BitVec.ofNat 64 (ownBase + 0x20), 4⟩])).setLdmWord 0 4 ⟨0x1000, 0⟩).setLdmWord 0 5 ⟨0x2000, 0⟩).setLdmWord 0 6 ⟨0x100040, 0⟩

theorem witness_queued_work : stands (at0 vaddLeaf id) vaddLeaf none = true ∧ (at0 vaddLeaf id).opFaults ((at0 vaddLeaf id).ctx 0 vaddLeaf) none 0 (opOf (at0 vaddLeaf id) vaddLeaf) = [] ∧
    stands (at0 aclrLeaf id) aclrLeaf none = true ∧ (at0 aclrLeaf id).opFaults ((at0 aclrLeaf id).ctx 0 aclrLeaf) none 0 (opOf (at0 aclrLeaf id) aclrLeaf) = [] ∧
    stands (at0 mmulLeaf tiled) mmulLeaf none = true ∧ (at0 mmulLeaf tiled).opFaults ((at0 mmulLeaf tiled).ctx 0 mmulLeaf) none 0 (opOf (at0 mmulLeaf tiled) mmulLeaf) = [] := by decide +kernel

theorem witness_queued_load : stands (at0 vldLeaf (withRegs [⟨BitVec.ofNat 64 ownBase, 1⟩])) vldLeaf none = true ∧
    (at0 vldLeaf (withRegs [⟨BitVec.ofNat 64 ownBase, 1⟩])).opFaults ((at0 vldLeaf (withRegs [⟨BitVec.ofNat 64 ownBase, 1⟩])).ctx 0 vldLeaf) none 0
      (opOf (at0 vldLeaf (withRegs [⟨BitVec.ofNat 64 ownBase, 1⟩])) vldLeaf) = [] ∧ (opOf (at0 vldLeaf id) vldLeaf).cls = 7 := by decide +kernel

/-- hb.fab on counter 7: a send of 256 bytes on send flow 5, which is loaded or not; a mill that is held; a full headbox. -/
def fabLeaf : BitVec 256 := leaf [op 0xA (1 * 32 + 1), 7 * 128]
def fabState : State :=
  ((at0 fabLeaf (withRegs [⟨BitVec.ofNat 64 (ownBase + 0x20), 4⟩])).setLdmWord 0 4 ⟨0x1000, 0⟩).setLdmWord 0 6 ⟨5 * 2 ^ 32 + 256, 0⟩
def flowState : State := fabState.put (Reg.fabSflow 5 0) (BitVec.ofNat 64 (2 ^ 63 + 4096))
def heldMill : State := fabState.putFld Reg.fabJobstat 2 0 4
def fullBox (s : State) : State := s.setWork 0 { Work.reset with hbq := (upto 16).map fun i => { copyX with xid := 100 + i } }

theorem witness_queued_fab : [fabState, flowState, heldMill, fullBox fabState].all (fun s => stands s fabLeaf none && decide (s.opFaults (s.ctx 0 fabLeaf) none 0 (opOf s fabLeaf) = [])) = true ∧
    (fabState.readDesc 0 (ownBase + 0x20)).kind = 0 ∧ (fabState.readDesc 0 (ownBase + 0x20)).num = 5 ∧ (fabState.readDesc 0 (ownBase + 0x20)).len = 256 ∧ fabState.sflow 5 63 63 = 0 ∧
    fabState.isHeld = false ∧ heldMill.isHeld = true ∧ flowState.sflow 5 63 63 = 1 ∧ flowState.sflow 5 59 56 = flowState.groupOf 0 ∧ 256 ≤ flowState.sflow 5 31 0 ∧ flowState.creditOf 5 = 0 ∧
    fabState.xferFor fabState.fab.nextXid = none ∧ fabState.lcidOf 0 = 0 ∧ fabState.posOf 0 = some 0 ∧ ((fullBox fabState).coreAt 0).work.hbq.length = 16 := by decide +kernel

theorem witness_fab_handover : ∀ i, fabState.handover i = false := no_handover _ (by decide +kernel)

/-- hb.wait for two on HBC3, and hb.poll of it. -/
def waitLeaf (opc : Nat) : BitVec 256 := leaf [op 0xA (opc * 32 + 1), 3 * 128]
def waitState (opc : Nat) (n : Word) : State := at0 (waitLeaf opc) fun a => { withRegs [⟨2, 0⟩] a with hbc := [(3, n)] }

theorem witness_counters : [1, 2].all (fun n => stands (waitState 2 n) (waitLeaf 2) none && decide ((waitState 2 n).opFaults ((waitState 2 n).ctx 0 (waitLeaf 2)) none 0 (opOf (waitState 2 n) (waitLeaf 2)) = [])) = true ∧
    stands (waitState 3 9) (waitLeaf 3) none = true ∧ (waitState 3 9).opFaults ((waitState 3 9).ctx 0 (waitLeaf 3)) none 0 (opOf (waitState 3 9) (waitLeaf 3)) = [] := by decide +kernel

theorem test_wait_takes : yields (.leafIssue ⟨0, [], 0⟩) (waitState 2 5) (fun t => Sparse.get zeroWord (t.coreAt 0).arch.hbc 3 == 3) = true := by decide +kernel

/-- A load and an atomic on the tiers. -/
theorem witness_outer_access : let s := memAt 6 0x1000 ⟨0, 0⟩
    let t := amoAt 0x1D 0x1000
    stands s (memLeaf 6 0) none = true ∧ s.opFaults (s.ctx 0 (memLeaf 6 0)) none 0 (opOf s (memLeaf 6 0)) = [] ∧ ownLdm 0 0x1000 = false ∧ s.nearHit 0 0x1000 = false ∧ s.fillsOf 0 < 64 ∧
    tierAccess t (amoLeaf 0x1D) .atomic = true ∧ t.opFaults (t.ctx 0 (amoLeaf 0x1D)) none 0 (opOf t (amoLeaf 0x1D)) = [] := by decide +kernel

theorem witness_queued_copy : stands hbState hbLeaf none = true ∧ hbState.opFaults (hbState.ctx 0 hbLeaf) none 0 (opOf hbState hbLeaf) = [] ∧
    (hbState.coreAt 0).work.hbq.length < 16 ∧ (hbState.readDesc 0 (ownBase + 0x20)).rows = 1 ∧ (hbState.readDesc 0 (ownBase + 0x20)).rowlen = 64 := by decide +kernel

/-! ### Couch, self-test, suspect positions -/

def goWord (slot target : Nat) : Word := BitVec.ofNat 64 (2 ^ 63 + slot * 2 ^ 8 + target)
def idle0 : State := at0 addLeaf id
def couchState : State :=
  ((at0 addLeaf fun a => { a with flow := { a.flow with atCouch := true } }).setWork 0 { Work.reset with hbq := [copyX, { copyX with xid := 2, begun := false }] }).modClu 0
    fun k => { k with couch := some ⟨0, 12, 0, 0, false⟩ }

/-- The core of slot 0 stands at no couch point. -/
def runsOn : State := idle0.modClu 0 fun k => { k with couch := some ⟨0, 12, 0, 0, false⟩ }

theorem witness_couch_requests : idle0.waits = [] ∧ idle0.phase = 7 ∧ wfld (goWord 11 12) 11 8 = 11 ∧ wfld (goWord 11 12) 3 0 = 12 ∧ wfld (goWord 0 12) 63 63 = 1 ∧
    wfld (0xB0C : Word) 63 63 = 0 ∧ idle0.isSpare 12 = true ∧ idle0.posOf 0 = some 0 ∧ idle0.posOf 11 = none ∧ idle0.isSpare 5 = false ∧ (couchState.cluAt 0).couch.isSome = true ∧
    couchState.phase = 7 ∧ (couchState.cluAt 0).couch = some ⟨0, 12, 0, 0, false⟩ ∧ couchState.lcidOf 0 = 0 ∧ couchState.standsCouched 0 = true ∧ runsOn.standsCouched 0 = false ∧
    (runsOn.cluAt 0).couch = some ⟨0, 12, 0, 0, false⟩ ∧ runsOn.lcidOf 0 = 0 := by decide +kernel

theorem witness_couch_moves : calmB couchState = true ∧ couchState.mem.errs = [] ∧ (couchState.cluAt 0).couch = some ⟨0, 12, 0, 0, false⟩ ∧ couchState.posOf 0 = some 0 ∧ couchState.isSpare 12 = true ∧
    couchState.atCouchPoint 0 = true := by decide +kernel

theorem test_couch_moves : yields (.couch 0) couchState (fun t => t.posOf 0 == some 12 && t.stateOf 0 == 3 && t.stateOf 12 == 1) = true := by decide +kernel

def rotState (r : Rotation) (spare : Bool) : State :=
  (if spare then idle0 else idle0.putBit (Reg.cluPos 0) (16 + 12) false).modClu 0 fun k => { k with rot := r }

theorem witness_turns : (rotState ⟨0, none, [], none, false, []⟩ true).rotOn = true ∧ (rotState ⟨0, none, [], none, false, []⟩ true).served 0 = some 0 ∧
    (rotState ⟨0, none, [], none, false, []⟩ true).spareOf 0 = some 12 ∧ (rotState ⟨0, some 5, [], none, false, []⟩ true).served 0 = some 0 ∧
    (rotState ⟨13, none, [], none, true, []⟩ false).served 0 = some 0 ∧ (rotState ⟨0, none, [], none, true, []⟩ false).spareless 0 = true ∧
    (rotState ⟨0, none, [], none, true, []⟩ false).lcidOf 0 ≠ 0x7FF ∧ (rotState ⟨0, some 5, [], none, false, []⟩ true).spareless 0 = false ∧
    (rotState ⟨1, some 5, [], none, false, []⟩ true).served 0 = some 1 ∧ (rotState ⟨1, some 5, [], none, false, []⟩ true).lcidOf 1 = 0x7FF := by decide +kernel

/-- A turn that waits when the spare is lost is passed over and counts as no missed one. -/
theorem test_spareless_turn : yields (.rotationTurn 0) (rotState ⟨0, some 5, [], none, false, []⟩ false) (fun t =>
    decide ((t.cluAt 0).rot.turn = none) && t.raw Reg.relMissed == 0 && t.raw Reg.relEvhead == 1) = true := by decide +kernel

def suspect0 (k : Nat) (clean : Nat) : State := (idle0.putBit (Reg.relPosStat k) 63 true).putFld (Reg.relPosStat k) 31 0 clean

theorem witness_sessions : (suspect0 1299 0).rotOn = true ∧ (suspect0 1299 0).isSuspect 1299 = true ∧
    firstItem ((rotState ⟨0, none, [(0, 7), (5, 7)], none, false, []⟩ true).items 0) = some ⟨0, 7, false, false⟩ ∧
    (rotState ⟨0, none, [(0, 7), (5, 7)], none, false, []⟩ true).lcidOf 0 = 0 ∧ firstItem ((rotState ⟨0, none, [(5, 0)], none, false, []⟩ true).items 0) = some ⟨5, 0, false, false⟩ ∧
    (rotState ⟨0, none, [(5, 0)], none, false, []⟩ true).lcidOf 5 = 0x7FF := by decide +kernel

def sliceState (n : Nat) : State := rotState ⟨0, none, [], some ⟨5, none, 1, n, false, false, none⟩, false, []⟩ true

theorem witness_slices : ((sliceState 30).cluAt 0).rot.session = some ⟨5, none, 1, 30, false, false, none⟩ ∧ ((sliceState 31).cluAt 0).rot.session = some ⟨5, none, 1, 31, false, false, none⟩ ∧
    (∀ y ∈ ((sliceState 31).coreAt 5).work.hbq, y.begun = false) ∧ (sliceState 0).waits = [] := by decide +kernel

/-- Some word differs from the signature of a slice, whatever that is. -/
theorem witness_wrong_signature : ∃ got : Word, got ≠ Config.bistSig 31 := ⟨~~~(Config.bistSig 31), by simp⟩

theorem witness_suspects : idle0.isFailed 1299 = false ∧ idle0.isSuspect 1299 = false ∧ (suspect0 0 10000).isSuspect 0 = true ∧
    (suspect0 0 10000).fld (Reg.relPosStat 0) 31 0 = (suspect0 0 0).fld Reg.relSus 31 0 ∧ (suspect0 0 9999).phase = 7 := by decide +kernel

/-! ### The calender and NUM -/

/-- Queue 0 at reel address 0x10000 with one entry handed over. -/
def calState (ws : List Nat) (phase : Nat) (k : Cal) : State :=
  let s := (up.put (Reg.calQbase 0) 0x10000).setPhase 0 phase
  let s := s.setBytes none 0 0x10000 (leBytes 8 1)
  let s := s.setBytes none 0 0x10800 (ws.flatMap (leBytes 8))
  let s := s.setBytes none 0 0x20000 (leBytes 8 0x40000000BF800000)
  let s := s.setBytes none 0 0x30000 (leBytes 6 0x3F8000001234)
  s.modClu 0 fun x => { x with cal := k }

def normEntry : List Nat := [1 + 2 * 2 ^ 32, 0, 0x20000]
def updEntry (recipe mfmt vfmt wfmt : Nat) : List Nat :=
  [3 + recipe * 16 + mfmt * 2 ^ 15 + vfmt * 2 ^ 17 + wfmt * 2 ^ 19 + 2 ^ 32, 0x30000, 0x20000, 0x40000, 0x50000, 0x60000, 0x3C23D70A3A83126F, 0x3F7FBE773F666666, 0x322BCC77,
    0x3A83126F3DCCCCCD, 5, 0, 0]

def waiting : Cal := { Cal.reset with contributed := true, clip := some (0x3FF0000000000000, false) }
def skipping : Cal := { Cal.reset with contributed := true, clip := some (0, true) }

/-- Calm, with no couch under way (`no_handover`), and with a sound entry at the front of queue 0. -/
def calGood (s : State) : Bool := calmB s && (s.clusters.all fun p => p.2.couch.isNone) && decide (s.mem.errs = []) && s.calReady 0 && decide ((s.calCheck 0).2 = 0)

theorem witness_norm_contrib_end : calGood (calState normEntry 0 Cal.reset) = true ∧ (calState normEntry 0 Cal.reset).hif.linkUp = true ∧
    ((calState normEntry 0 Cal.reset).calEntry 0).op = 1 ∧ (calState normEntry 0 Cal.reset).calBadRange 0 ((calState normEntry 0 Cal.reset).calEntry 0) = false ∧
    calGood (calState [2] 0 Cal.reset) = true ∧ ((calState [2] 0 Cal.reset).calEntry 0).op = 2 ∧ calGood (calState [4] 2 waiting) = true ∧
    ((calState [4] 2 waiting).calEntry 0).op = 4 ∧ ((calState [4] 2 waiting).calAt 0).clip.isSome = true := by decide +kernel

theorem test_norm_adds_squares : yields (.norm 0) (calState normEntry 0 Cal.reset) (fun t => (t.calAt 0).norm == 2 ^ 160 + 4 * 2 ^ 160) = true := by decide +kernel

def updGood (s : State) : Bool :=
  let e := s.calEntry 0
  calGood s && decide (e.op = 3) && decide (e.count = 1) && !e.wm && !(s.calBadRange 0 e) && (e.ranges.all fun r => (upto r.sz).all fun i => decide (s.locate none (r.base + i) = .tier (r.base + i)))

theorem witness_update : [0, 1, 2, 3].all (fun r => updGood (calState (updEntry r 1 2 1) 2 waiting)) = true ∧ updGood (calState (updEntry 1 0 0 3) 2 skipping) = true ∧
    ((calState (updEntry 0 1 2 1) 2 waiting).calAt 0).clip = some (0x3FF0000000000000, false) ∧ ((calState (updEntry 1 0 0 3) 2 skipping).calAt 0).clip = some (0, true) := by decide +kernel

def oneCluster (s : State) : State := { s with fab := { s.fab with groups := [1] } }
def endState : State := oneCluster (calState [4] 3 { waiting with ended := true })

/-- Clusters 0 and 1 are of one context, with queues at 0x10000 and 0x14000; cluster 1 has run its END when `both` says so. -/
def pairState (both : Bool) : State :=
  let s := { endState with fab := { endState.fab with groups := [3] } }
  let s := ((s.put (Reg.calQbase 1) 0x14000).setPhase 1 3).setBytes none 0 0x14000 (leBytes 8 1)
  s.modClu 1 fun x => { x with cal := { waiting with ended := both } }

/-- A queue's first 4 KiB in the tiers. -/
theorem witness_queue_page : (calState normEntry 0 { Cal.reset with ran := true }).InTiers 0x10000 4096 := by
  refine in_tiers _ _ _ ?_; decide +kernel

theorem witness_entry_done : (calState normEntry 0 { Cal.reset with ran := true }).calBase 0 = 0x10000 ∧
    ((calState normEntry 0 { Cal.reset with ran := true, err := 5 }).calAt 0).err = 5 ∧ calmB (calState normEntry 0 { Cal.reset with ran := true, err := 5 }) = true ∧
    calmB endState = true ∧ endState.mem.errs = [] ∧ endState.clustersOf 0 = [0] ∧ (endState.calAt 0).ended = true ∧ endState.calBase 0 = 0x10000 ∧ (calState normEntry 0 { Cal.reset with ran := true, done := 2 ^ 48 - 2 }).calBase 0 % 4096 = 0 := by decide +kernel

theorem witness_step_end : calmB (pairState true) = true ∧ (pairState true).mem.errs = [] ∧ (pairState true).clustersOf 0 = [0, 1] ∧
    (∀ c ∈ [0, 1], ((pairState true).calAt c).ended = true ∧ (pairState true).calBase c % 4096 = 0 ∧ ((pairState true).calAt c).done + 1 < 2 ^ 48) ∧
    (∀ c ∈ [0, 1], ∀ d ∈ [0, 1], (pairState true).calBase c = (pairState true).calBase d → c = d) ∧
    calmB (pairState false) = true ∧ (∃ c ∈ (pairState false).clustersOf 0, ((pairState false).calAt c).ended = false) := by decide +kernel

theorem witness_step_end_pages : (pairState true).InTiers ((pairState true).calBase 0) 4096 ∧ (pairState true).InTiers ((pairState true).calBase 1) 4096 := by
  refine ⟨in_tiers _ _ _ ?_, in_tiers _ _ _ ?_⟩ <;> decide +kernel

theorem test_step_end_takes_all : yields (.stepEnd 0) (pairState true) (fun t => t.calPhase 0 == 0 && t.calPhase 1 == 0 && t.num none 0x14008 8 == 1) = true := by decide +kernel

def recState : State := oneCluster (calState [2] 1 { Cal.reset with norm := 12345, nf := true, contributed := true })

/-- Group 63 of the context counts in slot 255, as a held write has it. -/
def heldState : State := { recState with numHeld := [⟨0, Reg.numGctrl 63, 2 ^ 64 - 1, 0xFF01⟩, ⟨1, Reg.numGctrl 0, 2 ^ 64 - 1, 3⟩] }

theorem witness_device_record : recState.clustersOf 0 = [0] ∧ recState.bit (Reg.numCtxCtrl 0) 0 = true ∧ recState.numHeld = [] ∧
    ((heldState.numApply 0).bit (Reg.numGctrl 63) 0 = true ∧ (heldState.numApply 0).fld (Reg.numGctrl 63) 4 1 = 0 ∧ (heldState.numApply 0).fld (Reg.numGctrl 63) 15 8 = 255) ∧
    (recState.numApply 0).bit (Reg.numGctrl 0) 0 = false ∧
    (∀ c ∈ recState.clustersOf 0, (recState.calAt c).contributed = true ∧ (recState.calAt c).clip = none) ∧ recState.numRecs = [] ∧ recState.waits = [] := by decide +kernel

def totalState (g flags : Nat) : State := { recState with numRecs := [⟨0, true, cellsOf (normWords g ++ [flags])⟩] }

theorem witness_mill_total : (totalState (2 ^ 160) 0).numRecs.find? (fun r => r.ctx == 0 && r.total) = some ⟨0, true, cellsOf (normWords (2 ^ 160) ++ [0])⟩ ∧
    recWord (cellsOf (normWords 7 ++ [2])) 5 % 4 ≠ 0 := by decide +kernel

theorem witness_calender_writes : calmB recState = true ∧ recState.phase = 7 ∧ recState.calBase 0 = 0x10000 ∧ up.calBase 0 = 0 ∧ up.calPhase 0 = 0 ∧
    wfld (0x11000 : Word) 47 0 % 4096 = 0 ∧ wfld (0x11040 : Word) 47 0 % 4096 ≠ 0 ∧ recState.calPhase 0 = 1 ∧ wfld (BitVec.ofNat 64 (2 ^ 63 + 2 ^ 61)) 63 63 = 1 ∧
    recState.numOwner 0xB01000 = 0 ∧ (∃ x ∈ recState.clustersOf 0, (recState.calAt x).contributed = true) ∧ recState.clustersOf 1 = [] ∧ recState.numOwner 0xB01088 = 1 ∧
    up.numOwner 0xB023F8 = 0 ∧ (∃ h ∈ heldState.numHeld, h.ctx = heldState.numOwner 0xB01080) ∧
    (-32 ≤ sext 8 (wfld (0x1FE0000000000000 : Word) 55 48) ∧ sext 8 (wfld (0x1FE0000000000000 : Word) 63 56) ≤ 31) ∧ 31 < sext 8 (wfld (0x2000000000000000 : Word) 63 56) ∧ (oneCluster up).numHeld = [] ∧ (∀ x ∈ (oneCluster up).clustersOf 0, ((oneCluster up).calAt x).contributed = false) := by decide +kernel

/-! ### Ordered-reduction buffers and caches -/

/-- Buffer 7 of cluster 99 with two contributors and three elements of format `fmt`. -/
def orbState (fmt arrive : Nat) : State :=
  let s := ((up.put (Reg.orbCtrl 99 7) (BitVec.ofNat 64 (1 + fmt * 2 + 1 * 2 ^ 12 + 2 * 2 ^ 24))).put (Reg.orbCb 99 7) 0x40000).put (Reg.orbStage 99 7) 0x50000
  let s := (s.put (Reg.orbDst 99 7) 0x60000).setBytes none 0 0x40000 (leBytes 8 arrive)
  s.setBytes none 0 0x50000 ([0x3F800000, 0x40000000, 0xBF800000, 0x3F000000, 0xC0000000, 7, 9, 11, 13, 15, 17, 19].flatMap (leBytes 4))

theorem witness_orb : let s := orbState 0 3
    calmB s = true ∧ s.mem.errs = [] ∧ s.bit (Reg.orbCtrl 99 7) 0 = true ∧ s.fld (Reg.orbStat 99 7) 15 8 = 0 ∧ (s.orbCfg 99 7).wm = false ∧
    s.checkRange (some 99) none .read (s.orbCfg 99 7).cb 64 = none ∧ s.num none 0x40000 8 = 2 ^ (s.orbCfg 99 7).ncon - 1 ∧ s.orbBadRange 99 (s.orbCfg 99 7) = false ∧
    s.sys.scanned = [] ∧ (s.orbCfg 99 7).cb + 64 ≤ (s.orbCfg 99 7).dst ∧ (s.orbCfg 99 7).cb + 64 ≤ (s.orbCfg 99 7).stage ∧
    (orbState 2 4).num none 0x40000 8 = 2 ^ 2 ∧ (orbState 1 1).num none 0x40000 8 < 2 ^ 2 - 1 ∧ (s.orbCfg 99 7).stage = 0x50000 ∧ (s.orbCfg 99 7).dst = 0x60000 ∧ (s.orbCfg 99 7).fmt < 3 := by decide +kernel

theorem witness_orb_tiers : (orbState 0 3).InTiers 0x40000 64 ∧ (orbState 0 3).InTiers 0x50000 24 ∧ (orbState 0 3).InTiers 0x60000 12 := by
  refine ⟨in_tiers _ _ _ ?_, in_tiers _ _ _ ?_, in_tiers _ _ _ ?_⟩ <;> decide +kernel

theorem witness_orb_control : (orbState 0 3).orbBusy 99 7 = true ∧ (orbState 0 1).orbBusy 99 7 = false ∧ wfld (6 : Word) 2 1 = 3 ∧ wfld (4 : Word) 2 1 ≤ 2 := by decide +kernel

/-- A line of host memory in the L2 of cluster 0, under window 0 of the device. -/
def hostWin0 (s : State) : State :=
  ((s.put (Reg.hifHwinDev 0) 0x800000000000).put (Reg.hifHwinSize 0) 0x400000).put (Reg.hifHwinCfg 0) 0xF

def snoopState : State :=
  (hostWin0 { idle0 with hif := { idle0.hif with snoop := [5, 6], biWait := [5] } }).modClu 0 fun k => { k with l2 := [(3, ⟨true, 0x800000000000 / 128, 0, true, false⟩)] }

def pfState (dead : Bool) : State := idle0.setCaches 0 { Caches.reset with side := [1, 2], pfFills := [⟨8, dead, none⟩] }

theorem witness_caches : idle0.phase = 7 ∧ idle0.waits = [] ∧ (pfState false).mem.errs = [] ∧ ((pfState false).clusters.all fun p => p.2.couch.isNone) = true ∧
    snoopState.waits = [] ∧ snoopState.mem.errs = [] ∧ wfld (0x2003005 : Word) 2 1 ≤ 2 ∧ ((pfState true).coreAt 0).caches.pfFills[0]? = some ⟨8, true, none⟩ ∧
    ((pfState false).coreAt 0).caches.pfFills[0]? = some ⟨8, false, none⟩ ∧ calmB (pfState false) = true ∧ (pfState false).hif.linkUp = true ∧ 5 ∈ snoopState.hif.biWait ∧
    Sparse.wf clusterReset snoopState.clusters = true ∧ snoopState.locate none 0x800000000000 = .host 0 0 := by decide +kernel

theorem witness_l2_canonical : ∀ c, Sparse.wf emptyLine (snoopState.cluAt c).l2 = true :=
  fun c => get_all clusterReset (fun _ k => Sparse.wf emptyLine k.l2) snoopState.clusters c rfl (by decide +kernel)

/-! ### Memory tiers -/

def patState (idx : Nat) (busy : Bool) : State := (up.putFld Reg.memPatidx 19 0 idx).putBit Reg.memPatidx 63 busy

theorem witness_page_table : calmB (patState 0 false) = true ∧ (patState 0 false).sys.cfgApplied = true ∧ (patState 0 true).bit Reg.memPatidx 63 = true ∧
    (patState 0 false).bit Reg.memPatidx 63 = false ∧ (patState 0 false).patBase + 8 * 0 + 8 ≤ (patState 0 false).capBytes ∧ (patState 0 false).mem.patBusy = none ∧ (patState 0 false).mem.errs = [] ∧
    ((patState 739640 false).putFld Reg.memCapacity 31 0 2).capBytes < 0 + 8 * 739640 + 8 ∧ (patState 0 false).phase = 7 ∧
    wfld (0x200001 : Word) 47 21 * 2 ^ 21 + patBytes ≤ up.capBytes ∧ up.capBytes < wfld (0x15FFFFE00001 : Word) 47 21 * 2 ^ 21 + patBytes ∧
    Sparse.wf clusterReset (patState 0 false).clusters = true ∧ (patState 0 false).patEn = false := by decide +kernel

def errState (u e : Nat) : State := up.setErr u e

theorem witness_scrub : (errState 0x20 1).waits = [] ∧ (errState 0x20 1).mem.isOpen = true ∧ 0x3F < (errState 0x20 1).capBytes ∧ (errState 0x20 1).errAt 0x20 = 1 ∧
    (errState 0x20 1).bit (Reg.memEcc 0) 0 = false ∧ isFelt (feltBase + 2 ^ 32 - 1) = true ∧ (errState feltBase 2).errAt feltBase = 2 ∧ (errState 0x20 0).errAt 0x20 = 0 := by decide +kernel

def bankState (w : List (Nat × Nat)) : State := { up with mem := { up.mem with bankq := [(1279 * 48 + 47, ⟨upto 16, w, 98⟩)] } }

theorem witness_bank : let q := (bankState [(3, 20), (99, 21), (0, 22), (99, 23)]).bankAt (1279 * 48 + 47)
    q.queue = 0 :: (upto 16).drop 1 ∧ ((upto 16).drop 1).length = 15 ∧ q.waiting.find? (fun x => x.1 == 99) = some (99, 21) ∧
    0 ∉ (upto 16).drop 1 ∧ q.last < 100 ∧ (bankState []).bit (Reg.memChStat 1279) 4 = false ∧ (bankState []).waits = [] ∧
    (∀ x ∈ q.waiting, x.1 < 100) ∧ (∀ x ∈ q.waiting, (99 + 99 - q.last) % 100 ≤ (x.1 + 99 - q.last) % 100) ∧ (up.cluAt 99).victims = [] ∧
    ((bankState []).bankAt (1279 * 48 + 47)).waiting = [] ∧ (up.bankAt 0).queue = [] ∧ (up.putBit (Reg.memChStat 1279) 4 true).bit (Reg.memChStat 1279) 4 = true := by decide +kernel

theorem test_bank_grant : yields (.bankGrant 1279 47) (bankState [(3, 20), (99, 21), (0, 22)]) (fun t =>
    t.bankAt (1279 * 48 + 47) == ⟨(upto 16).drop 1 ++ [21], [(3, 20), (0, 22)], 99⟩) = true := by decide +kernel

/-- Two flipped symbols of a sector are found and corrected; three symbols spread over it are not. -/
theorem witness_flips : rsDecode 0x100FF = .fixed 0x100FF ∧ up.flipsAt 0x20 = 0 ∧ up.errAt 0x20 = 0 ∧ rsDecode 0x10101 = .failed := by decide +kernel

theorem test_scrub_corrects : yields (.scrubPass 0x20 (.flips 0x100FF)) up (fun t => t.raw (Reg.memChCe (up.place 0x20).ch) == 1 && t.errAt 0x20 == 0) = true := by decide +kernel

theorem witness_windows : up.waits = [] ∧ up.sys.fwRuns = true ∧ up.chState 1279 = 0 ∧ (∀ i, i < 64 → up.bit (Reg.memChStat (1279 / 64 * 64 + i)) 4 = false) ∧
    (up.putFld (Reg.memChStat 1279) 2 0 2).chState 1279 = 2 ∧ (up.putBit (Reg.memChStat 1216) 4 true).bit (Reg.memChStat (1279 / 64 * 64 + 0)) 4 = true ∧
    (up.putBit (Reg.memChStat 1279) 4 true).bit (Reg.memChStat 1279) 4 = true := by decide +kernel

/-- Row 12287 of bank 15, rank 2 of channel 3 has failed; entry 255 of the channel's table, when given, is its own with count `n`. -/
def rowState (m : Sparse Word) : State := { up with mem := { up.mem with rowFails := [rowKey ⟨3, 2, 15, 12287, 0⟩], remap := m } }
def rowEntry (n spare : Nat) : Word := BitVec.ofNat 64 (2 ^ 63 + n * 2 ^ 60 + 2 * 2 ^ 22 + 15 * 2 ^ 18 + 12287 * 2 ^ 4 + spare)
def otherEntry (e spare : Nat) : Nat × Word := (3 * 256 + e, BitVec.ofNat 64 (2 ^ 63 + 2 * 2 ^ 22 + 15 * 2 ^ 18 + (e + 1) * 2 ^ 4 + spare))

theorem witness_row_remap : (rowState []).chState 3 = 0 ∧ (rowState []).freeSpare 3 2 15 = some 0 ∧ (rowState []).entryForRow 3 2 15 12287 = some 0 ∧
    (rowState [(3 * 256 + 255, rowEntry 2 0)]).remapCount 3 2 15 12287 = 2 ∧ (rowState ((upto 16).map fun e => otherEntry e e)).freeSpare 3 2 15 = none ∧
    (rowState ((upto 16).map fun e => otherEntry e e)).remapCount 3 2 15 12287 = 0 ∧ (rowState [(3 * 256 + 255, rowEntry 1 0)]).entryForRow 3 2 15 12287 = some 255 := by decide +kernel

theorem witness_row_table_full : (rowState ((upto 256).map fun e => otherEntry e (e % 15))).entryForRow 3 2 15 12287 = none ∧
    (rowState ((upto 256).map fun e => otherEntry e (e % 15))).freeSpare 3 2 15 = some 15 := by decide +kernel

def surState (req : Bool) (out : Nat) : State :=
  let s := { up with mem := { up.mem with suspects := [1279, 4] } }
  let s := if req then (s.putBit Reg.memSurreq 63 true).putFld Reg.memSurreq 58 48 1279 else s
  (s.putFld Reg.memSurreq 31 0 (737280 - 577)).putFld Reg.memCapacity 39 32 out

/-- The same with the page table on, at reel page 16, and no page mapped. -/
def surMapped : State := (surState true 0).put Reg.memPatctl 0x2000001
def migState : State := { up with mem := { up.mem with mig := some ⟨1279, [], 737280⟩, dead := [1279] } }.putFld Reg.memCapacity 31 0 (737280 - 577)

theorem witness_surrender : calmB (surState false 0) = true ∧ (surState false 0).bit Reg.memSurreq 63 = false ∧ (surState false 0).mem.mig = none ∧
    (surState false 31).fld Reg.memCapacity 39 32 = 31 ∧ (surState false 32).fld Reg.memCapacity 39 32 = 32 ∧ 577 ≤ (surState false 0).fld Reg.memCapacity 31 0 ∧
    (surState true 0).bit Reg.memSurreq 63 = true ∧ (surState true 0).mem.late = false ∧ (surState true 0).phase = 7 ∧ (surState true 0).rangeFree (737280 - 577) = false ∧
    surMapped.rangeFree (surMapped.fld Reg.memSurreq 31 0) = true ∧ surMapped.fld Reg.memSurreq 58 48 = 1279 ∧ calmB (surState true 0) = true ∧
    calmB surMapped = true ∧ surMapped.sys.fwRuns = true ∧ calmB migState = true ∧ migState.sys.fwRuns = true ∧ migState.mem.mig = some ⟨1279, [], 737280⟩ ∧ migState.mem.errs = [] := by
  decide +kernel

/-! ### Fabric -/

/-- Port 35 in a state with five credits; device id 9; id 7 is behind port 0, id 8 behind port 35. -/
def portState (st : Nat) (x : Port) : State :=
  let s := { idle0 with fab := { idle0.fab with myIdSet := true, ports := [(35, x)] } }
  let s := ((s.put Reg.fabMyid 9).put (Reg.fabRoute 7) 0x80).put (Reg.fabRoute 8) 0xA3
  (s.putFld (Reg.fabPStat 35) 2 0 st).putFld (Reg.fabPStat 35) 39 30 5

/-- Receive flow 4095 has three slots of 512 bytes at 0x70000 and counts on HBC7 of logical core 0. -/
def withFlow (s : State) : State :=
  ((s.put (Reg.fabRflow 4095 0) (BitVec.ofNat 64 (2 ^ 63 + 15 * 2 ^ 56 + 7 * 2 ^ 44 + 7 * 2 ^ 32 + 512))).put (Reg.fabRflow 4095 1) 0x70000).put (Reg.fabRflow 4095 2)
    (BitVec.ofNat 64 (5 * 2 ^ 32 + 7 * 2 ^ 27 + 3))

def cellFor (dst : Nat) (last : Bool) : Cell := rawCell 1 dst 4095 1 last false 0xABCDEF
def sentCell (seq : Nat) : Cell := sealCell (cellFor 7 false) false seq 0 0 false
def busyPort : Port := { Port.reset with rxSeq := 4095, txSeq := 3, replay := [sentCell 1, sentCell 2], credRet := 4 }
def cellState : State :=
  let s := withFlow (portState 3 busyPort)
  { s with fab := { s.fab with recvIdx := [(4095, 1)] } }
def goodCell (dst : Nat) (last : Bool) : Cell := sealCell (cellFor dst last) false 4095 1 255 false

theorem witness_cells_in : calmB cellState = true ∧ cellState.portState 35 = 3 ∧ (portState 5 busyPort).portState 35 = 5 ∧ (portState 1 busyPort).portState 35 = 1 ∧
    Cell.crcOk ⟨0, 1⟩ = false ∧ [7, 9].all (fun d => Cell.crcOk (goodCell d true)) = true ∧ [7, 9].all (fun d => decide (Cell.dst (goodCell d true) = d)) = true ∧
    Cell.seq (goodCell 7 false) = (cellState.portAt 35).rxSeq ∧ (cellState.portAt 35).gap = [] ∧ Cell.fld (goodCell 7 false) 7 7 = 0 ∧ Cell.typ (goodCell 7 false) = 1 ∧
    cellState.fab.myIdSet = true ∧ cellState.fld Reg.fabMyid 11 0 = 9 ∧ cellState.routeOf 7 = some 0 := by decide +kernel

/-- Sixteen bad codewords of the last millisecond, and one more; a bad one from before has lapsed. -/
theorem witness_fec : let late (e : List (Nat × Nat)) (bad : Nat) := (e.filter fun e => decide (cellState.sys.time < e.1 + 1000000)) ++ [(cellState.sys.time, bad)]
    ((late [(0, 15)] 1).map (·.2)).sum = 16 ∧ ((late [(0, 15)] 2).map (·.2)).sum = 17 ∧ (cellState.portAt 35).fecBad = [] := by decide +kernel

/-- A collective whose one child sends the last cell of its slot. -/
def partState : State := { cellState with fab := { cellState.fab with colls := [⟨4095, 0, 0, 0, 15, 0, false, 0, 0, 4160, [0], 0x90000, [⟨64, 4096, true, 0, 0, [7]⟩]⟩] } }
def partCell : Cell := sealCell (rawCell 2 9 4095 15 true false 0xABCDEF) false 4095 1 255 false

theorem witness_partial : (partState.collOf 4095).map (fun k => (k.id, k.scratchAt 0 15)) = some (4095, 0x90F00) ∧ Cell.dst partCell = 9 ∧ Cell.typ partCell = 2 ∧ Cell.crcOk partCell = true ∧
    Cell.seq partCell = 4095 ∧ Cell.fld partCell 7 7 = 0 ∧ Cell.aux partCell = 15 ∧ partState.checkPage none none .write 0x90F00 = none ∧ partState.fab.parts = [] ∧ partState.portState 35 = 3 := by
  decide +kernel

theorem witness_partial_place : partState.InTiers 0x90F00 256 ∧ partState.Calm := by refine ⟨in_tiers _ _ _ ?_, calm_of _ ?_⟩ <;> decide +kernel

theorem test_partial_lands : yields (.cellReceive 35 ⟨partCell, ⟨0, 0⟩, none⟩) partState (fun t => t.num none 0x90F00 256 == 0xABCDEF && t.fab.parts.length == 1) = true := by decide +kernel

theorem witness_cell_replay : (cellState.portAt 35).replay = [] ++ sentCell 1 :: [sentCell 2] ∧ Cell.seq (sentCell 1) = Cell.fld (goodCell 7 false) 31 20 := by decide +kernel

theorem witness_message : cellState.rflow 4095 63 63 = 1 ∧ Cell.flow (goodCell 9 true) = 4095 ∧ Cell.wb (goodCell 9 true) = false ∧
    Cell.aux (goodCell 9 true) = Sparse.get zeroNat cellState.fab.recvIdx 4095 ∧ 256 * (1 + 1) ≤ cellState.rflow 4095 31 0 ∧
    cellState.checkPage none none .write (0x70000 + 5 % 3 * 512 + 256) = none ∧ cellState.mem.errs = [] ∧ cellState.partnerOf 4095 = none ∧
    cellState.posOf (cellState.fld (Reg.fabRflow 4095 2) 26 16) = some 0 := by decide +kernel

theorem witness_message_place : cellState.InTiers (0x70000 + 5 % 3 * 512 + 256) 256 := by refine in_tiers _ _ _ ?_; decide +kernel

theorem test_message_lands : yields (.cellReceive 35 ⟨goodCell 9 true, ⟨0, 0⟩, none⟩) cellState (fun t =>
    t.num none 0x70500 256 == 0xABCDEF && t.raw (Reg.fabRflow 4095 2) == BitVec.ofNat 64 (6 * 2 ^ 32 + 7 * 2 ^ 27 + 3)) = true := by decide +kernel

/-- Window 0 guards the flow's slots; one cell of the block is kept back. -/
def guardState (kept : List (BitVec 2048)) : State :=
  let s := ((cellState.put (Reg.relWmwDbase 0) 0x8000000000070000).put (Reg.relWmwDlimit 0) 0x71000).put (Reg.relWmwSbase 0) 0x78000
  { s with fab := { s.fab with held := if kept = [] then [] else [(4095, kept)] } }

theorem witness_guarded_cells : calmB (guardState [3]) = true ∧ (shadowOf (guardState []).wins 0x70000).isSome = true ∧ Cell.last (goodCell 9 false) = false ∧
    (0x70500 : Nat) % 4096 ≠ 3840 ∧ Sparse.get noPayloads (guardState [3]).fab.held 4095 = [3] ∧ (guardState [3]).checkPage none none .write 0x70500 = none ∧
    (guardState [3]).mem.errs = [] ∧ (guardState [3]).partnerOf 4095 = none ∧ (guardState [3]).rflow 4095 63 63 = 1 ∧ Cell.last (goodCell 9 true) = true := by decide +kernel

theorem witness_guarded_place : (guardState [3]).InTiers 0x70400 512 := by refine in_tiers _ _ _ ?_; decide +kernel

theorem test_guarded_cell_waits : yields (.cellReceive 35 ⟨goodCell 9 false, ⟨0, 0⟩, none⟩) (guardState []) (fun t =>
    t.num none 0x70500 256 == 0 && decide (Sparse.get noPayloads t.fab.held 4095 = [0xABCDEF]) && (t.portAt 35).credRet == 4) = true := by decide +kernel

def outItem : OutItem :=
  { stream := 15, port := 35, typ := 3, dst := 7, flow := 4095, idx := 0, cells := 1, src := 0, data := [], wm := false, wins := [], aux := 1, xid := none, last := true }

/-- The ream of port 35 names `owner` at sheet 511, and a release waits in stream 15 behind one of another stream. -/
def sheetState (st owner : Nat) (x : Port) : State :=
  let s := portState st { x with sheet := 511 }
  ({ s with fab := { s.fab with queues := [{ outItem with stream := 14 }, outItem, outItem] } }).put (Reg.fabPReam 35 511) (BitVec.ofNat 64 (owner + 15 * 2 ^ 8))

theorem witness_sheets : (sheetState 3 1 Port.reset).waits = [] ∧ (sheetState 3 0 Port.reset).portState 35 = 3 ∧ (sheetState 4 0 Port.reset).portState 35 = 4 ∧
    ((sheetState 3 0 Port.reset).portAt 35).resend = [] ∧ ((sheetState 3 0 Port.reset).portAt 35).ctl = [] ∧
    wfld ((sheetState 3 0 Port.reset).cur (Reg.fabPReam 35 511)) 3 0 = 0 ∧ wfld ((sheetState 3 1 busyPort).cur (Reg.fabPReam 35 511)) 3 0 = 1 ∧
    wfld ((sheetState 3 1 busyPort).cur (Reg.fabPReam 35 511)) 15 8 = 15 ∧ (sheetState 3 1 busyPort).canSend 35 = true ∧
    (sheetState 3 1 busyPort).fab.queues = [{ outItem with stream := 14 }] ++ outItem :: [outItem] ∧ (∀ j ∈ [{ outItem with stream := 14 }], j.stream ≠ 15 ∨ j.port ≠ 35) := by
  decide +kernel

/-- Port 0 holds two cells, of which the second goes out at port 35. -/
def relayState : State :=
  let s := sheetState 3 0 Port.reset
  let s := s.put (Reg.fabPReam 35 511) 2
  s.setPort 0 { Port.reset with rx := [goodCell 7 true, goodCell 8 true] }

/-- A release of this device for itself, in stream 15, for send flow 4095 which has 2 of 9 credits. -/
def selfState : State :=
  let s := portState 0 Port.reset
  let s := (s.put (Reg.fabSflow 4095 0) (BitVec.ofNat 64 (2 ^ 63 + 15 * 2 ^ 56))).put (Reg.fabSflow 4095 1) (BitVec.ofNat 64 (2 * 2 ^ 16 + 9))
  { s with fab := { s.fab with queues := [outItem, { outItem with port := 36, dst := 9 }] }, cores := [] }

theorem witness_relay : relayState.relayCell 0 35 = some (1, goodCell 8 true) ∧ wfld (relayState.cur (Reg.fabPReam 35 511)) 3 0 = 2 ∧
    wfld (relayState.cur (Reg.fabPReam 35 511)) 15 8 = 0 ∧ relayState.canSend 35 = true ∧ (relayState.portAt 35).txSeq = 0 ∧ (∀ i ∈ relayState.fab.queues, i.port ≠ 36) ∧
    ((sheetState 1 0 { Port.reset with trained := true, ctl := [cellFor 7 true] }).portAt 35).ctl = [cellFor 7 true] ∧
    (sheetState 1 0 { Port.reset with trained := true, ctl := [cellFor 7 true] }).canSend 35 = true ∧ (sheetState 1 0 Port.reset).portState 35 = 1 ∧
    ((sheetState 1 0 Port.reset).portAt 35).trained = false := by decide +kernel

theorem witness_config_resend : (sheetState 2 0 { busyPort with resend := [sentCell 1] }).portState 35 = 2 ∧ carries 2 (Cell.typ (sentCell 1)) = false ∧
    ((sheetState 2 0 { busyPort with resend := [sentCell 1] }).portAt 35).resend = [sentCell 1] ∧ carries 3 (Cell.typ (sentCell 1)) = true ∧ outItem.part = none ∧
    (∀ i ∈ (sheetState 2 0 busyPort).fab.queues, i.port ≠ 36) := by decide +kernel

theorem test_relay : yields (.sheet 35) relayState (fun t => (t.portAt 0).rx == [goodCell 7 true] && t.raw Reg.fabRelayed == 1) = true := by decide +kernel

theorem witness_self_release : selfState.fab.queues = [outItem] ++ { outItem with port := 36, dst := 9 } :: [] ∧ (∀ j ∈ [outItem], j.port ≠ 36) ∧ selfState.sflow 4095 63 63 = 1 ∧
    selfState.portState 35 = 0 ∧ selfState.cores = [] ∧ selfState.creditOf 4095 = 2 := by decide +kernel

theorem test_self_release : yields (.sheet 35) selfState (fun t => t.creditOf 4095 == 3 && t.fab.queues == [outItem]) = true := by decide +kernel

theorem witness_replays : (sheetState 2 0 { busyPort with resend := [sentCell 4095] }).portState 35 = 2 ∧ Cell.seq (sentCell 4095) = 4095 ∧
    ((sheetState 3 0 busyPort).portAt 35).replay ≠ [] ∧ ((sheetState 3 0 { busyPort with replays := 6 }).portAt 35).replays = 6 ∧
    ((sheetState 3 0 { busyPort with replays := 7 }).portAt 35).replays = 7 ∧ ((sheetState 3 0 Port.reset).portAt 35).replay = [] := by decide +kernel

/-- A warm start with a record of port 35 that the device reuses, and a job whose level has been raised. -/
def reuseState : State :=
  let s := (portState 1 Port.reset).putFld Reg.cfgStat 3 0 6
  { s with sys := { s.sys with train := { s.sys.train with ports := [(35, trainRecord 512 35 25 7)] } } }
def raisedState : State := ((portState 1 Port.reset).putFld Reg.fabJobstat 2 0 3).putFld Reg.fabLevel 11 8 2

theorem witness_trainings : reuseState.reuses 35 = true ∧ reuseState.portState 35 = 1 ∧ reuseState.waits = [] ∧ raisedState.portState 35 = 1 ∧
    raisedState.fld Reg.fabJobstat 2 0 = 3 ∧ raisedState.fab.jobLevel < raisedState.fld Reg.fabLevel 11 8 := by decide +kernel

def failing (n : Nat) : State := (portState 4 busyPort).putFld (Reg.fabPStat 35) 4 3 n

theorem witness_port_states : (portState 3 busyPort).portState 35 = 3 ∧ (portState 3 busyPort).phase = 7 ∧ (failing 1).portState 35 = 4 ∧ (failing 1).fld (Reg.fabPStat 35) 4 3 = 1 ∧
    (failing 2).fld (Reg.fabPStat 35) 4 3 = 2 ∧ (portState 1 Port.reset).portState 35 = 1 ∧ ((portState 0 Port.reset).putBit (Reg.fabPCtrl 35) 0 false).bit (Reg.fabPCtrl 35) 0 = false ∧
    (portState 3 busyPort).bit (Reg.fabPCtrl 35) 0 = true ∧ (portState 3 busyPort).sys.cfgApplied = true ∧
    (sheetState 3 0 Port.reset).fab.queues.any (fun i => i.stream == 15) = true ∧ idle0.fab.queues = [] ∧ idle0.fab.runs = [] := by decide +kernel

/-- Member 1 of the group takes its pages by send flow 7 of stream 15, and the engine waits for a slot credit for it. -/
def stallState : State :=
  let s := ((idle0.put (Reg.fabSflow 7 0) (BitVec.ofNat 64 (2 ^ 63 + 15 * 2 ^ 56))).put (Reg.snapPmem 1) (BitVec.ofNat 64 (2 ^ 63 + 7 * 2 ^ 16 + 8))).putFld Reg.snapPgrp 7 0 2
  { s with snap := { s.snap with wants := some 1 } }

theorem witness_stalls : stallState.sflow 7 59 56 = 15 ∧ 1 ∈ stallState.stalledOn 7 ∧ stallState.waits = [] := by decide +kernel

/-! ### The mill job -/

/-- A state of the job. -/
def jobState (job : Nat) (s : State) : State := s.putFld Reg.fabJobstat 2 0 job

/-- The header of an image at 0x80000 with one directory entry of 16 bytes, for device id 9 run by itself; its section has no bytes. -/
def imgDir (last : Nat) : List Byte := leBytes 2 9 ++ leBytes 2 9 ++ leBytes 4 272 ++ leBytes 4 0 ++ leBytes 4 last
def imgBytes (level : Nat) (last : Nat := 0) : List Byte :=
  leBytes 4 0x4C494D5A ++ leBytes 4 1 ++ leBytes 4 level ++ leBytes 4 1 ++ leBytes 8 272 ++ leBytes 4 256 ++ leBytes 4 1 ++ sha384 (imgDir last) ++ List.replicate 176 0 ++ imgDir last

def imgState (level : Nat) (last : Nat := 0) : State := ((portState 2 Port.reset).setBytes none 0 0x80000 (imgBytes level last)).put Reg.fabJobimg 0x80000

def emptySection : Section := ⟨[], [], [], [], [], [], [], [], []⟩
/-- Two branch groups, port 35, and receive flow 0 with one slot of 256 bytes at `base`. -/
def someSection (base : Nat := 0) : Section :=
  ⟨[2 ^ 50 - 1, 2 ^ 100 - 2 ^ 50], [35], [7], [0x80], [1], [], [BitVec.ofNat 64 (2 ^ 63 + 256), BitVec.ofNat 64 base, 1, 0], [], [⟨3, 9, none, [⟨0, 0, 4095, 0x83⟩]⟩]⟩

theorem witness_image : (imgState 1).imgHeader = 0 ∧ (imgState 3).imgHeader = 1 ∧ (imgState 1).fab.myIdSet = true ∧ (imgState 1).imgEntry 9 9 = some (272, 0) ∧
    (imgState 1).imgEntry 8 8 = none ∧ (imgState 1).fld Reg.fabJobstat 2 0 = 0 ∧ (imgState 1).phase = 7 ∧ ((imgState 1).put Reg.fabMyid 8).fld Reg.fabMyid 11 0 = 8 ∧
    (imgState 1).imgDirZero = true ∧ (imgState 1 5).imgHeader = 0 ∧ (imgState 1 5).imgDirZero = false ∧ (idle0.fab.myIdSet = false ∧ (portState 2 Port.reset).fab.myIdSet = true) := by decide +kernel

/-- What a section says is a free value; with one that is in range the image loads. -/
theorem witness_section (base : Nat) (h : readSection ((imgState 1).bytes none 0x80110 0) = some (someSection base)) : (imgState 1).imgSection 9 9 = some (someSection base) := by
  have e : (imgState 1).imgEntry 9 9 = some (272, 0) := witness_image.2.2.2.1
  have b : (imgState 1).fld Reg.fabJobimg 47 0 = 0x80000 := by decide +kernel
  have l : (272 + 0 : Nat) ≤ (imgState 1).img 16 8 := by decide +kernel
  simp only [State.imgSection, e, b, Option.bind_some]
  rw [if_pos l]
  exact h

/-- One that does not read: error 5. -/
theorem witness_no_section (h : readSection ((imgState 1).bytes none 0x80110 0) = none) : (imgState 1).imgSection 9 9 = none := by
  have e : (imgState 1).imgEntry 9 9 = some (272, 0) := witness_image.2.2.2.1
  have b : (imgState 1).fld Reg.fabJobimg 47 0 = 0x80000 := by decide +kernel
  have l : (272 + 0 : Nat) ≤ (imgState 1).img 16 8 := by decide +kernel
  simp only [State.imgSection, e, b, Option.bind_some]
  rw [if_pos l]
  exact h

/-- A spare in standby has a section without tables; its LMAX is 1 and the job's level 2. -/
theorem witness_spare_level : emptySection.standby = true ∧ (imgState 2).imgHeader = 0 ∧ ((imgState 2).putFld Reg.fabLevel 3 0 1).imgHeader = 0 ∧
    ((imgState 2).putFld Reg.fabLevel 3 0 1).fld Reg.fabLevel 3 0 < ((imgState 2).putFld Reg.fabLevel 3 0 1).img 8 4 ∧ ((imgState 2).putFld Reg.fabLevel 3 0 2).imgHeader = 0 ∧
    max (((imgState 2).putFld Reg.fabLevel 3 0 2).img 8 4) (((imgState 2).putFld Reg.fabLevel 3 0 2).fld Reg.fabLevel 11 8) = 2 ∧ ((imgState 2).putFld Reg.fabLevel 3 0 2).fld Reg.fabLevel 3 0 = 2 := by decide +kernel

theorem witness_section_checks : someSection.inRange = true ∧ (imgState 1).sectionPages someSection = true ∧ emptySection.inRange = true ∧ (imgState 1).sectionPages emptySection = true ∧
    (someSection (2 ^ 47)).inRange = true ∧ (imgState 1).sectionPages (someSection (2 ^ 47)) = false ∧ Section.inRange { emptySection with reams := [3] } = false ∧
    Section.inRange { emptySection with routes := [0x100] } = false ∧ Section.inRange { emptySection with rflows := [BitVec.ofNat 64 (2 ^ 63 + 256), 0, 0, 0] } = false := by
  decide +kernel

def startState (job level : Nat) : State :=
  let s := jobState job (portState 3 Port.reset)
  ({ s with fab := { s.fab with jobLevel := level, enabled := [35], millId := 77 } }).putFld Reg.fabLevel 3 0 1

/-- A job that runs with route 4095 patched. -/
def patched : State :=
  let s := (startState 3 1).put (Reg.fabRoute 4095) 0x83
  { s with fab := { s.fab with inForce := [⟨⟨0, 0, 4095, 0x83⟩, 0x81⟩] } }

theorem witness_start_stop : (startState 1 2).fld Reg.fabLevel 3 0 < (startState 1 2).fab.jobLevel ∧ (startState 6 1).fab.jobLevel ≤ (startState 6 1).fld Reg.fabLevel 3 0 ∧
    (startState 6 1).fld Reg.fabJobstat 2 0 = 6 ∧ (∀ q, q < 36 → (startState 6 1).portState q ≠ 2) ∧ (startState 6 1).fab.enabled = [35] ∧ (startState 6 1).fab.enabled.Nodup ∧ (startState 6 1).fab.millId ≠ 0 ∧ (startState 4 1).fabXfers = [] ∧
    (startState 4 1).fld Reg.fabJobstat 2 0 = 4 ∧ wfld (0x8000000000000009 : Word) 63 63 = 1 ∧ (startState 6 1).noCells = true ∧ (startState 6 1).sys.cfgApplied = true ∧
    (sheetState 3 0 Port.reset).streamBusy 15 = true ∧ (imgState 1).streamBusy 15 = false ∧ (startState 6 1).imgSection 9 0 = none ∧
    (∀ u ∈ (startState 6 1).fab.inForce, u.set.table < 3) ∧ (∀ q ∈ (startState 6 1).fab.enabled, q < 36) ∧ (patched.fab.inForce = [⟨⟨0, 0, 4095, 0x83⟩, 0x81⟩] ∧ patched.fabXfers = []) ∧
    patched.fld Reg.fabJobstat 2 0 = 3 := by decide +kernel

/-! ### Epochs and collectives -/

def seg0 (len : Nat) : Seg := ⟨64, len, true, 0, 0, []⟩
def coll (ep fmt accf : Nat) : Coll := ⟨4095, 0, fmt, accf, 15, 0, false, 0, ep, 4160, [0, 1], 0, [seg0 4096]⟩
def epochState (job mark : Nat) : State :=
  let s := jobState job idle0
  ({ s with fab := { s.fab with colls := [coll 5 0 0, { coll 9 0 0 with id := 7 }], marked := if mark = 0 then [] else [4095] } }).putBit (Reg.fabStrCtrl 15) 0 true
def holdAt (n : Nat) (s : State) : State := (s.putBit Reg.fabHold 63 true).putFld Reg.fabHold 31 0 n
def raiseAt (n l : Nat) (s : State) : State :=
  let s := ((s.putFld Reg.fabRaise 31 0 n).putFld Reg.fabRaise 35 32 l).putFld Reg.fabLevel 3 0 2
  { s with fab := { s.fab with raiseReq := true } }

theorem witness_epochs : (epochState 3 1).nextEpoch = some 5 ∧ (epochState 3 1).fld Reg.fabJobstat 2 0 = 3 ∧ (epochState 3 0).fab.marked = [] ∧
    ((epochState 3 1).fab.colls.all fun k => k.ep == 0 || decide (5 < k.ep) || (epochState 3 1).fab.marked.contains k.id) = true ∧
    (epochState 3 1).fab.patchReq = false ∧ (holdAt 5 (epochState 3 1)).bit Reg.fabHold 63 = true ∧ (holdAt 5 (epochState 3 1)).streamUsed 15 = true ∧
    (raiseAt 5 2 (epochState 3 1)).fab.raiseReq = true ∧ (raiseAt 5 2 (epochState 3 1)).fld Reg.fabLevel 11 8 < 2 ∧ (raiseAt 5 2 (epochState 3 1)).fld Reg.fabLevel 3 0 = 2 ∧
    idle0.nextEpoch = none := by decide +kernel

def patchState (recs : List PatchRec) (force : List PatchUndo) : State :=
  let s := jobState 1 idle0
  { s with fab := { s.fab with patches := [⟨3, 9, none, recs⟩], inForce := force } }

theorem witness_patches : let r : PatchRec := ⟨0, 0, 4095, 0x83⟩
    idle0.phase = 7 ∧ wfld (0x8000000000000005 : Word) 63 63 = 1 ∧ idle0.waits = [] ∧ (jobState 4 couchState).phase = 7 ∧ wfld (5 : Word) 63 63 = 0 ∧ (jobState 4 idle0).cores ≠ [] ∧
    (∀ c ∈ (jobState 4 idle0).cores, ∀ x ∈ c.2.work.hbq, x.begun = true ∨ (x.kind ≠ 1 ∧ x.kind ≠ 3)) ∧ (jobState 4 idle0).fld Reg.fabJobstat 2 0 = 4 ∧ (patchState [r] []).noCells = true ∧
    idle0.quietAt (wfld (0x300000000 : Word) 31 0) = false ∧ (patchState [r] []).quietAt (wfld (0x300000000 : Word) 31 0) = true ∧
    (patchState [r] []).fab.patches.find? (fun x => x.num == wfld (0x300000000 : Word) 47 32) = some ⟨3, 9, none, [r]⟩ ∧
    (patchState [] []).fab.patches.find? (fun x => x.num == wfld (0x400000000 : Word) 47 32) = none ∧ r.target = some (Reg.fabRoute 4095, [(63, 0)]) ∧
    (patchState [r] []).isPatched r = false ∧ (patchState [r] [⟨⟨0, 3, 4095, 0x81⟩, 0⟩]).isPatched r = true := by decide +kernel

/-- Logical cores 0 and 1 contribute 128 bytes and 4,096 more to a root without children; the result of both goes to core 1. -/
def collState (fmt accf : Nat) (runs : List CollRun) : State :=
  let s := jobState 3 (up.setBytes none 0 0x10040 ([0x3F800000, 0x40000000, 0x7F800000, 0xBF800000].flatMap (leBytes 4)))
  let s := s.setBytes none 0 0x20040 ([0x33800000, 0xBF800000, 0xFF800000, 0x3F800000].flatMap (leBytes 4))
  let x : CollIn := { coll := 4095, occ := 0, lcid := 1, src := 0x20000, dst := 0x30000, strm := false, wins := [], xid := 1, counted := false }
  { s with fab := { s.fab with colls := [{ coll 0 fmt accf with segs := [seg0 16] }], ins := [x, { x with lcid := 0, src := 0x10000, dst := 0, xid := 2 }], runs := runs } }
def collRun : CollRun := ⟨4095, 0, [], [], false, []⟩

theorem witness_collective_start : calmB (collState 0 2 []) = true ∧ (collState 0 2 []).collOf 4095 = some { coll 0 0 2 with segs := [seg0 16] } ∧
    (collState 0 2 []).fld Reg.fabJobstat 2 0 = 3 ∧ ([0, 1].all fun l => (collState 0 2 []).fab.ins.any fun i => i.coll == 4095 && i.occ == 0 && i.lcid == l) = true ∧
    (∃ g ∈ [seg0 16], 0 < g.slen) ∧ (collState 0 2 []).fab.runs = [] ∧ (jobState 4 (collState 0 2 [])).fld Reg.fabJobstat 2 0 = 4 := by decide +kernel

theorem witness_collective_chunk : (0 : Nat) < (seg0 16).chunks ∧ (seg0 16).root = true ∧ (seg0 16).child = [] ∧
    (collState 0 2 [collRun]).fab.runs.find? (fun r => r.coll == 4095 && !(r.up.contains (0, 0))) = some collRun ∧
    ((collState 0 2 [collRun]).inputs { coll 0 0 2 with segs := [seg0 16] } 0).map (·.lcid) = [0, 1] ∧
    (((collState 0 2 [collRun]).inputs { coll 0 0 2 with segs := [seg0 16] } 0).filter fun i => i.dst != 0).map (·.dst) = [0x30000] ∧ (collState 0 2 [collRun]).mem.errs = [] ∧
    ((seg0 16).chunk 0 0).len % collBytes 0 = 0 ∧ ((seg0 16).chunk 0 0).off = 64 ∧ ((seg0 16).chunk 0 0).len = 16 ∧
    (collState 0 2 [collRun]).checkPage none none .write (0x30000 + 64) = none := by decide +kernel

theorem witness_collective_places : (collState 0 2 [collRun]).InTiers (0x10000 + 64) 16 ∧ (collState 0 2 [collRun]).InTiers (0x20000 + 64) 16 ∧ (collState 0 2 [collRun]).InTiers (0x30000 + 64) 16 := by
  refine ⟨in_tiers _ _ _ ?_, in_tiers _ _ _ ?_, in_tiers _ _ _ ?_⟩ <;> decide +kernel

theorem test_collective_orders : yields (.collectiveChunk 4095 0 0) (collState 0 0 [collRun]) (fun t => t.num none 0x30044 4 == 0x3F800000 && t.num none 0x30048 4 == 0x7FC00000 &&
    t.num none 0x3004C 4 == 0) = true := by decide +kernel

/-! ### Host interface -/

/-- The interface enabled. -/
def hif : State := (idle0.put Reg.hifCtrl 1)

/-- Queue 15 enabled with vector 31 and 16 entries each way, submission entries at 0x10000 and completions at 0x20000 of host memory; `cmd` stands in
entry `head`, and `k` more commands wait behind it. -/
def queueState (head k : Nat) (cmd : List Nat) (q : HostQ) : State :=
  let s := hif.put (Reg.hifQCtrl 15) (BitVec.ofNat 64 (2 ^ 63 + 31 * 2 ^ 8 + 4 * 2 ^ 4 + 4))
  let s := ((s.put (Reg.hifQSqbase 15) 0x10000).put (Reg.hifQCqbase 15) 0x20000).put (Reg.hifQSqhead 15) (BitVec.ofNat 64 head)
  let s := (s.put (Reg.hifQSqtail 15) (BitVec.ofNat 64 ((head + k) % 16))).hostStore (0x10000 + 64 * head) (cmd.flatMap (leBytes 8))
  (s.setQueue 15 q)

def nopCmd : List Nat := [0x7A0000, 0, 0, 0, 0, 0, 0, 0]
def badCmd : List Nat := [0x7A0000, 0, 0, 0, 0, 0, 0, 1]
def copyIn : List Nat := [0x7A0001, 0x30000, 0x40001, 5, 0, 0, 0, 0]
def copyOut : List Nat := [0x7A0002, 0x40001, 0x30000, 5, 0, 0, 0, 0]
def coreStart (i n : Nat) : List Nat := [0x7A0003, i, n, 0, 0, 0, 0, 0]
def groupStopCmd (g : Nat) : List Nat := [0x7A0004, g, 0, 0, 0, 0, 0, 0]
def words (c : List Nat) : List Word := c.map (BitVec.ofNat 64)
def freeQ : HostQ := hostQReset 15
def atWork (c : List Nat) (ready : Bool) : HostQ := { freeQ with cmd := some (words c), status := 2, result := 9, ready := ready, head := 15 }
/-- Core 0 of the cluster has not started. -/
def notStarted (s : State) : State := s.setStateOf 0 0

theorem witness_queues : calmB (queueState 3 0 nopCmd freeQ) = true ∧ (queueState 3 0 nopCmd freeQ).phase = 7 ∧ (queueState 3 0 nopCmd freeQ).sqSize 15 = 16 ∧
    (queueState 3 0 nopCmd freeQ).cqSize 15 = 16 ∧ wfld (16 : Word) 15 0 = 16 ∧ wfld (15 : Word) 15 0 < 16 ∧ (queueState 3 0 nopCmd freeQ).bit (Reg.hifQCtrl 15) 63 = true ∧
    hif.bit (Reg.hifQCtrl 15) 63 = false ∧ (queueState 3 0 nopCmd freeQ).queueAt 15 = freeQ ∧ (queueState 3 0 nopCmd freeQ).fld (Reg.hifQSqhead 15) 15 0 = 3 ∧
    (queueState 3 0 nopCmd freeQ).hif.linkUp = true ∧ hif.bit Reg.hifCtrl 0 = true ∧ wfld (0x8000000000001F44 : Word) 63 63 = 1 ∧ wfld (0x8000000000001F44 : Word) 12 8 = 31 ∧
    wfld (0x8000000000001F44 : Word) 7 4 = 4 ∧ wfld (0x8000000000001F44 : Word) 3 0 = 4 := by decide +kernel

theorem witness_group_commands : cmdReserved (words (groupStopCmd 0)) = false ∧ cmdOpc (words (groupStopCmd 1)) = 4 ∧ idle0.fab.groups.length = 1 ∧ cmdArg (words (groupStopCmd 1)) 1 = 1 ∧
    cmdArg (words (groupStopCmd 0)) 1 = 0 ∧ (notStarted idle0).begunOf 0 = false := by decide +kernel

theorem witness_commands : cmdReserved (words badCmd) = true ∧ [nopCmd, copyIn, copyOut, coreStart 0 1].all (fun c => !cmdReserved (words c)) = true ∧
    [nopCmd, copyIn, copyOut, coreStart 0 1].map (fun c => cmdOpc (words c)) = [0, 1, 2, 3] ∧ 1200 < cmdArg (words (coreStart 1199 2)) 1 + cmdArg (words (coreStart 1199 2)) 2 ∧
    cmdArg (words (coreStart 0 1)) 2 = 1 ∧ cmdArg (words (coreStart 0 1)) 1 < 1200 ∧ (notStarted idle0).posOf 0 = some 0 ∧ (notStarted idle0).stateOf 0 = 0 ∧ (notStarted idle0).atRest 0 = true ∧ idle0.atRest 0 = false := by
  decide +kernel

theorem witness_completions : ((queueState 3 1 nopCmd (atWork nopCmd true)).queueAt 15).cmd = some (words nopCmd) ∧ ((queueState 3 1 nopCmd (atWork nopCmd true)).queueAt 15).head < 16 ∧
    (15 + 1) % 16 = (queueState 3 1 nopCmd (atWork nopCmd true)).fld (Reg.hifQCqhead 15) 15 0 ∧
    (15 + 1) % 16 ≠ ((queueState 15 1 copyIn (atWork copyIn false)).put (Reg.hifQCqhead 15) 7).fld (Reg.hifQCqhead 15) 15 0 ∧
    (15 + 1) % 16 = (queueState 15 1 copyIn (atWork copyIn false)).fld (Reg.hifQSqtail 15) 15 0 ∧ 0x20000 + 16 * 15 + 16 ≤ 2 ^ 64 ∧ 0x20000 + 16 * 15 + 16 ≤ 0x30000 ∧
    (queueState 15 1 copyIn (atWork copyIn false)).checkRange none none .write 0x40001 5 = none ∧ (queueState 15 1 copyIn (atWork copyIn false)).mem.errs = [] := by decide +kernel

theorem witness_copy_place : (queueState 15 1 copyIn (atWork copyIn false)).InTiers 0x40001 5 ∧ (queueState 15 1 copyIn (atWork copyIn false)).checkRange none none .read 0x40001 5 = none := by
  refine ⟨in_tiers _ _ _ ?_, ?_⟩ <;> decide +kernel

theorem test_copy_in_ends : yields (.commandCompletion 15) ((queueState 15 1 copyIn (atWork copyIn false)).put (Reg.hifQCqhead 15) 7 |>.hostStore 0x30000 [1, 2, 3, 4, 5]) (fun t =>
    t.bytes none 0x40000 7 == [0, 1, 2, 3, 4, 5, 0] && ofLe ((upto 8).map fun i => t.byteAt (.host 0 (0x200F0 + i))) == 0x7A + 15 * 2 ^ 16 + 2 ^ 48) = true := by decide +kernel

theorem witness_register_access : idle0.waits = [] ∧ Src.wf .host = true ∧ Src.wf (.core 1299) = true ∧ csrAccessWf .host 0x3FFFFFF 1 = true ∧ csrSizeOk 0x3FFFFFF 1 = false ∧
    csrAccessWf .host 0x100001 4 = true ∧ csrSizeOk 0x100001 4 = false ∧ idle0.phase = 7 ∧ State.reset.phase ≠ 7 ∧ rcMask Reg.hifEvt = 0 ∧ isCounter Reg.hifBadacc = true ∧
    (idle0.emit .memDone).hif.latch = none ∧
    (idle0.coreAt 0).arch.priv = true ∧ (idle0.coreAt 0).arch.flow.exc = none ∧ ((at0 addLeaf user).coreAt 0).arch.priv = false ∧ (0xFFF8 + 4 ≤ 0x10000 ∧ 0xFFC + 4 ≤ 0x1000) := by decide +kernel

/-- A core's access of a wrong size meets its exception before the next leaf; the pending vector fires when its mask is cleared. -/
theorem test_bad_core_access : yields (.rcRead (.core 0) 0x100001 4) idle0 (fun t => (t.coreAt 0).arch.flow.exc.map (·.code) == some 6) = true ∧
    yields (.rcRead (.core 0) 0x100000 8) (at0 addLeaf user) (fun t => (t.coreAt 0).arch.flow.exc.map (·.code) == some 2) = true ∧
    yields (.registerWrite .bar2 (16 * 31 + 12) 4 0) { idle0 with hif := { idle0.hif with mask := 0xFFFFFFFF, pend := 0x80000000 } } (fun t => t.hif.out == [.msix 31]) = true := by decide +kernel

theorem witness_latch : ({ idle0 with hif := { idle0.hif with latch := some (Reg.hifBadacc, 0x123456789) } }).hif.latch = some (Reg.hifBadacc, 0x123456789) := by decide +kernel

theorem test_partial_write : yields (.registerWrite .host (Reg.cluTcmp 99 11) 4 7) (idle0.put (Reg.cluTcmp 99 11) 0x123456789) (fun t =>
    t.raw (Reg.cluTcmp 99 11) == 0x100000007) = true := by decide +kernel

/-- Features accepted or in force, and a window of 256 MiB at 0x20000000. -/
def accept (n : Nat) (s : State) : State := s.put (Reg.devFeatAccept 0) (BitVec.ofNat 64 n)
def active (n : Nat) (s : State) : State := s.put (Reg.devFeatActive 0) (BitVec.ofNat 64 n)
def hdm (base size : Nat) (en : Bool) : State :=
  (((active 0x3F idle0).putFld Reg.hifHdmbase 40 28 base).putFld Reg.hifHdmsize 40 28 size).putBit Reg.hifHdmctl 0 en

theorem witness_window : (accept 1 idle0).bit (Reg.devFeatAccept 0) 0 = true ∧ (accept 1 idle0).anyBit 16 Reg.hifQCtrl 63 = false ∧
    (accept 1 idle0).anyBit 8 Reg.hifHwinCfg 3 = false ∧ (accept 1 idle0).bit Reg.hifHdmctl 0 = false ∧ (accept 0 idle0).bit (Reg.devFeatAccept 0) 0 = false ∧
    (hdm 2 1 false).feature 1 = true ∧ (2 + 1) * 2 ^ 28 ≤ (hdm 2 1 false).capBytes ∧ (hdm 8191 1 false).capBytes < (8191 + 1) * 2 ^ 28 ∧ (active 0 idle0).feature 1 = false ∧
    wfld (1 : Word) 0 0 = 1 ∧ calmB (hdm 2 1 true) = true ∧ (hdm 2 1 true).mem.errs = [] ∧ (hdm 2 1 true).windowAddr (2 ^ 28 - 3) 3 = some (3 * 2 ^ 28 - 3) ∧
    (hdm 2 1 true).windowAddr (2 ^ 28 - 3) 4 = none ∧ (hdm 2 1 true).checkRange none none .write (3 * 2 ^ 28 - 3) 3 = none ∧
    (hdm 2 1 true).checkRange none none .read (3 * 2 ^ 28 - 64) 64 = none := by decide +kernel

/-- With the page table on and no page mapped the window's check fails. -/
def hdmOff : State := (hdm 2 1 true).put Reg.memPatctl 0x2000001

theorem witness_window_place : (hdm 2 1 true).InTiers (3 * 2 ^ 28 - 64) 64 ∧ 3 * 2 ^ 28 ≤ (hdm 2 1 true).capBytes ∧ hdmOff.windowAddr 0 4 = some (2 * 2 ^ 28) ∧
    (hdmOff.checkRange none none .read (2 * 2 ^ 28) 4).isSome = true ∧ (hdmOff.checkRange none none .write (2 * 2 ^ 28) 4).isSome = true := by
  refine ⟨in_tiers _ _ _ ?_, ?_, ?_, ?_, ?_⟩ <;> decide +kernel

def spdmAt (n : Nat) (s : State) : State := { s with hif := { s.hif with spdm := n } }

theorem witness_link : (active 0x10 idle0).feature 4 = true ∧ idle0.feature 4 = false ∧ (queueState 3 0 nopCmd freeQ).bit (Reg.hifQCtrl 15) 63 = true ∧
    ((queueState 3 0 nopCmd freeQ).queueAt 15).stopped = false ∧ Sparse.wf coreReset (queueState 3 0 nopCmd freeQ).cores = true ∧ (spdmAt 5 (active 8 idle0)).hif.spdm = 5 ∧
    (spdmAt 5 (active 8 idle0)).feature 3 = true ∧ (spdmAt 5 idle0).feature 3 = false ∧ 3 ≤ (spdmAt 3 idle0).hif.spdm ∧ idle0.hif.spdm = 0 ∧ idle0.hif.sess = none := by decide +kernel

/-- A session as its keys stand after KEY_EXCHANGE. -/
def session0 : SpdmSess := ⟨[1], List.replicate 48 2, List.replicate 44 3, List.replicate 44 4, 0, 0⟩
def sessionAt (n : Nat) : State := { (active 8 idle0) with hif := { idle0.hif with spdm := n, sess := some session0 } }

/-- A record sealed under the session's request key opens; one that is too short for its tag does not. -/
theorem witness_session : (sessionAt 4).hif.spdm = 4 ∧ (sessionAt 5).hif.sess = some session0 ∧ (sessionAt 5).feature 3 = true ∧
    gcmOpen (session0.reqKey.take 32) (spdmNonce (session0.reqKey.drop 32) 0) (gcmSeal (session0.reqKey.take 32) (spdmNonce (session0.reqKey.drop 32) 0) [1, 2, 3]) = some [1, 2, 3] ∧
    gcmOpen (session0.reqKey.take 32) (spdmNonce (session0.reqKey.drop 32) 0) [1, 2, 3] = none := by decide +kernel

/-- A share of the requester, as its message may hold it. -/
theorem witness_key_exchange (body z : List Byte) (h : ecdh (drawScalar (spdmAt 3 idle0).draw.1) (Config.spdmShare body) = some z) :
    3 ≤ (spdmAt 3 idle0).hif.spdm ∧ ecdh (drawScalar (spdmAt 3 idle0).draw.1) (Config.spdmShare body) = some z := ⟨by decide +kernel, h⟩

/-- The proof of FINISH, and the share of KEY_EXCHANGE, as the messages may hold them. -/
theorem witness_finish (body : List Byte) (h : Config.spdmProof body = hmac384 session0.finKey (sha384 session0.trans)) :
    (sessionAt 4).hif.spdm = 4 ∧ Config.spdmProof body = hmac384 session0.finKey (sha384 session0.trans) := ⟨rfl, h⟩

/-! ### Start-up, resets and settings -/

theorem witness_power : State.reset.waits = [] ∧ State.reset.sys.mainGood = false ∧ State.reset.sys.cutoff = false ∧ up.sys.mainGood = true ∧ (9 : Nat) ≤ 9 % 16 ∧ (3 : Nat) % 4 = 3 ∧
    ({ State.reset with sys := { Sys.reset with cutoff := true } }).sys.cutoff = true := by decide +kernel

/-- Records that the MRAM holds, of the last unit of each kind. -/
def trainedState : State :=
  { State.reset with sys := { Sys.reset with
      train := ⟨[(1279, trainRecord 128 1279 25 7)], [(35, trainRecord 512 35 (-5) 8)], [(169, trainRecord 64 169 60 9)]⟩, arb := [(4 * 7 + 3, crcRow 12)] } }

theorem witness_tears : trainOk 128 (trainedState.sys.train.chan 1279) = true ∧ trainOk 512 (trainedState.sys.train.port 35) = true ∧
    trainOk 64 (trainedState.sys.train.island 169) = true ∧ rowOk (trainedState.arbRow 7 3) = true ∧ trainTemp (trainedState.sys.train.port 35) = -5 ∧ trainedState.arbValue 7 = 12 ∧
    trainOk 128 (State.reset.sys.train.chan 0) = false ∧ trainedState.waits = [] := by decide +kernel

/-- A write of the boot record, and a STORE, are under way when the reset comes. -/
theorem witness_cut : let s := { up with sys := { up.sys with lastWrite := some (.boot, up.sys.time), storeReq := some [] } }
    s.writesNow 0 = [.userHalf 0, .boot] ∧ s.writesNow 0 ≠ [] ∧ s.sys.mainGood = true ∧ s.waits = [] ∧ (State.reset).writesNow 0 = [] := by decide +kernel

theorem test_tear_leaves_no_record : (let t := trainedState.torn (.island 169); !(trainOk 64 (t.sys.train.island 169)) && trainOk 128 (t.sys.train.chan 1279)) = true ∧
    ({ trainedState with sys := { trainedState.sys with lastWrite := some (.counter 7 0, 0) } }).writesNow 6 = [.counter 7 2] ∧ trainedState.writesNow 0 = [] := by
  decide +kernel

/-- A device at the end of a phase, with the straps and what the layers have done. -/
def atPhase (ph straps : Nat) (applied : Bool) : State :=
  let s := { State.reset with sys := { Sys.reset with mainGood := true, standby := true, clockRuns := true, fwRuns := true, cfgApplied := applied } }
  (s.putFld Reg.cfgStat 3 0 ph).put Reg.cfgStraps (BitVec.ofNat 64 straps)

/-- A configuration image of 256 bytes without records in flash slot 1, unsigned. -/
def cfgImage : List Byte :=
  leBytes 4 0x4746434C ++ leBytes 4 1 ++ leBytes 4 256 ++ leBytes 4 7 ++ leBytes 4 0 ++ leBytes 4 0xFFFFFFFF ++ leBytes 4 256 ++ leBytes 4 0 ++ sha384 [] ++ List.replicate 176 0

def flashState (bs : List Byte) : State :=
  let s := atPhase 0 0 false
  { s with mem := { s.mem with flash := (upto bs.length).foldl (fun m i => Sparse.set zeroByte m (0x1000000 + i) (bs.getD i 0)) [] } }

theorem witness_phases : (atPhase 0 0x40 false).phase = 0 ∧ (atPhase 0 0x40 false).fld Reg.cfgStraps 6 6 = 1 ∧ (atPhase 0 0 false).fld Reg.cfgStraps 6 6 = 0 ∧
    (atPhase 0 0 false).fld Reg.cfgStraps 5 4 = 0 ∧ (atPhase 0 0 false).masters = [] ∧ (atPhase 1 0 true).phase = 1 ∧ (atPhase 1 0 true).sys.cfgApplied = true ∧
    (atPhase 2 0 true).phase = 2 ∧ (atPhase 2 0 true).logWords = [] ∧ (atPhase 2 0 true).mem.dead = [] ∧ (atPhase 3 0 true).phase = 3 ∧ (atPhase 4 0 true).phase = 4 ∧
    (atPhase 5 0 true).phase = 5 ∧ (atPhase 1 0x20 false).fld Reg.cfgStraps 5 4 = 2 ∧ (atPhase 1 0x20 false).phase ≤ 1 ∧ (atPhase 6 0 true).phase = 6 ∧
    (∀ p, p < 36 → (atPhase 5 0 true).portState p ≠ 1) ∧ ((atPhase 5 0 true).putFld (Reg.fabPStat 35) 2 0 1).portState 35 = 1 ∧ (atPhase 0 0x20 false).fab.imgCells = 0 := by decide +kernel

/-- Two ports have heard the exchange of a master; an island and a channel have stored values to go on with at a warm start, and others have not. -/
def twoMasters : State :=
  let s := atPhase 0 0 false
  { s with fab := { s.fab with ports := [(0, { Port.reset with peerSeen := true, peerRaw := 0xF011 }), (35, { Port.reset with peerSeen := true, peerRaw := 0xF012 })] } }
def warmState (ph : Nat) : State := { (atPhase ph 0 true).putBit Reg.cfgStat 7 false with sys := { (atPhase ph 0 true).sys with train := trainedState.sys.train } }

theorem witness_masters : 2 ≤ twoMasters.masters.length ∧ twoMasters.phase = 0 ∧ twoMasters.sys.cfgApplied = false := by decide +kernel

theorem witness_warm : (warmState 1).recalibrates [] 169 = false ∧ (warmState 1).recalibrates [169] 169 = true ∧ (warmState 1).recalibrates [] 0 = true ∧
    (warmState 2).restores (List.replicate 20 45) [] 1279 = true ∧ (warmState 2).restores (List.replicate 20 46) [] 1279 = false ∧ (warmState 2).logWords = [] := by decide +kernel

theorem witness_no_failed_position : ∀ k, k < 1300 → (atPhase 4 0 true).isFailed k = false := by
  intro k hk
  have : (upto 1300).all (fun k => !(atPhase 4 0 true).isFailed k) = true := by decide +kernel
  simpa using List.all_eq_true.mp this k (by simpa [upto] using hk)

theorem witness_slots : (atPhase 0 0 false).chooseSlot.2.1 = none ∧ (flashState cfgImage).chooseSlot.2.1 = some 1 := by decide +kernel

def storeState (busy : Bool) : State :=
  let s := idle0.putBit Reg.cfgStore 2 busy
  let s := s.putFld Reg.pwrTlim 7 0 80
  { s with sys := { s.sys with userA := userHalf 6 [], storeReq := if busy then some [⟨3, 1, 1⟩] else none } }

theorem witness_settings : (storeState false).waits = [] ∧ (storeState false).bit Reg.cfgStore 2 = false ∧ (storeState false).phase = 7 ∧ (storeState true).bit Reg.cfgStore 2 = true ∧
    State.reset.bit Reg.cfgStore 2 = false ∧ State.reset.phase ≠ 7 ∧ (storeState false).storeRecs.length ≤ 2728 ∧ (storeState true).sys.storeReq = some [⟨3, 1, 1⟩] ∧
    (storeState true).sys.fwRuns = true ∧ (storeState true).activeHalf = some (0, userHalf 6 []) ∧ headGen (userHalf 6 []).head + 1 < 2 ^ 32 ∧
    2728 < (List.replicate 2729 (⟨3, 1, 1⟩ : SetRec)).length ∧ State.reset.activeHalf = none := by decide +kernel

def stepOf (k : Nat) : State := (idle0.putFld Reg.pwrStat 3 0 8).modClu 99 fun x => { x with clock := { x.clock with step := k } }
def govState (step cap ticks : Nat) (govern : Bool) : State :=
  let s := ((stepOf step).putFld Reg.pwrStat 3 0 cap).putBit Reg.pwrStat 8 govern
  { s with sys := { s.sys with govTicks := ticks, govServe := ticks } }

theorem witness_power_management : up.sys.lowSpell = false ∧ (stepOf 10).sys.mainGood = true ∧ ((stepOf 0).cluAt 99).clock.step = 0 ∧ (stepOf 0).wantedStep 99 ≠ 0 ∧
    (stepOf ((stepOf 0).wantedStep 99)).wantedStep 99 = ((stepOf ((stepOf 0).wantedStep 99)).cluAt 99).clock.step ∧ (govState 5 9 2000 true).bit Reg.pwrStat 8 = true ∧
    (govState 5 9 2000 true).sys.govLower + 10 ≤ 2001 ∧ (govState 5 9 2000 true).sys.govRaise + 1000 ≤ 2001 ∧ (govState 5 9 2000 true).fld Reg.pwrStat 3 0 = 9 ∧
    0 < (govState 5 9 2000 true).fld Reg.pwrLimit 11 0 ∧ 10 * (govState 5 9 2000 true).fld Reg.pwrLimit 39 32 < (govState 5 9 2000 true).fld Reg.pwrLimit 11 0 ∧
    (govState 5 9 2000 false).bit Reg.pwrStat 8 = false ∧ (atPhase 4 0 true).phase ≠ 7 ∧ 0 < idle0.fld Reg.pwrTlim 7 0 := by decide +kernel

def noStandby (s : State) : State := { s with sys := { s.sys with standby := false } }

/-- Samples of a governor at STEP 9: a peak, a hot average, a cool one, one that TELEM = 0 or GOVEN = 0 meets, and one without standby or main power. -/
theorem witness_governor : let s := govState 5 9 2000 true
    let w := s.fld Reg.pwrLimit 11 0
    s.sys.standby = true ∧ s.sys.mainGood = true ∧ s.bit Reg.pwrCtrl 0 = true ∧ s.waits = [] ∧ s.sys.govPeak + 10 ≤ s.sys.govTicks + 1 ∧
    (w + 10 * s.fld Reg.pwrLimit 47 40) * 1000 < 4000000 ∧ w * 1000 < average 100 (lastOf 1000 (s.sys.power ++ [3200000])) ∧
    average 100 (lastOf 1000 (s.sys.power ++ [1000])) ≤ w * 1000 ∧ average 1000 (lastOf 1000 (s.sys.power ++ [1000])) + 10 * s.fld Reg.pwrLimit 39 32 * 1000 < w * 1000 ∧
    average 100 (lastOf 1000 (s.sys.power ++ [2999000])) ≤ w * 1000 ∧ w * 1000 ≤ average 1000 (lastOf 1000 (s.sys.power ++ [2999000])) + 10 * s.fld Reg.pwrLimit 39 32 * 1000 ∧
    (s.putBit Reg.pwrCtrl 0 false).bit Reg.pwrCtrl 0 = false ∧ (noStandby s).sys.standby = false ∧
    ({ s with sys := { s.sys with mainGood := false } }).sys.mainGood = false ∧ (govState 5 9 2000 false).sys.govServe + 1 ≥ 1000 ∧ (govState 5 9 20 false).sys.govServe + 1 < 1000 ∧
    ({ s with sys := { s.sys with govPeak := 1995 } }).sys.govPeak + 10 > 2001 := by decide +kernel

/-! ### Snapshots -/

/-- A generation that is being drained, with reel page 5 and felt page 0 in its set. -/
def snapGen (pages : List (Nat × Memory)) (done : Bool) : Gen :=
  { gen := 3, complete := done, step := 7, time := 0, millId := 0, set := [5, feltBase / pageBytes], pages := pages, record := List.replicate 2437 1 }
def snapState (x : Snap) : State :=
  let s := { State.reset with sys := { Sys.reset with mainGood := true, standby := true, clockRuns := true, fwRuns := true, cfgApplied := true }, snap := x }
  let s := { s with mem := { Mem.reset with isOpen := true, tiers := [(5 * pageBytes + pageBytes - 1, 0xA5)] } }
  let s := (s.putFld Reg.cfgStat 3 0 7).putFld Reg.memCapacity 31 0 64
  (s.put Reg.snapPgrp 0).put Reg.snapPool (BitVec.ofNat 64 (8 * pageBytes + 2))

theorem witness_protection : let s := { oneCluster (snapState { Snap.reset with now := true, ended := [0] }) with hif := { HostIf.reset with linkUp := true } }
    s.waits = [] ∧ s.phase = 7 ∧ s.clustersOf (s.fld Reg.snapCfg 19 16) = [0] ∧ 0 ∈ s.snap.ended ∧ ((upto 100).all fun c => s.calPhase c == 0) = true ∧ s.snap.cur = none ∧
    s.snapCheck s.snapSet.length = 0 ∧ (s.put Reg.snapPool 0).snapCheck (s.put Reg.snapPool 0).snapSet.length = 1 := by decide +kernel

/-- A snapshot that is not due: no step count asked for. -/
theorem witness_not_due : let s := { oneCluster (snapState { Snap.reset with ended := [0] }) with hif := { HostIf.reset with linkUp := true } }
    s.snap.now = false ∧ s.fld Reg.snapCfg 15 0 = 0 ∧ s.clustersOf (s.fld Reg.snapCfg 19 16) = [0] ∧ 0 ∈ s.snap.ended := by decide +kernel

theorem witness_pool_copy : let s := snapState { Snap.reset with cur := some (snapGen [] false), prot := [5], copying := [5], pool := [(9, 0)] }
    5 ∈ s.snap.copying ∧ (upto (s.fld Reg.snapPool 15 0)).find? (fun i => !(s.snap.pool.any fun x => x.2 == i)) = some 1 ∧ s.mem.errs = [] ∧ Memory.wf s.mem.tiers = true ∧
    s.csr.all (fun p => noWindow p.1 p.2) = true ∧ s.mem.bankq = [] ∧ s.mem.parked = [] := by
  decide +kernel

theorem witness_drain_generation : (snapState { Snap.reset with cur := some (snapGen [] false), prot := [5] }).snap.cur = some (snapGen [] false) := rfl

theorem witness_drain : let s := snapState { Snap.reset with cur := some (snapGen [] false), prot := [5] }
    s.snap.todo = [] ∧ s.fld Reg.snapPgrp 4 0 = 0 ∧ s.mem.errs = [] ∧ Memory.wf s.mem.tiers = true ∧ s.snap.pool = [] ∧ s.snap.copying = [] ∧
    s.csr.all (fun p => noWindow p.1 p.2) = true ∧ s.mem.bankq = [] ∧ s.mem.parked = [] ∧ s.snap.prot = 5 :: [] ∧ s.snap.sending = none ∧ s.others = [] ∧ (snapState { Snap.reset with cur := some (snapGen [] false) }).snap.prot = [] ∧ (snapGen [] false).gen < 2 ^ 32 := by decide +kernel

/-- A group of two; its member 1 is reached by send flow 7 and, when `port` is a port, the route of device id 8. -/
def groupState (credit gone : Nat) (route : Bool) : State :=
  let s := snapState { Snap.reset with cur := some (snapGen [] false), prot := [5], gaveUp := if gone = 1 then [1] else [] }
  let s := ((s.putFld Reg.snapPgrp 4 0 2).putFld Reg.snapPgrp 31 16 1).put (Reg.snapPmem 1) (BitVec.ofNat 64 (2 * 2 ^ 32 + 7 * 2 ^ 16 + 8))
  let s := (s.put (Reg.fabSflow 7 0) (BitVec.ofNat 64 (2 ^ 63 + 15 * 2 ^ 56 + 3 * 2 ^ 44 + 8 * 2 ^ 32 + 2 ^ 21))).put (Reg.fabSflow 7 1) (BitVec.ofNat 64 (credit * 2 ^ 16 + 9))
  if route then (s.put (Reg.fabRoute 8) 0xA3).putFld (Reg.fabPStat 35) 2 0 3 else s

theorem witness_partners : let s := groupState 2 0 true
    s.others = [1] ∧ s.partner (snapGen [] false) 5 = 1 ∧ s.sendFlow 1 = 7 ∧ s.isGone 1 = false ∧ s.unreachable 1 = false ∧ s.sflow 7 63 63 = 1 ∧ s.creditOf 7 = 2 ∧ s.isHeld = false ∧
    s.routeOf 8 = some 35 ∧ (groupState 2 1 true).isGone 1 = true ∧ (groupState 2 0 false).unreachable 1 = true ∧ (groupState 2 0 false).isGone 1 = false := by decide +kernel

/-- One page of the generation is stored, and a window to host memory covers SNAP.SHWIN. -/
def sharing (link : Bool) : State :=
  let s := snapState { Snap.reset with gens := [snapGen [(5, [(7, 1)])] true], share := [3, 4] }
  ({ s with hif := { s.hif with linkUp := link } }.put (Reg.hifHwinDev 0) 0x800000000000).put (Reg.hifHwinSize 0) 0x400000 |>.put (Reg.hifHwinCfg 0) 0xF |>.put Reg.snapShwin 0x800000000000

theorem witness_share_generation : (sharing true).snap.gens.find? (fun g => g.gen == 3 && g.complete) = some (snapGen [(5, [(7, 1)])] true) := rfl

theorem witness_share : (sharing false).hif.linkUp = false ∧ (sharing true).snap.share = 3 :: [4] ∧ (sharing true).hif.linkUp = true ∧ (sharing true).snap.cur = none ∧
    Memory.wf [(7, (1 : Byte))] = true ∧ 7 < pageBytes ∧
    (sharing true).hostAddr ((sharing true).fld Reg.snapShwin 47 21 * pageBytes) = some 0 := by decide +kernel

/-- No address past the first page of the share window reaches the host memory of that page. -/
theorem witness_share_window : ∀ x w a, 0x800000000000 + pageBytes ≤ x → (sharing true).locate none x = .host w a → a < 0 ∨ 0 + pageBytes ≤ a := by
  intro x w a hx hl
  have off : (upto 8).all (fun n => decide (n = 0) || !(sharing true).bit (Reg.hifHwinCfg n) 3) = true := by decide +kernel
  have dev : (sharing true).fld (Reg.hifHwinDev 0) 47 21 * 2 ^ 21 = 0x800000000000 := by decide +kernel
  have host : (sharing true).fld (Reg.hifHwinHost 0) 63 21 = 0 := by decide +kernel
  have only : ∀ n, (sharing true).hostWin x = some n → n = 0 := by
    intro n hn
    have hm := List.mem_of_find?_eq_some hn
    have hb := List.find?_some hn
    have := List.all_eq_true.mp off n hm
    simp only [Bool.and_eq_true] at hb
    simpa [hb.1] using this
  simp only [State.locate] at hl
  repeat' split at hl
  all_goals first
    | (cases hl; done)
    | skip
  cases hl
  rename_i n hn
  cases only _ hn
  simp only [host, dev]
  right
  simp only [pageBytes] at hx ⊢
  omega

/-- A generation with the manifest that a device gave it. -/
def keptGen : Gen := { snapGen [(5, [(7, 1)])] true with manifest := State.reset.manifestOf (snapGen [(5, [(7, 1)])] true) }

theorem witness_manifest : ∃ x : State, keptGen.manifest = x.manifestOf keptGen := ⟨State.reset, by simp only [keptGen, State.manifestOf]⟩

theorem witness_kept_generation : (snapState { Snap.reset with gens := [keptGen], restore := some (0, 3) }).snap.gens.find? (fun g => g.gen == 3 && g.complete) = some keptGen ∧
    keptGen.pages = [(5, [(7, 1)])] ∧ keptGen.record.length = 2437 := ⟨rfl, rfl, by decide +kernel⟩

def idleRestore (mo gen : Nat) : State := snapState { Snap.reset with gens := [snapGen [(5, [(7, 1)])] true], restore := some (mo, gen) }

/-- The page table at reel page 16 maps reel page 5. -/
def mapped (s : State) : State := (s.put Reg.memPatctl 0x2000001).setBytes none 0 (0x2000000 + 8 * 5) (leBytes 8 1)

theorem witness_restore : wfld (BitVec.ofNat 64 (2 ^ 63 + 3)) 63 63 = 1 ∧ wfld (BitVec.ofNat 64 (2 ^ 63 + 3)) 49 48 ≤ 2 ∧
    (snapState Snap.reset).fld Reg.fabJobstat 2 0 = 0 ∧ (snapState Snap.reset).snap.started = false ∧ (snapState { Snap.reset with started := true }).snap.started = true ∧
    (idleRestore 0 4).snap.gens.find? (fun g => g.gen == 4 && g.complete) = none ∧ (snapGen [] true).record.length = 2437 ∧ 5 * pageBytes < 2 ^ 64 ∧
    (mapped (idleRestore 0 3)).pageMapped (5 * pageBytes) = true ∧ Memory.wf (mapped (idleRestore 0 3)).mem.tiers = true ∧ (mapped (idleRestore 0 3)).sys.cfgApplied = true ∧
    (mapped (idleRestore 0 3)).csr.all (fun p => noWindow p.1 p.2) = true ∧ (mapped (idleRestore 0 3)).mem.bankq = [] ∧ (mapped (idleRestore 0 3)).mem.parked = [] := by
  decide +kernel

/-! ### The tender -/

def sess : Sess := { slot := 3, sid := 77, cred := 0, role := 2, kmac := [1, 2, 3], seq := 9, resp := [4, 5], sub := some (0, 1), census := false, acked := 0, evSeq := 1 }
def tenderState (x : Tender) : State := { idle0 with tender := x }
def open1 : State := tenderState { Tender.reset with sessions := [sess] }

theorem witness_datagrams : State.reset.sys.fwRuns = false ∧ open1.sys.standby = true ∧ open1.netAddr + 1 ≠ open1.netAddr ∧ open1.tender.pending.find? (fun y => y.sid == 77) = none ∧
    sess.sid < 2 ^ 32 ∧ open1.waits = [] ∧ open1.sys.fwRuns = true ∧ (List.replicate 47 (0 : Byte)).length < 48 ∧ open1.tender.pending.length < 4 ∧
    open1.tender.sessions.find? (fun y => y.sid == 77) = some sess ∧ (0x15 : Word) &&& 0x3F ≠ 0 ∧ 9 < 10 ∧ 2 ≤ sess.role ∧ open1.phase = 7 := by decide +kernel

/-- The tender before its firmware, or on trial, or with an activation held. -/
def bootState (fw trial pend ready : Bool) (job : Nat) : State :=
  let s := jobState job (tenderState { Tender.reset with boot := ⟨true, 1, ready, trial, none⟩, sessions := [sess] })
  { s with sys := { s.sys with fwRuns := fw } }.putBit Reg.secBoot 1 pend

theorem witness_boot : (bootState false false false false 0).sys.fwRuns = false ∧ (bootState false false false false 0).sys.held = false ∧
    (bootState false false false false 0).sys.clockRuns = true ∧ (bootState false false false false 0).tender.boot.advance = none ∧ (bootState false false false false 0).tender.boot.active ≤ 1 ∧
    (bootState true true false false 0).tender.boot.trial = true ∧ (bootState true false true true 0).bit Reg.secBoot 1 = true ∧ (bootState true false true true 0).tender.boot.ready = true ∧
    (bootState true false true true 0).jobRuns = false ∧ (bootState true false true true 3).jobRuns = true ∧ (bootState false false false false 0).sys.standby = true ∧
    (bootState false false false false 0).bit Reg.secBoot 4 = false ∧ (bootState true false true true 0).phase = 7 ∧ (bootState true false true true 0).bit Reg.cfgStore 2 = false ∧
    (bootState true false true true 0).bit Reg.memSurreq 63 = false ∧ (bootState true false true true 0).bit Reg.memSurstat 2 = false ∧
    (bootState true false true true 0).snap.restore = none ∧ (bootState false false false false 0).tender.boot.ok = true := by decide +kernel

/-- A boot record that does not check, and one with an advance of counter 7 to carry out. -/
def boots (ok : Bool) (adv : Option (Nat × Nat)) : State :=
  let s := bootState false false false false 0
  { s with tender := { s.tender with boot := ⟨ok, 1, false, false, adv⟩ } }

theorem witness_boot_record : (boots false none).tender.boot.ok = false ∧ (boots true (some (7, 2 ^ 32 - 1))).tender.boot.advance = some (7, 2 ^ 32 - 1) ∧
    (boots false none).sys.clockRuns = true ∧ (boots false none).sys.held = false := by decide +kernel

/-- A STORE that comes while the tender restarts is answered with status 4 once the firmware runs. -/
theorem test_store_waits : yields (.datagramReceive ⟨datagram none 0 77 5 0x23 0 [], (bootState false false false false 0).netAddr,
    (bootState false false false false 0).fld Reg.secNet 15 0, 0, 0, 0⟩) (bootState false false false false 0) (fun t => decide (t.tender.storeAsks = [(77, 5)])) = true := by decide +kernel

theorem test_boot_record_fails : yields .bootRomRun (boots false none) (fun t => t.bit Reg.secBoot 4 && !t.sys.fwRuns) = true := by decide +kernel

def cred0 : Cred := { role := 3, isKey := false, key := [], salt := [], iters := 1, fails := 5, locked := true }
/-- Three records stand in the ring, the second of them below the severity that the session asks for. -/
def owing : State :=
  let s := open1.put Reg.relEvhead 3
  ((s.put (Reg.relRing 0 0) 0x0102).put (Reg.relRing 1 0) 0x0001).put (Reg.relRing 2 0) 0x0202

theorem witness_events : (tenderState { Tender.reset with creds := [(2, cred0)] }).cred 2 = some cred0 ∧ (tenderState { Tender.reset with creds := [(2, cred0)] }).cred 3 = none ∧
    owing.tender.sessions = [sess] ∧ owing.owedEvents sess = [0, 2] ∧ (Sparse.get ceReset idle0.ce (ceKey 3 5)).isOpen = false := by decide +kernel

def ceState (n : Nat) : State := { idle0 with ce := [(ceKey 3 5, ⟨n, true, 7, 8, 9⟩)] }

theorem witness_periods : (Sparse.get ceReset (ceState 0).ce (ceKey 3 5)).isOpen = true ∧ (Sparse.get ceReset (ceState 0).ce (ceKey 3 5)).count = 0 ∧
    0 < (Sparse.get ceReset (ceState 4).ce (ceKey 3 5)).count := by decide +kernel

/-- Records 1 and 2 have not been read over SMBus. -/
def smbState : State := tenderState { Tender.reset with unread := [1, 2] }
def recovery (fw : Bool) : State := (bootState fw false false false 0).putBit Reg.secBoot 4 true

theorem witness_ports : idle0.waits = [] ∧ (idle0.coreAt 0).arch.priv = true ∧ ((at0 addLeaf user).coreAt 0).arch.priv = false ∧ ((at0 addLeaf user).coreAt 0).arch.flow.exc = none ∧
    idle0.sys.standby = true ∧ smbState.sys.standby = true ∧ smbState.bit Reg.secBoot 4 = false ∧ (recovery true).sys.standby = true ∧ (recovery false).sys.standby = true ∧
    (recovery false).bit Reg.secBoot 4 = true ∧ (noStandby idle0).sys.standby = false ∧ idle0.lcidOf 0 = 0 ∧ idle0.lcidOf 12 ≠ 11 ∧ idle0.bit (Reg.secMboxOut 0) 63 = false ∧
    (idle0.putBit (Reg.secMboxOut 0) 63 true).bit (Reg.secMboxOut 0) 63 = true ∧ smbState.unread = 1 :: [2] ∧ idle0.unread = [] ∧ idle0.tender.creds = [] ∧
    (idle0.putBit Reg.secPolicy 0 true).bit Reg.secPolicy 0 = true ∧ (tenderState { Tender.reset with creds := [(2, cred0)] }).tender.creds ≠ [] ∧
    (recovery true).bit Reg.secBoot 4 = true ∧ (List.replicate 32 (1 : Byte)).length = 32 ∧ 1572832 + 32 ≤ 1572864 ∧ idle0.bit Reg.secBoot 4 = false ∧
    (recovery false).sys.fwRuns = false ∧ (recovery false).sys.held = false ∧ (recovery false).sys.clockRuns = true ∧ (recovery false).tender.boot.advance = none := by decide +kernel

/-- Full scan by JTAG stops what runs in the clusters that it reaches. -/
theorem test_jtag_scan : ∀ code, code ≠ Config.jtagIdcodeCode → code ≠ Config.jtagBypassCode →
    (∀ c ∈ [0, 99], c < 100) ∧ ((idle0.putFld Reg.secDbg 2 0 4).bit Reg.secDbg 2 = true ∧ (idle0.putFld Reg.secDbg 2 0 4).stateOf 0 = 1) := by
  intro code _ _; decide +kernel

theorem witness_watermark_windows : (idle0.putBit (Reg.relWmwDbase 15) 63 true).bit (Reg.relWmwDbase 15) 63 = true ∧ idle0.bit (Reg.relWmwDbase 15) 63 = false ∧ idle0.phase = 7 ∧
    wfld (0x8000000000070000 : Word) 63 63 = 1 := by decide +kernel

/-! ### Reset and memory -/

theorem reset_memories : Memory.wf State.reset.mem.tiers = true ∧ Memory.wf State.reset.mem.host = true ∧ Memory.wf State.reset.mem.flash = true ∧
    Memory.wf State.reset.tender.slotA = true ∧ Memory.wf State.reset.tender.slotB = true := by decide +kernel

/-- A step that stores bytes: both memories are canonical before it, and a next state follows. -/
theorem witness_canonical : Memory.wf ((queueState 15 1 copyIn (atWork copyIn false)).mem.tiers) = true ∧ Memory.wf ((queueState 15 1 copyIn (atWork copyIn false)).mem.host) = true ∧
    Memory.wf ((queueState 15 1 copyIn (atWork copyIn false)).tender.slotA) = true ∧
    (match step { queueState 15 1 copyIn (atWork copyIn false) with pending := [.commandCompletion 15] } with
     | .next t => decide (t.pending = [])
     | _ => false) = true := by decide +kernel

end Sys2Proof.Tests
end

section
/-! The queue of waiting commands: how every command ends (O2), and the invariant that every step keeps (O3). -/

namespace Sys2Proof.Machine

variable {s : State} {c : Instr}

/-! ### Every command answers -/

/-- An upset marks errors of units alone (R287). -/
theorem State.upset_pending (s : State) (pos : Nat) (x : Nat × CacheErr) : (s.upset pos x).pending = s.pending := by
  unfold State.upset
  split
  · rfl
  · next k ks _ =>
    dsimp only
    split
    · split <;> rfl
    · split <;> rfl
    · exact List.foldlRecOn (motive := fun t : State => t.pending = s.pending) _ _ rfl fun t ht i _ => ht

theorem State.disturb_pending (s : State) (leaf : LeafTry) : (s.disturb leaf).pending = s.pending := by
  refine List.foldlRecOn (motive := fun t : State => t.pending = s.pending) _ _ ?_
    fun t ht x _ => (State.upset_pending t leaf.pos x).trans ht
  split <;> rfl

/-- Every command answers by way of `answer`, guarded by the check of its own units, from a state with the same queue: the state itself, or, of a leaf,
the state after its upsets. -/
theorem exec_eq_answer (c : Instr) (s : State) : ∃ u f, u.pending = s.pending ∧ exec c s = answer c.wf u f := by
  cases c <;> dsimp only [exec]
  case leafIssue leaf => exact ⟨s.disturb leaf, _, State.disturb_pending s leaf, rfl⟩
  all_goals exact ⟨s, _, rfl, rfl⟩

theorem exec_of_wf (h : c.wf = true) : ∃ t, exec c s = .next t ∧ t.pending = s.pending ∧ t.waits = [] := by
  obtain ⟨u, f, hu, hf⟩ := exec_eq_answer c s
  rw [h] at hf
  exact ⟨_, hf, hu, rfl⟩

theorem exec_of_not_wf (h : c.wf = false) : exec c s = .fault .noSuchUnit := by
  obtain ⟨u, f, -, hf⟩ := exec_eq_answer c s
  rw [hf, h]
  rfl

/-! ### The invariant -/

/-- The invariant of the queue: every waiting command names units of the device, and nothing waited for is left over. -/
structure State.QueueOk (s : State) : Prop where
  wf : ∀ c ∈ s.pending, c.wf = true
  waits : s.waits = []

/-- A step from a well-formed queue takes its front command away and keeps the invariant. -/
theorem step_of_queueOk (h : s.QueueOk) : ∃ t, step s = .next t ∧ t.QueueOk ∧ t.pending = s.pending.tail := by
  cases hp : s.pending with
  | nil => exact ⟨s.idle, step_nil hp, ⟨by simp [hp], h.waits⟩, hp⟩
  | cons c rest =>
    obtain ⟨t, ht, hpend, hw⟩ := exec_of_wf (s := { s with pending := rest }) (h.wf c (by simp [hp]))
    have hpend : t.pending = rest := hpend
    exact ⟨t, (step_cons hp).trans ht, ⟨fun d hd => h.wf d (by simp [hp, hpend ▸ hd]), hw⟩, hpend⟩

theorem run_succ {n : Nat} {t : State} (h : step s = .next t) : Host.Core.run Sys2Proof.core (n + 1) s = Host.Core.run Sys2Proof.core n t := by
  have h' : Sys2Proof.core.step s = .next t := h
  simp [Host.Core.run, h']

/-- As many steps as commands wait drain a well-formed queue. -/
theorem run_drains {n : Nat} (h : s.QueueOk) (hn : s.pending.length = n) : ∃ t, Host.Core.run Sys2Proof.core n s = .next t ∧ t.pending = [] := by
  induction n generalizing s with
  | zero => exact ⟨s, rfl, List.eq_nil_of_length_eq_zero hn⟩
  | succ n ih =>
    obtain ⟨t, ht, htOk, hpend⟩ := step_of_queueOk h
    rw [run_succ ht]
    exact ih htOk (by simp [hpend, hn])

/-- Settles O2: every command is an `answer` guarded by its own units, so it ends there or in the one fault. -/
theorem commandsEndByTheirUnits : Obligations.CommandsEndByTheirUnits :=
  fun _ _ => ⟨exec_of_wf, exec_of_not_wf⟩

/-- Settles O3: one step keeps `State.QueueOk` and shortens the queue, so an induction on its length drains it. -/
theorem stepKeepsQueueInvariant : Obligations.StepKeepsQueueInvariant := by
  intro s hwf hw
  have h : s.QueueOk := ⟨hwf, hw⟩
  obtain ⟨t, ht, htOk, hpend⟩ := step_of_queueOk h
  exact ⟨⟨t, ht, htOk.wf, htOk.waits, hpend⟩, run_drains h rfl⟩

end Sys2Proof.Machine
end

section
/-! Descriptions of registers: the fields that stand at an offset, and reads that the settings layers leave alone (R14, R17). -/

namespace Sys2Proof.Machine

/-! ### Fields of single registers -/

theorem fieldsAt_cluster {off : Nat} (h8 : off % 8 = 0) (hlo : 0x1000000 ≤ off) (hhi : off < 0x2900000) :
    fieldsAt off = cluFields ((off - 0x1000000) % 0x40000) := by
  rw [fieldsAt, if_neg (fun hne => hne h8)]
  simp (disch := omega) only [if_neg, if_pos]

theorem fieldsAt_coreState {p : Nat} (h : p < 1300) : fieldsAt (Reg.coreState p) = [roF 26 16 0x7FF, roF 2 0 0] := by
  have hoff : Reg.coreState p = 0x1000000 + 0x40000 * (p / 13) + 0x1000 * (1 + p % 13) := by
    simp only [Reg.coreState, Reg.core, Reg.clu]; omega
  rw [hoff, fieldsAt_cluster (by omega) (by omega) (by omega), cluFields, if_neg (by omega), if_pos (by omega), if_pos (by omega)]

theorem fieldsAt_cluLmap {c : Nat} (h : c < 100) : fieldsAt (Reg.cluLmap c) = [roF 47 0 0xFFFFFFFFFFFF] := by
  have hoff : Reg.cluLmap c = 0x1000000 + 0x40000 * c := rfl
  rw [hoff, fieldsAt_cluster (by omega) (by omega) (by omega), cluFields, if_pos (by omega), if_pos (by omega)]

/-- A register without fields of the settings layers reads as its content, whether or not the layers are in force (R17). -/
theorem State.cur_of_cfgMask (s : State) {off : Nat} (h : cfgMask off = 0) : s.cur off = s.raw off := by
  rw [State.cur, h, show ~~~(BitVec.ofNat 64 0) = BitVec.allOnes 64 from rfl, BitVec.and_allOnes, ite_self]

end Sys2Proof.Machine
end

section
/-! The state after device reset (O59). -/

namespace Sys2Proof.Machine

/-- At reset a register without fields of the settings layers reads as its description says. -/
theorem State.cur_reset {off : Nat} (h : cfgMask off = 0) : State.reset.cur off = csrDefault off :=
  State.cur_of_cfgMask State.reset h

/-- At reset no position backs a logical core, and none has started (R88). -/
theorem State.coreState_reset {p : Nat} (h : p < 1300) : State.reset.lcidOf p = 0x7FF ∧ State.reset.stateOf p = 0 := by
  have hcur : State.reset.cur (Reg.coreState p) = 0x7FF0000 := by
    rw [State.cur_reset (by rw [cfgMask, fieldsAt_coreState h]; rfl), csrDefault, fieldsAt_coreState h]
    rfl
  simp only [State.lcidOf, State.stateOf, State.fld, hcur]
  decide

/-- At reset every entry of CLU.LMAP is 15: no logical core has a position (R415). -/
theorem State.posOf_reset {i : Nat} (h : i < 1200) : State.reset.posOf i = none := by
  have hc : i / 12 < 100 := by omega
  have hcur : State.reset.cur (Reg.cluLmap (i / 12)) = 0xFFFFFFFFFFFF := by
    rw [State.cur_reset (by rw [cfgMask, fieldsAt_cluLmap hc]; rfl), csrDefault, fieldsAt_cluLmap hc]
    rfl
  have hentry : ∀ k < 12, wfld (0xFFFFFFFFFFFF : Word) (4 * k + 3) (4 * k) = 15 := by decide
  rw [State.posOf, State.fld, hcur, hentry _ (Nat.mod_lt _ (by decide))]
  rfl

/-- At reset every byte reads as zero (log row 3). -/
theorem State.byteAt_reset (l : Loc) : State.reset.byteAt l = 0 := by
  cases l with
  | ldm p o =>
    change BitVec.ofNat 8 (Machine.fld 0 _ _) = 0
    simp [Machine.fld]
  | tier a => rfl
  | host q a => rfl
  | csr o => rfl
  | hole => rfl

theorem State.devId_reset : State.reset.cur Reg.devId = 0x0000004820414C00 := by
  rw [State.cur_reset rfl]
  rfl

theorem Arch.reg_reset (n : Nat) : Arch.reset.reg n = ⟨0, 0xF⟩ := by
  unfold Arch.reg
  split <;> rfl

/-- Settles O59: each conjunct is the reset value of one field, and the register conjuncts follow from the descriptions of their registers. -/
theorem resetState : Obligations.ResetState := by
  refine ⟨rfl, rfl, ?_, rfl, rfl, fun _ => rfl, fun p => ⟨Arch.reg_reset, fun _ => rfl, rfl, rfl⟩, fun p hp => State.coreState_reset hp,
    fun i hi => State.posOf_reset hi, State.devId_reset, State.byteAt_reset, rfl, rfl, rfl⟩
  rw [State.phase, State.fld, State.cur_reset rfl]
  rfl

end Sys2Proof.Machine
end

section
/-! Accesses to registers (O50; R13 to R18, R361 to R363): who may make one, what a refused one leaves, and what a write or a read of a register does. -/

namespace Sys2Proof.Machine

variable {s : State} {src : Src} {off size : Nat} {v : Word}

/-! ### A command that waits for nothing -/

/-- `t` has the queue of `s` and waits for what `s` waits for. -/
def SameQueue (s t : State) : Prop := t.pending = s.pending ∧ t.waits = s.waits

theorem exec_eq_next {c : Instr} {f : State → State} (he : exec c s = answer c.wf s f) (hc : c.wf = true) (hs : s.waits = [])
    (hq : SameQueue s (f s)) : exec c s = .next (f s) := by
  have hcalm : { s with waits := [] } = s := by rw [← hs]
  obtain ⟨hpend, hwaits⟩ := hq
  rw [he, hc, answer_of_no_wait (by rw [hcalm, hwaits, hs]), hcalm, ← hpend, ← hs, ← hwaits]

section
variable (hsrc : src.wf = true) (ha : csrAccessWf src off size = true) (hs : s.waits = [])
include hsrc ha hs

/-- An access whose source exists and that lies in the space of its source names units of the device. -/
theorem exec_registerWrite (hq : SameQueue s (s.writeBy src off size v)) :
    exec (.registerWrite src off size v) s = .next (s.writeBy src off size v) := by
  have hwf : (Instr.registerWrite src off size v).wf = true := by simp [Instr.wf, hsrc, ha]
  exact exec_eq_next (f := fun s => s.writeBy src off size v) rfl hwf hs hq

theorem exec_rcRead (hq : SameQueue s (s.readBy src off size)) : exec (.rcRead src off size) s = .next (s.readBy src off size) := by
  have hwf : (Instr.rcRead src off size).wf = true := by simp [Instr.wf, hsrc, ha]
  exact exec_eq_next (f := fun s => s.readBy src off size) rfl hwf hs hq

end

theorem exec_hostCounterRead (hc : (Instr.hostCounterRead off).wf = true) (hs : s.waits = [])
    (hq : SameQueue s ((s.hostRead4 off).1.emit (.csrData (s.hostRead4 off).2))) :
    exec (.hostCounterRead off) s = .next ((s.hostRead4 off).1.emit (.csrData (s.hostRead4 off).2)) :=
  exec_eq_next (f := fun s => (s.hostRead4 off).1.emit (.csrData (s.hostRead4 off).2)) rfl hc hs hq

/-! ### Registers without fields of the settings layers -/

theorem State.fld_of_cfgMask (s : State) (h : cfgMask off = 0) (hi lo : Nat) : s.fld off hi lo = wfld (s.raw off) hi lo := by
  rw [State.fld, State.cur_of_cfgMask s h]

theorem State.bit_putBit_self (s : State) (h : cfgMask off = 0) {i : Nat} (hi : i < 64) (b : Bool) : (s.putBit off i b).bit off i = b := by
  rw [State.bit, State.fld_of_cfgMask _ h, State.putBit, State.raw_putFld_self, wfld_wsetFld_self _ hi (Nat.le_refl i)]
  cases b <;> simp [b2n]

theorem sameRegs_put (s : State) (off : Nat) (w : Word) : SameRegs s (s.put off w) [off] :=
  fun _ ho => State.raw_put_ne s w (by simpa using ho)

/-! ### Refused accesses (R13, R90, R362) -/

theorem State.put_with_csr (s : State) (o : Nat) (w : Word) (c : Sparse Word) (h : HostIf) :
    ({ s.put o w with csr := c, hif := h } : State) = { s with csr := c, hif := h } := rfl

/-- An interrupt goes out or pends: the host interface alone changes. -/
theorem State.msix_frame (s : State) (vec : Nat) : ∃ h, s.msix vec = { s with hif := h } := by unfold State.msix; split <;> exact ⟨_, rfl⟩

/-- An event of the host sets its bit of HIF.EVT; beyond that only an interrupt goes out or pends. -/
theorem State.hostEvent_csr (s : State) (i : Nat) : (s.hostEvent i).csr = (s.putBit Reg.hifEvt i true).csr := by
  simp only [State.hostEvent]
  split
  · obtain ⟨h, hh⟩ := State.msix_frame (s.putBit Reg.hifEvt i true) 0
    rw [hh]
  · rfl

theorem State.hostEvent_frame (s : State) (i : Nat) : ∃ c h, s.hostEvent i = { s with csr := c, hif := h } := by
  simp only [State.hostEvent]
  split
  · obtain ⟨h, hh⟩ := State.msix_frame (s.putBit Reg.hifEvt i true) 0
    exact ⟨_, h, hh⟩
  · exact ⟨_, _, rfl⟩

/-- The word that a refused access leaves in HIF.BADADDR. -/
def badAddrWord (write : Bool) (size addr : Nat) : Word := BitVec.ofNat 64 (b2n write * 2 ^ 63 + size % 8 * 2 ^ 60 + addr % 2 ^ 48)

theorem wfld_badAddrWord (write : Bool) (size addr : Nat) :
    wfld (badAddrWord write size addr) 63 63 = b2n write ∧ wfld (badAddrWord write size addr) 47 0 = addr % 2 ^ 48 := by
  have hb : b2n write < 2 := by cases write <;> decide
  rw [wfld, wfld, Machine.fld, Machine.fld, badAddrWord, BitVec.toNat_ofNat, Nat.shiftRight_eq_div_pow, Nat.shiftRight_eq_div_pow]
  omega

theorem State.badAccess_frame (s : State) (e : Nat) (w : Bool) (n a : Nat) : ∃ c h, s.badAccess e w n a = { s with csr := c, hif := h } := by
  obtain ⟨c, h, hh⟩ := State.hostEvent_frame ((s.bump Reg.hifBadacc 1).put Reg.hifBadaddr (badAddrWord w n a)) e
  rw [State.put_with_csr, State.bump, State.put_with_csr] at hh
  exact ⟨c, h, hh⟩

/-- A refused access of the host changes HIF.BADACC, HIF.BADADDR and HIF.EVT. -/
theorem State.badAccess_raw (s : State) (e : Nat) (w : Bool) (n a o : Nat) :
    (s.badAccess e w n a).raw o =
      (((s.bump Reg.hifBadacc 1).put Reg.hifBadaddr (badAddrWord w n a)).putBit Reg.hifEvt e true).raw o :=
  State.raw_congr (State.hostEvent_csr _ e) o

theorem State.badAccess_counts (s : State) (e : Nat) (w : Bool) (n a : Nat) : (s.badAccess e w n a).raw Reg.hifBadacc = s.raw Reg.hifBadacc + 1 := by
  rw [State.badAccess_raw, State.raw_putBit_ne _ _ _ (by decide), State.raw_put_ne _ _ (by decide), State.raw_bump_self]
  rfl

theorem State.badAccess_addr (s : State) (e : Nat) (w : Bool) (n a : Nat) : (s.badAccess e w n a).raw Reg.hifBadaddr = badAddrWord w n a := by
  rw [State.badAccess_raw, State.raw_putBit_ne _ _ _ (by decide), State.raw_put_self]

theorem State.badAccess_event (s : State) {e : Nat} (he : e < 64) (w : Bool) (n a : Nat) : (s.badAccess e w n a).bit Reg.hifEvt e = true := by
  rw [State.bit, State.fld_of_cfgMask _ rfl, State.badAccess_raw, ← State.fld_of_cfgMask _ rfl]
  exact State.bit_putBit_self _ rfl he true

theorem State.badAccess_sameRegs (s : State) (e : Nat) (w : Bool) (n a : Nat) :
    SameRegs s (s.badAccess e w n a) [Reg.hifBadacc, Reg.hifBadaddr, Reg.hifEvt] := by
  intro o ho
  simp only [List.mem_cons, List.not_mem_nil, or_false, not_or] at ho
  obtain ⟨h1, h2, h3⟩ := ho
  rw [State.badAccess_raw, State.raw_putBit_ne _ _ _ h3, State.raw_put_ne _ _ h2, State.raw_bump_ne _ _ h1]

theorem State.badAccess_sameQueue (s : State) (e : Nat) (w : Bool) (n a : Nat) : SameQueue s (s.badAccess e w n a) := by
  obtain ⟨c, h, hh⟩ := State.badAccess_frame s e w n a
  rw [hh]
  exact ⟨rfl, rfl⟩

theorem State.badAccess_sameBytes (s : State) (e : Nat) (w : Bool) (n a : Nat) : SameBytes s (s.badAccess e w n a) := by
  obtain ⟨c, h, hh⟩ := State.badAccess_frame s e w n a
  rw [hh]
  intro l
  cases l <;> rfl

theorem State.badAccess_sameCores (s : State) (e : Nat) (w : Bool) (n a : Nat) : SameCores s (s.badAccess e w n a) [] := by
  obtain ⟨c, h, hh⟩ := State.badAccess_frame s e w n a
  rw [hh]
  exact fun _ _ => rfl

/-- What a refused access of the host leaves in HIF.BADADDR, read through its fields. -/
theorem State.badAccess_fields (s : State) (e : Nat) (w : Bool) (n a : Nat) :
    (s.badAccess e w n a).bit Reg.hifBadaddr 63 = w ∧ (s.badAccess e w n a).fld Reg.hifBadaddr 47 0 = a % 2 ^ 48 := by
  obtain ⟨hw, ha⟩ := wfld_badAddrWord w n a
  rw [State.bit, State.fld_of_cfgMask _ rfl, State.fld_of_cfgMask _ rfl, State.badAccess_addr, hw, ha]
  cases w <;> simp [b2n]

/-- A core that may not reach a register takes an exception at its next leaf, unless one stands there already; nothing else changes. -/
theorem State.coreRefused_spec (s : State) (p code o : Nat) :
    SameRegs s (s.coreRefused p code o) [] ∧ SameCores s (s.coreRefused p code o) [p] ∧
    s.coreRefused p code o = { s with cores := (s.coreRefused p code o).cores } ∧
    ((s.coreAt p).arch.flow.exc = none → ((s.coreRefused p code o).coreAt p).arch.flow.exc = some (leafExc code 0 0 0 (csrBase + o))) := by
  simp only [State.coreRefused]
  split
  · next h => exact ⟨fun _ _ => rfl, fun _ _ => rfl, rfl, fun hn => by simp [hn] at h⟩
  · refine ⟨fun _ _ => rfl, fun q hq => State.coreAt_modCore_ne s _ (by simpa using hq), rfl, fun _ => ?_⟩
    rw [State.setFlow, State.coreAt_modCore_self]

theorem State.coreRefused_sameQueue (s : State) (p code o : Nat) : SameQueue s (s.coreRefused p code o) := by
  obtain ⟨-, -, hcores, -⟩ := State.coreRefused_spec s p code o
  rw [hcores]
  exact ⟨rfl, rfl⟩

/-! ### Who reaches the registers (R13, R90) -/

/-- Sources whose accesses of a right size reach the registers: the host, the management path, and a core in supervisor state. -/
def State.Reaches (s : State) (src : Src) : Prop := src = .host ∨ src = .mgmt ∨ ∃ p, src = .core p ∧ p < 1300 ∧ (s.coreAt p).arch.priv = true

theorem csrAccessWf_host {off size : Nat} : csrAccessWf .host off size = true ↔ 1 ≤ size ∧ off + size ≤ 0x4000000 := by
  simp [csrAccessWf]

/-- The source of an access that reaches the registers exists, and its space is that of the host. -/
theorem State.Reaches.wf (h : s.Reaches src) (ha : csrAccessWf .host off size = true) : src.wf = true ∧ csrAccessWf src off size = true := by
  obtain rfl | rfl | ⟨p, rfl, hp, -⟩ := h
  · exact ⟨rfl, ha⟩
  · exact ⟨rfl, ha⟩
  · exact ⟨by simp [Src.wf, hp], ha⟩

theorem csrSizeOk_eight (h : off % 8 = 0) : csrSizeOk off 8 = true := by simp [csrSizeOk, h]

theorem csrSizeOk_four (h : off % 8 = 0) : csrSizeOk off 4 = true := by simp [csrSizeOk]; omega

theorem csrAccessWf_aligned (h : off % 8 = 0) (hlt : off < 0x4000000) : csrAccessWf .host off 8 = true :=
  csrAccessWf_host.mpr ⟨by decide, by omega⟩

/-- User state, or a wrong size or alignment, bars a core. -/
theorem State.coreBars_eq_some {p : Nat} (h : csrSizeOk off size = false ∨ (s.coreAt p).arch.priv = false) :
    s.coreBars p off size = some (if (s.coreAt p).arch.priv then 6 else 2) := by
  unfold State.coreBars
  cases hp : (s.coreAt p).arch.priv
  · rfl
  · simp [h.resolve_right (by simp [hp])]

theorem State.coreBars_eq_none {p : Nat} (hp : (s.coreAt p).arch.priv = true) (h : csrSizeOk off size = true) : s.coreBars p off size = none := by
  simp [State.coreBars, hp, h]

/-! ### Writes -/

theorem State.writeBy_host_bad (s : State) (v : Word) (h : csrSizeOk off size = false) :
    s.writeBy .host off size v = s.badAccess 2 true (sizeCode size) off := by
  simp [State.writeBy, State.writeCsrBy, h]

theorem State.writeBy_mgmt_bad (s : State) (v : Word) (h : csrSizeOk off size = false) : s.writeBy .mgmt off size v = s := by
  simp [State.writeBy, State.writeCsrBy, h]

theorem State.writeBy_core_barred {p code : Nat} (v : Word) (h : s.coreBars p off size = some code) :
    s.writeBy (.core p) off size v = s.coreRefused p code off := by
  simp [State.writeBy, State.writeCsrBy, h]

/-- A host write that may not be made now changes nothing. -/
theorem State.writeBy_host_ignored (v : Word) (hok : csrSizeOk off size = true) (hm : s.mayWrite .host (off - off % 8) = false) :
    s.writeBy .host off size v = s := by
  simp [State.writeBy, State.writeCsrBy, hok, hm]

/-- A source that reaches the registers may write outside the SEC block; the host and the management path from PHASE 7 on. -/
theorem State.mayWrite_of_reaches (h : s.Reaches src) (hp : (∃ p, src = .core p) ∨ s.phase = 7) (hsec : off < 0xA00000 ∨ 0xB00000 ≤ off) :
    s.mayWrite src off = true := by
  obtain rfl | rfl | ⟨p, rfl, -, -⟩ := h
  · have h7 : s.phase = 7 := hp.resolve_left (by rintro ⟨p, hp⟩; cases hp)
    simpa [State.mayWrite, h7] using hsec
  · have h7 : s.phase = 7 := hp.resolve_left (by rintro ⟨p, hp⟩; cases hp)
    simp [State.mayWrite, h7]
  · simpa [State.mayWrite] using hsec

/-- A write of a whole or of the low half of a register outside the SEC block has the effect that the register gives it. -/
theorem State.writeBy_of_reaches (h : s.Reaches src) (hp : (∃ p, src = .core p) ∨ s.phase = 7) (h8 : off % 8 = 0)
    (hsec : off < 0xA00000 ∨ 0xB00000 ≤ off) (hok : csrSizeOk off size = true) (v : Word) :
    s.writeBy src off size v = s.writeAny off (selOf off size) v := by
  have hm := State.mayWrite_of_reaches h hp hsec
  have hbox : ¬(Reg.secMboxIn 0 ≤ off ∧ off < Reg.secMboxIn 1200) := by simp only [Reg.secMboxIn]; omega
  obtain rfl | rfl | ⟨p, rfl, -, hpriv⟩ := h
  · simp [State.writeBy, State.writeCsrBy, hok, h8, hm]
  · simp [State.writeBy, State.writeCsrBy, hok, h8, hm]
  · simp [State.writeBy, State.writeCsrBy, State.coreBars_eq_none hpriv hok, hok, h8, hm, hbox]

/-- A command that writes a register by the access codes of its fields alone: the new word, and nothing else. -/
theorem registerWrite_completes (h : s.Reaches src) (hp : (∃ p, src = .core p) ∨ s.phase = 7) (hs : s.waits = []) (h8 : off % 8 = 0)
    (hsec : off < 0xA00000 ∨ 0xB00000 ≤ off) (hok : csrSizeOk off size = true) (hwf : csrAccessWf .host off size = true)
    {w : Word} (hw : s.writeAny off (selOf off size) v = s.put off w) :
    Completes (.registerWrite src off size v) s fun t => t.raw off = w ∧ SameRegs s t [off] ∧ t = { s with csr := t.csr } := by
  have he := (State.writeBy_of_reaches h hp h8 hsec hok v).trans hw
  obtain ⟨hsrc, ha⟩ := h.wf hwf
  refine ⟨_, exec_registerWrite hsrc ha hs ?_, ?_⟩ <;> rw [he]
  · exact ⟨rfl, rfl⟩
  · exact ⟨State.raw_put_self .., sameRegs_put s off w, rfl⟩

/-! ### Fields of a register under a write (R14, R16) -/

section
variable {ok : Field → Nat → Bool} {f : Field} {sel w old i : Nat}

/-- An RW field takes the bits that the access addresses and keeps the others. -/
theorem Field.testBit_write_rw (hacc : f.acc = .rw) (hany : f.legal = .any) (hok : ∀ x, ok f x = true) :
    (f.write ok sel w old).testBit i =
      (decide (i < f.hi + 1 - f.lo) && if sel.testBit (f.lo + i) then w.testBit (f.lo + i) else old.testBit (f.lo + i)) := by
  have hall : ∀ x, f.allows x = true := fun x => by simp [Field.allows, hany]
  have hm := Nat.mod_lt (sel >>> f.lo) (Nat.two_pow_pos (f.hi + 1 - f.lo))
  simp only [Field.write, hacc, hall, hok, Bool.and_self, if_true, Nat.sub_sub, Nat.add_comm 1, Nat.testBit_or, Nat.testBit_and,
    Nat.testBit_two_pow_sub_succ hm, Nat.testBit_mod_two_pow, Nat.testBit_shiftRight]
  by_cases hi : i < f.hi + 1 - f.lo <;> cases sel.testBit (f.lo + i) <;> simp [hi]

/-- A W1C field clears the bits at which the access writes 1. -/
theorem Field.testBit_write_w1c (hacc : f.acc = .w1c) :
    (f.write ok sel w old).testBit i =
      (decide (i < f.hi + 1 - f.lo) && old.testBit (f.lo + i) && !(w.testBit (f.lo + i) && sel.testBit (f.lo + i))) := by
  have hm : (w >>> f.lo) % 2 ^ (f.hi + 1 - f.lo) &&& (sel >>> f.lo) % 2 ^ (f.hi + 1 - f.lo) < 2 ^ (f.hi + 1 - f.lo) :=
    Nat.and_lt_two_pow _ (Nat.mod_lt _ (Nat.two_pow_pos _))
  simp only [Field.write, hacc, Nat.sub_sub, Nat.add_comm 1, Nat.testBit_and, Nat.testBit_two_pow_sub_succ hm, Nat.testBit_mod_two_pow,
    Nat.testBit_shiftRight]
  by_cases hi : i < f.hi + 1 - f.lo <;> simp [hi]

/-- A register with one field, at bit 0. -/
theorem testBit_writeWord_single (hlo : f.lo = 0) :
    (writeWord ok [f] sel w old).testBit i = (decide (i < f.hi + 1) && (f.write ok sel w old).testBit i) := by
  simp [writeWord, assemble, hlo, Nat.testBit_mod_two_pow]

end

theorem State.fieldOk_of_ne {f : Field} {sel w x : Nat} (h1 : off ≠ Reg.snapPgrp) (h2 : off ≠ Reg.snapNext)
    (h3 : ¬(Reg.secMboxIn 0 ≤ off ∧ off < Reg.secMboxIn 1200 ∧ off % 16 = 8)) : s.fieldOk off sel w f x = true := by
  simp [State.fieldOk, h1, h2, h3]

/-- A write by the access code of the one field of a register, bit by bit. -/
theorem State.writeReg_eq_put {sel w : Nat} {f : Field} {x : Word} (hf : fieldsAt off = [f]) (hlo : f.lo = 0)
    (hx : ∀ i < 64, x.getLsbD i = (decide (i < f.hi + 1) && (f.write (s.fieldOk off sel w) sel w (s.raw off).toNat).testBit i)) :
    s.writeReg off sel w = s.put off x := by
  rw [State.writeReg, hf]
  congr 1
  apply BitVec.eq_of_getLsbD_eq
  intro i hi
  rw [BitVec.getLsbD_ofNat, testBit_writeWord_single hlo, hx i hi]
  simp [hi]

theorem getLsbD_lowOnes {n i : Nat} (hi : i < 64) : (BitVec.ofNat 64 (2 ^ n - 1)).getLsbD i = decide (i < n) := by
  rw [BitVec.getLsbD_ofNat, Nat.testBit_two_pow_sub_one]
  simp [hi]

/-- HIF.EVTEN takes what is written to its six bits. -/
theorem State.writeReg_hifEvten (s : State) (v : Word) : s.writeReg Reg.hifEvten (2 ^ 64 - 1) v.toNat = s.put Reg.hifEvten (v &&& 0x3F) := by
  have hok (f : Field) (x : Nat) : s.fieldOk Reg.hifEvten (2 ^ 64 - 1) v.toNat f x = true := State.fieldOk_of_ne (by decide) (by decide) (by decide)
  refine State.writeReg_eq_put (f := rwF 5 0 0) rfl rfl fun i hi => ?_
  rw [Field.testBit_write_rw rfl rfl (hok _), BitVec.getLsbD_and, show (0x3F : Word) = BitVec.ofNat 64 (2 ^ 6 - 1) from rfl, getLsbD_lowOnes hi,
    Nat.testBit_two_pow_sub_one]
  by_cases h6 : i < 6 <;> simp [rwF, h6, hi, BitVec.testBit_toNat]

/-- HIF.EVT clears those of its six bits at which 1 is written. -/
theorem State.writeReg_hifEvt (s : State) (v : Word) :
    s.writeReg Reg.hifEvt (2 ^ 64 - 1) v.toNat = s.put Reg.hifEvt (s.raw Reg.hifEvt &&& ~~~v &&& 0x3F) := by
  refine State.writeReg_eq_put (f := w1cF 5 0) rfl rfl fun i hi => ?_
  rw [Field.testBit_write_w1c rfl, BitVec.getLsbD_and, BitVec.getLsbD_and, BitVec.getLsbD_not, show (0x3F : Word) = BitVec.ofNat 64 (2 ^ 6 - 1) from rfl,
    getLsbD_lowOnes hi, Nat.testBit_two_pow_sub_one]
  by_cases h6 : i < 6 <;> simp [w1cF, h6, hi, BitVec.testBit_toNat]

theorem fieldsAt_cluTcmp {c i : Nat} (hc : c < 100) (hi : i < 12) : fieldsAt (Reg.cluTcmp c i) = [rwF 63 0 0xFFFFFFFFFFFFFFFF] := by
  have hoff : Reg.cluTcmp c i = 0x1000000 + 0x40000 * c + 0x40 + 8 * i := rfl
  rw [hoff, fieldsAt_cluster (by omega) (by omega) (by omega), cluFields, if_pos (by omega)]
  simp (disch := omega) only [if_neg, if_pos]

/-- A write of the low half of CLU.TCMP keeps the high half. -/
theorem State.writeReg_cluTcmp (s : State) (v : Word) {c j : Nat} (hc : c < 100) (hj : j < 12) :
    s.writeReg (Reg.cluTcmp c j) (2 ^ 32 - 1) v.toNat =
      s.put (Reg.cluTcmp c j) ((s.raw (Reg.cluTcmp c j) &&& 0xFFFFFFFF00000000) ||| (v &&& 0xFFFFFFFF)) := by
  have hoff : Reg.cluTcmp c j = 0x1000000 + 0x40000 * c + 0x40 + 8 * j := rfl
  have hok (f : Field) (x : Nat) : s.fieldOk (Reg.cluTcmp c j) (2 ^ 32 - 1) v.toNat f x = true :=
    State.fieldOk_of_ne (by rw [hoff, Reg.snapPgrp]; omega) (by rw [hoff, Reg.snapNext]; omega) (by simp only [hoff, Reg.secMboxIn]; omega)
  refine State.writeReg_eq_put (fieldsAt_cluTcmp hc hj) rfl fun i hi => ?_
  rw [Field.testBit_write_rw rfl rfl (hok _), BitVec.getLsbD_or, BitVec.getLsbD_and, BitVec.getLsbD_and,
    show (0xFFFFFFFF00000000 : Word) = ~~~(BitVec.ofNat 64 (2 ^ 32 - 1)) from rfl, show (0xFFFFFFFF : Word) = BitVec.ofNat 64 (2 ^ 32 - 1) from rfl,
    BitVec.getLsbD_not, getLsbD_lowOnes hi, Nat.testBit_two_pow_sub_one]
  by_cases h32 : i < 32 <;> simp [rwF, h32, hi, BitVec.testBit_toNat]

theorem State.writeAny_hifEvten (s : State) (v : Word) : s.writeAny Reg.hifEvten (2 ^ 64 - 1) v = s.writeReg Reg.hifEvten (2 ^ 64 - 1) v.toNat := rfl

theorem State.writeAny_hifEvt (s : State) (v : Word) : s.writeAny Reg.hifEvt (2 ^ 64 - 1) v = s.writeReg Reg.hifEvt (2 ^ 64 - 1) v.toNat := rfl

theorem State.writeAny_high {sel : Nat} (hacts : actsOn off sel = true) (hoff : 0xB00000 ≤ off) : s.writeAny off sel v = s.writeHigh off sel v := by
  rw [State.writeAny, hacts]
  simp (disch := omega) only [if_neg, Bool.not_true, Bool.false_eq_true, if_false]

theorem State.writeAny_cluTcmp (s : State) (v : Word) {c j : Nat} (hc : c < 100) (hj : j < 12) :
    s.writeAny (Reg.cluTcmp c j) (2 ^ 32 - 1) v = s.writeReg (Reg.cluTcmp c j) (2 ^ 32 - 1) v.toNat := by
  have hoff : Reg.cluTcmp c j = 0x1000000 + 0x40000 * c + 0x40 + 8 * j := rfl
  have hacts : actsOn (Reg.cluTcmp c j) (2 ^ 32 - 1) = true := by
    rw [actsOn, fieldsAt_cluTcmp hc hj]
    simp [rwF, Field.mask]
  have hclu : (Reg.cluTcmp c j - 0x1000000) / 0x40000 = c := by omega
  rw [State.writeAny_high hacts (by omega)]
  simp (disch := omega) only [State.writeHigh, hclu, if_neg]
  simp (disch := simp only [Reg.cluCouch, Reg.calCtrl, Reg.calQbase, Reg.calStep, Reg.orb, Reg.clu]; omega) only [if_neg]

/-! ### Reads (R14, R15) -/

theorem State.readBy_host_bad (s : State) (h : csrSizeOk off size = false) :
    s.readBy .host off size = (s.badAccess 2 false (sizeCode size) off).emit (.csrData 0) := by
  simp [State.readBy, h]

theorem State.readBy_mgmt_bad (s : State) (h : csrSizeOk off size = false) : s.readBy .mgmt off size = s := by
  simp [State.readBy, h]

theorem State.readBy_core_barred {p code : Nat} (h : s.coreBars p off size = some code) :
    s.readBy (.core p) off size = s.coreRefused p code off := by
  simp [State.readBy, h]

/-- A read of a whole register answers it and leaves what the read clears. -/
theorem State.readBy_of_reaches (h : s.Reaches src) (h8 : off % 8 = 0) :
    s.readBy src off 8 = (s.readCsr off 8).1.emit (.csrData (s.readCsr off 8).2) := by
  have hok := csrSizeOk_eight h8
  obtain rfl | rfl | ⟨p, rfl, -, hpriv⟩ := h
  · simp [State.readBy, hok]
  · simp [State.readBy, hok]
  · simp [State.readBy, State.coreBars_eq_none hpriv hok]

/-- A read of a whole register clears its RC bits. -/
theorem State.readCsr_whole (s : State) (h8 : off % 8 = 0) :
    s.readCsr off 8 = (if rcMask off = 0 then s else s.put off (s.raw off &&& ~~~(BitVec.ofNat 64 (rcMask off))), s.csrRead off) := by
  have hones : BitVec.ofNat 64 (2 ^ 64 - 1) = BitVec.allOnes 64 := rfl
  have hmask (m : Nat) : BitVec.ofNat 64 ((2 ^ 64 - 1) &&& m) = BitVec.ofNat 64 m := by
    rw [BitVec.ofNat_and, hones, BitVec.allOnes_and]
  simp only [State.readCsr, selOf, h8, Nat.sub_zero, if_true, hones, BitVec.and_allOnes, hmask]
  simp

theorem fieldsAt_secMboxIn {i : Nat} (h : i < 1200) :
    fieldsAt (Reg.secMboxIn i) = [⟨63, 63, .rc, 0, none, .any⟩, ⟨62, 0, .rc, 0, none, .any⟩] := by
  have hoff : Reg.secMboxIn i = 0xA10000 + 0x10 * i := rfl
  have hsec : fieldsAt (Reg.secMboxIn i) = secFields (Reg.secMboxIn i - 0xA00000) := by
    rw [fieldsAt, if_neg (by omega)]
    simp (disch := omega) only [if_neg, if_pos]
  rw [hsec, secFields]
  simp (disch := omega) only [if_neg, if_pos]

/-- A mailbox shows its content. -/
theorem State.csrRead_secMboxIn (s : State) {i : Nat} (h : i < 1200) : s.csrRead (Reg.secMboxIn i) = s.cur (Reg.secMboxIn i) := by
  have hoff : Reg.secMboxIn i = 0xA10000 + 0x10 * i := rfl
  rw [State.csrRead]
  simp (disch := simp only [Reg.devSerial, Reg.devFeatOffer, Reg.hifCdbc, Reg.memPatval, Reg.memCtl, Reg.memCapacity, Reg.orb, Reg.clu, Reg.pwrCapcyc,
    Reg.secTclk, Reg.secDbgnonce]; omega) only [if_neg]

/-- A read of a mailbox empties it (R462). -/
theorem State.readCsr_secMboxIn (s : State) {i : Nat} (h : i < 1200) :
    s.readCsr (Reg.secMboxIn i) 8 = (s.put (Reg.secMboxIn i) 0, s.cur (Reg.secMboxIn i)) := by
  have hmask : rcMask (Reg.secMboxIn i) = 2 ^ 64 - 1 := by rw [rcMask, fieldsAt_secMboxIn h]; rfl
  rw [State.readCsr_whole s (by rw [Reg.secMboxIn]; omega), hmask, if_neg (by decide), State.csrRead_secMboxIn s h,
    show BitVec.ofNat 64 (2 ^ 64 - 1) = BitVec.allOnes 64 from rfl, BitVec.not_allOnes, BitVec.and_zero]
  rfl

/-! ### Counters (R363) -/

/-- A 4-byte host read of the low half of a counter latches the whole. -/
theorem State.hostRead4_low (s : State) (h8 : off % 8 = 0) (hcnt : isCounter off = true) :
    s.hostRead4 off = ({ s with hif := { s.hif with latch := some (off, s.csrRead off) } }, s.csrRead off &&& 0xFFFFFFFF) := by
  rw [State.hostRead4, h8, Nat.sub_zero, if_pos hcnt]
  cases hl : s.hif.latch <;> simp [State.counterRead, h8, hl]

/-- The high half of a counter answers from the latch. -/
theorem State.hostRead4_high (s : State) {w : Word} (h8 : off % 8 = 0) (hcnt : isCounter off = true) (hl : s.hif.latch = some (off, w)) :
    s.hostRead4 (off + 4) = (s, w >>> 32) := by
  have h4 : (off + 4) % 8 = 4 := by omega
  have hlatch : { s with hif := { s.hif with latch := some (off, w) } } = s := by rw [← hl]
  rw [State.hostRead4, h4, Nat.add_sub_cancel, if_pos hcnt]
  simp [State.counterRead, h4, hl, hlatch]

/-! ### BAR2 and configuration space (R361) -/

theorem wordAccess_four (h : off % 4 = 0) : wordAccess off 4 = true := by simp [wordAccess, h]

theorem State.writeBy_bar2 (s : State) (v : Word) (h : off % 4 = 0) : s.writeBy .bar2 off 4 v = s.bar2Write (off / 4) (wfld v 31 0) := by
  simp [State.writeBy, State.functionWrite, wordAccess_four h]

theorem State.writeBy_config (s : State) (v : Word) (h : off % 4 = 0) : s.writeBy .config off 4 v = s.confWrite (off / 4) (wfld v 31 0) := by
  simp [State.writeBy, State.functionWrite, wordAccess_four h]

theorem State.readBy_bar2 (s : State) (h : off % 4 = 0) : s.readBy .bar2 off 4 = s.emit (.csrData (BitVec.ofNat 64 (s.bar2Word (off / 4)))) := by
  simp [State.readBy, State.functionRead, wordAccess_four h]

theorem State.readBy_config (s : State) (h : off % 4 = 0) : s.readBy .config off 4 = s.emit (.csrData (BitVec.ofNat 64 (s.confRead (off / 4)))) := by
  simp [State.readBy, State.functionRead, wordAccess_four h]

theorem State.bar2Write_entry (s : State) {d : Nat} (x : Nat) (hd : d < 128) (h3 : d % 4 ≠ 3) :
    s.bar2Write d x = { s with hif := { s.hif with table := Sparse.set zeroWord s.hif.table d (BitVec.ofNat 64 (x % 2 ^ 32)) } } := by
  simp [State.bar2Write, h3, Nat.not_le.mpr hd]

/-- The mask word of a vector sets its mask bit, or unmasks the vector. -/
theorem State.bar2Write_mask (s : State) {vec : Nat} (x : Nat) (hv : vec < 32) :
    s.bar2Write (4 * vec + 3) x =
      if x % 2 = 0 then s.unmask vec else { s with hif := { s.hif with mask := s.hif.mask ||| 1#32 <<< vec } } := by
  have hvec : (4 * vec + 3) / 4 = vec := by omega
  rw [State.bar2Write, if_neg (by omega), if_neg (by omega), hvec]

/-- An entry of the table of BAR2 written reads back, and every other word of BAR2 reads as before. -/
theorem State.bar2Word_set (s : State) {d x : Nat} (hd : d < 128) (h3 : d % 4 ≠ 3) (hx : x < 2 ^ 32) (e : Nat) :
    ({ s with hif := { s.hif with table := Sparse.set zeroWord s.hif.table d (BitVec.ofNat 64 (x % 2 ^ 32)) } } : State).bar2Word e =
      if e = d then x else s.bar2Word e := by
  by_cases he : e = d
  · subst he
    have hx64 : x % 2 ^ 32 % 2 ^ 64 = x := by omega
    simp only [State.bar2Word, hd, h3, if_true, if_false, Sparse.get_set_self, BitVec.toNat_ofNat, hx64]
  · simp only [State.bar2Word, he, if_false, Sparse.get_set_ne he]

theorem getLsbD_oneHot {n i : Nat} (hi : i < 32) : (1#32 <<< n).getLsbD i = decide (i = n) := by
  rw [BitVec.getLsbD_shiftLeft, BitVec.getLsbD_one]
  by_cases h : i = n
  · subst h
    simp [hi]
  · simp [hi, h]
    omega

/-- An unmasked vector has its mask bit clear, and fires if it was pending (R378). -/
theorem State.unmask_spec (s : State) {vec : Nat} (hv : vec < 32) :
    (s.unmask vec).hif.mask.getLsbD vec = false ∧ (s.unmask vec).hif.out = s.hif.out ++ (if s.hif.pend.getLsbD vec then [.msix vec] else []) ∧
    (s.unmask vec).csr = s.csr ∧ SameQueue s (s.unmask vec) := by
  have hclear : (s.hif.mask &&& ~~~(1#32 <<< vec)).getLsbD vec = false := by
    rw [BitVec.getLsbD_and, BitVec.getLsbD_not, getLsbD_oneHot hv]
    simp
  simp only [State.unmask]
  split
  · exact ⟨hclear, rfl, rfl, rfl, rfl⟩
  · exact ⟨hclear, (List.append_nil _).symm, rfl, rfl, rfl⟩

/-! ### What each access does (R13 to R18, R361 to R363) -/

theorem badAccess_completes (hs : s.waits = []) (ha : csrAccessWf .host off size = true) (hbad : csrSizeOk off size = false) (v : Word) :
    Completes (.registerWrite .host off size v) s (fun t => t.raw Reg.hifBadacc = s.raw Reg.hifBadacc + 1 ∧ t.bit Reg.hifEvt 2 = true ∧ t.bit Reg.hifBadaddr 63 = true ∧
      t.fld Reg.hifBadaddr 47 0 = off ∧ SameRegs s t [Reg.hifBadacc, Reg.hifBadaddr, Reg.hifEvt] ∧ SameBytes s t ∧ SameCores s t []) ∧
    Completes (.rcRead .host off size) s (fun t => t.raw Reg.hifBadacc = s.raw Reg.hifBadacc + 1 ∧ t.bit Reg.hifEvt 2 = true ∧ t.bit Reg.hifBadaddr 63 = false ∧
      OutMsg.csrData 0 ∈ t.hif.out ∧ SameRegs s t [Reg.hifBadacc, Reg.hifBadaddr, Reg.hifEvt]) := by
  have hoff : off % 2 ^ 48 = off := by
    have := (csrAccessWf_host.mp ha).2
    omega
  constructor
  · obtain ⟨hwrite, haddr⟩ := State.badAccess_fields s 2 true (sizeCode size) off
    refine ⟨_, exec_registerWrite rfl ha hs ?_, ?_⟩ <;> rw [State.writeBy_host_bad s v hbad]
    · exact State.badAccess_sameQueue ..
    · exact ⟨State.badAccess_counts .., State.badAccess_event s (by decide) .., hwrite, haddr.trans hoff, State.badAccess_sameRegs s _ _ _ _,
        State.badAccess_sameBytes s _ _ _ _, State.badAccess_sameCores s _ _ _ _⟩
  · obtain ⟨hwrite, -⟩ := State.badAccess_fields s 2 false (sizeCode size) off
    refine ⟨_, exec_rcRead rfl ha hs ?_, ?_⟩ <;> rw [State.readBy_host_bad s hbad]
    · exact State.badAccess_sameQueue s 2 false (sizeCode size) off
    · exact ⟨State.badAccess_counts .., State.badAccess_event s (by decide) .., hwrite, by simp [State.emit], State.badAccess_sameRegs s _ _ _ _⟩

theorem mgmt_bad_ignored (hs : s.waits = []) (ha : csrAccessWf .host off size = true) (hbad : csrSizeOk off size = false) (v : Word) :
    exec (.registerWrite .mgmt off size v) s = .next s ∧ exec (.rcRead .mgmt off size) s = .next s := by
  constructor
  · have he := State.writeBy_mgmt_bad s v hbad
    exact (exec_registerWrite (src := .mgmt) rfl ha hs (by rw [he]; exact ⟨rfl, rfl⟩)).trans (by rw [he])
  · have he := State.readBy_mgmt_bad s hbad
    exact (exec_rcRead (src := .mgmt) rfl ha hs (by rw [he]; exact ⟨rfl, rfl⟩)).trans (by rw [he])

/-- An access of a core that is barred raises the exception of its bar. -/
theorem core_barred_completes {p code : Nat} (hs : s.waits = []) (ha : csrAccessWf .host off size = true) (hp : p < 1300)
    (hbar : s.coreBars p off size = some code) (v : Word) {P : State → Prop} (hP : P (s.coreRefused p code off)) :
    Completes (.registerWrite (.core p) off size v) s P ∧ Completes (.rcRead (.core p) off size) s P := by
  have hsrc : (Src.core p).wf = true := by simp [Src.wf, hp]
  constructor
  · refine ⟨_, exec_registerWrite hsrc ha hs ?_, ?_⟩ <;> rw [State.writeBy_core_barred v hbar]
    · exact State.coreRefused_sameQueue ..
    · exact hP
  · refine ⟨_, exec_rcRead hsrc ha hs ?_, ?_⟩ <;> rw [State.readBy_core_barred hbar]
    · exact State.coreRefused_sameQueue ..
    · exact hP

theorem hifEvten_completes (hs : s.waits = []) (h : s.Reaches src) (hp : (∃ p, src = .core p) ∨ s.phase = 7) (v : Word) :
    Completes (.registerWrite src Reg.hifEvten 8 v) s fun t =>
      t.raw Reg.hifEvten = v &&& 0x3F ∧ SameRegs s t [Reg.hifEvten] ∧ t = { s with csr := t.csr } :=
  registerWrite_completes h hp hs (by decide) (by decide) (by decide) (by decide)
    ((State.writeAny_hifEvten s v).trans (State.writeReg_hifEvten s v))

theorem hifEvt_completes (hs : s.waits = []) (h : s.Reaches src) (hp : (∃ p, src = .core p) ∨ s.phase = 7) (v : Word) :
    Completes (.registerWrite src Reg.hifEvt 8 v) s fun t =>
      t.raw Reg.hifEvt = s.raw Reg.hifEvt &&& ~~~v &&& 0x3F ∧ SameRegs s t [Reg.hifEvt] ∧ t = { s with csr := t.csr } :=
  registerWrite_completes h hp hs (by decide) (by decide) (by decide) (by decide)
    ((State.writeAny_hifEvt s v).trans (State.writeReg_hifEvt s v))

theorem cluTcmp_completes (hs : s.waits = []) (h : s.Reaches src) (hp : (∃ p, src = .core p) ∨ s.phase = 7) (v : Word) {c i : Nat} (hc : c < 100)
    (hi : i < 12) :
    Completes (.registerWrite src (Reg.cluTcmp c i) 4 v) s fun t =>
      t.raw (Reg.cluTcmp c i) = (s.raw (Reg.cluTcmp c i) &&& 0xFFFFFFFF00000000) ||| (v &&& 0xFFFFFFFF) ∧ SameRegs s t [Reg.cluTcmp c i] ∧
      t = { s with csr := t.csr } := by
  have hoff : Reg.cluTcmp c i = 0x1000000 + 0x40000 * c + 0x40 + 8 * i := rfl
  have h8 : Reg.cluTcmp c i % 8 = 0 := by omega
  have hsel : selOf (Reg.cluTcmp c i) 4 = 2 ^ 32 - 1 := by simp [selOf, h8]
  refine registerWrite_completes h hp hs h8 (by omega) (csrSizeOk_four h8) (csrAccessWf_host.mpr (by omega)) ?_
  rw [hsel, State.writeAny_cluTcmp s v hc hi, State.writeReg_cluTcmp s v hc hi]

/-- The host writes no register of the SEC block (R488), and before PHASE 7 none but those of the features (R401). -/
theorem host_write_ignored (hs : s.waits = []) (h8 : off % 8 = 0) (v : Word)
    (hw : (0xA00000 ≤ off ∧ off < 0xB00000) ∨
      (s.phase ≠ 7 ∧ off < 0x4000000 ∧ off ≠ Reg.devFeatctl ∧ (off < Reg.devFeatAccept 0 ∨ Reg.devFeatAccept 3 < off))) :
    exec (.registerWrite .host off 8 v) s = .next s := by
  have hm : s.mayWrite .host off = false := by
    obtain ⟨hlo, hhi⟩ | ⟨h7, -, hctl, hacc⟩ := hw
    · simp [State.mayWrite, hlo, hhi]
    · have hearly : Reg.devFeatAccept 0 ≤ off → Reg.devFeatAccept 3 < off := fun hle => hacc.resolve_left (by omega)
      simpa [State.mayWrite, h7, hctl] using fun _ => hearly
  have he : s.writeBy .host off 8 v = s := State.writeBy_host_ignored v (csrSizeOk_eight h8) (by rw [h8]; exact hm)
  exact (exec_registerWrite rfl (csrAccessWf_aligned h8 (by omega)) hs (by rw [he]; exact ⟨rfl, rfl⟩)).trans (by rw [he])

theorem read_completes (hs : s.waits = []) (h : s.Reaches src) (h8 : off % 8 = 0) (hlt : off < 0x4000000) (hrc : rcMask off = 0) :
    Completes (.rcRead src off 8) s fun t => t = s.emit (.csrData (s.csrRead off)) := by
  have he : s.readBy src off 8 = s.emit (.csrData (s.csrRead off)) := by
    rw [State.readBy_of_reaches h h8, State.readCsr_whole s h8, if_pos hrc]
  obtain ⟨hsrc, ha⟩ := h.wf (csrAccessWf_aligned h8 hlt)
  exact ⟨_, exec_rcRead hsrc ha hs (by rw [he]; exact ⟨rfl, rfl⟩), he⟩

theorem secMboxIn_completes (hs : s.waits = []) (h : s.Reaches src) {i : Nat} (hi : i < 1200) :
    Completes (.rcRead src (Reg.secMboxIn i) 8) s fun t =>
      t.hif.out = s.hif.out ++ [.csrData (s.cur (Reg.secMboxIn i))] ∧ t.raw (Reg.secMboxIn i) = 0 ∧ SameRegs s t [Reg.secMboxIn i] ∧
      SameBytes s t ∧ SameCores s t [] := by
  have hoff : Reg.secMboxIn i = 0xA10000 + 0x10 * i := rfl
  have h8 : Reg.secMboxIn i % 8 = 0 := by omega
  have he : s.readBy src (Reg.secMboxIn i) 8 = (s.put (Reg.secMboxIn i) 0).emit (.csrData (s.cur (Reg.secMboxIn i))) := by
    rw [State.readBy_of_reaches h h8, State.readCsr_secMboxIn s hi]
  obtain ⟨hsrc, ha⟩ := h.wf (csrAccessWf_aligned h8 (by omega))
  refine ⟨_, exec_rcRead hsrc ha hs ?_, ?_⟩ <;> rw [he]
  · exact ⟨rfl, rfl⟩
  · exact ⟨rfl, State.raw_put_self .., sameRegs_put s _ 0, fun l => by cases l <;> rfl, fun _ _ => rfl⟩

/-- The two halves of a counter, read by the host in turn. -/
theorem hostCounterRead_completes (hs : s.waits = []) (h8 : off % 8 = 0) (hlt : off + 4 < 0x4000000) (hcnt : isCounter off = true) :
    Completes (.hostCounterRead off) s (fun t =>
      t.hif.out = s.hif.out ++ [.csrData (s.csrRead off &&& 0xFFFFFFFF)] ∧ t.hif.latch = some (off, s.csrRead off) ∧ t.csr = s.csr) ∧
    (∀ v, s.hif.latch = some (off, v) → Completes (.hostCounterRead (off + 4)) s fun t =>
      t.hif.out = s.hif.out ++ [.csrData (v >>> 32)] ∧ t.csr = s.csr) := by
  have hwf (x : Nat) (hx : x % 4 = 0) (hlt : x < 0x4000000) : (Instr.hostCounterRead x).wf = true := by simp [Instr.wf, hx, hlt]
  refine ⟨?_, fun v hl => ?_⟩
  · refine ⟨_, exec_hostCounterRead (hwf _ (by omega) (by omega)) hs ?_, ?_⟩ <;> rw [State.hostRead4_low s h8 hcnt]
    · exact ⟨rfl, rfl⟩
    · exact ⟨rfl, rfl, rfl⟩
  · refine ⟨_, exec_hostCounterRead (hwf _ (by omega) hlt) hs ?_, ?_⟩ <;> rw [State.hostRead4_high s h8 hcnt hl] <;> exact ⟨rfl, rfl⟩

theorem csrAccessWf_bar2 (h : off + 4 ≤ 0x10000) : csrAccessWf .bar2 off 4 = true := by simp [csrAccessWf, h]

theorem csrAccessWf_config (h : off + 4 ≤ 0x1000) : csrAccessWf .config off 4 = true := by simp [csrAccessWf, h]

theorem bar2Entry_completes (hs : s.waits = []) (v : Word) {vec k : Nat} (hv : vec < 32) (hk : k < 3) :
    Completes (.registerWrite .bar2 (16 * vec + 4 * k) 4 v) s fun t =>
      t.bar2Word (4 * vec + k) = wfld v 31 0 ∧ (∀ d, d ≠ 4 * vec + k → t.bar2Word d = s.bar2Word d) ∧
      t = { s with hif := { s.hif with table := t.hif.table } } := by
  have hd : 4 * vec + k < 128 := by omega
  have h3 : (4 * vec + k) % 4 ≠ 3 := by omega
  have he := State.writeBy_bar2 s v (off := 16 * vec + 4 * k) (by omega)
  rw [show (16 * vec + 4 * k) / 4 = 4 * vec + k by omega, State.bar2Write_entry s _ hd h3] at he
  have hread := State.bar2Word_set s hd h3 (wfld_lt v 31 0)
  refine ⟨_, exec_registerWrite rfl (csrAccessWf_bar2 (by omega)) hs ?_, ?_⟩ <;> rw [he]
  · exact ⟨rfl, rfl⟩
  · exact ⟨(hread _).trans (if_pos rfl), fun d hd' => (hread d).trans (if_neg hd'), rfl⟩

theorem wfld_low_mod_two (v : Word) : wfld v 31 0 % 2 = wfld v 0 0 := by
  simp only [wfld, Machine.fld, Nat.shiftRight_zero]
  omega

theorem bar2Mask_completes (hs : s.waits = []) (v : Word) {vec : Nat} (hv : vec < 32) :
    (wfld v 0 0 = 1 → Completes (.registerWrite .bar2 (16 * vec + 12) 4 v) s fun t =>
      t.hif.mask.getLsbD vec = true ∧ (∀ k, k < 32 → k ≠ vec → t.hif.mask.getLsbD k = s.hif.mask.getLsbD k) ∧
      t = { s with hif := { s.hif with mask := t.hif.mask } }) ∧
    (wfld v 0 0 = 0 → Completes (.registerWrite .bar2 (16 * vec + 12) 4 v) s fun t =>
      t.hif.mask.getLsbD vec = false ∧ t.hif.out = s.hif.out ++ (if s.hif.pend.getLsbD vec then [.msix vec] else []) ∧ t.csr = s.csr) := by
  have ha : csrAccessWf .bar2 (16 * vec + 12) 4 = true := csrAccessWf_bar2 (by omega)
  have he := State.writeBy_bar2 s v (off := 16 * vec + 12) (by omega)
  rw [show (16 * vec + 12) / 4 = 4 * vec + 3 by omega, State.bar2Write_mask s _ hv, wfld_low_mod_two] at he
  refine ⟨fun h1 => ?_, fun h0 => ?_⟩
  · rw [h1, if_neg (by decide)] at he
    have hbit (k : Nat) (hk : k < 32) : (s.hif.mask ||| 1#32 <<< vec).getLsbD k = (s.hif.mask.getLsbD k || decide (k = vec)) := by
      rw [BitVec.getLsbD_or, getLsbD_oneHot hk]
    refine ⟨_, exec_registerWrite rfl ha hs ?_, ?_⟩ <;> rw [he]
    · exact ⟨rfl, rfl⟩
    · exact ⟨by simp [hbit vec hv], fun k hk hne => by simp [hbit k hk, hne], rfl⟩
  · rw [h0, if_pos rfl] at he
    obtain ⟨hmask, hout, hcsr, hq⟩ := State.unmask_spec s hv
    refine ⟨_, exec_registerWrite rfl ha hs ?_, ?_⟩ <;> rw [he]
    · exact hq
    · exact ⟨hmask, hout, hcsr⟩

theorem functionRead_completes (hs : s.waits = []) (h4 : off % 4 = 0) :
    (off + 4 ≤ 0x10000 → Completes (.rcRead .bar2 off 4) s fun t => t = s.emit (.csrData (BitVec.ofNat 64 (s.bar2Word (off / 4))))) ∧
    (off + 4 ≤ 0x1000 → Completes (.rcRead .config off 4) s fun t => t = s.emit (.csrData (BitVec.ofNat 64 (s.confRead (off / 4))))) := by
  refine ⟨fun h => ?_, fun h => ?_⟩
  · have he := State.readBy_bar2 s h4
    exact ⟨_, exec_rcRead rfl (csrAccessWf_bar2 h) hs (by rw [he]; exact ⟨rfl, rfl⟩), he⟩
  · have he := State.readBy_config s h4
    exact ⟨_, exec_rcRead rfl (csrAccessWf_config h) hs (by rw [he]; exact ⟨rfl, rfl⟩), he⟩

theorem confWrite_completes (hs : s.waits = []) (h4 : off % 4 = 0) (h : off + 4 ≤ 0x1000) (v : Word) :
    Completes (.registerWrite .config off 4 v) s fun t =>
      t.confRead (off / 4) =
        ((Config.confWord (off / 4) &&& ~~~(Config.confMask (off / 4))) ||| (BitVec.ofNat 32 (wfld v 31 0) &&& Config.confMask (off / 4))).toNat ∧
      t.csr = s.csr ∧ t.mem = s.mem ∧ t.cores = s.cores := by
  have he := State.writeBy_config s v h4
  have hlow : wfld v 31 0 % 2 ^ 32 % 2 ^ 64 = wfld v 31 0 := by
    have := wfld_lt v 31 0
    omega
  refine ⟨_, exec_registerWrite rfl (csrAccessWf_config h) hs ?_, ?_⟩ <;> rw [he]
  · exact ⟨rfl, rfl⟩
  · refine ⟨?_, rfl, rfl, rfl⟩
    simp only [State.confRead, State.confWrite, Sparse.get_set_self, BitVec.toNat_ofNat, hlow]

/-- Settles O50: a refused access leaves its record or its exception alone, and each write and read has the effect of its register. -/
theorem registerAccess : Obligations.RegisterAccess := by
  intro s hs may
  refine ⟨fun off size v ha => ⟨fun hbad => ?_, fun p hp hbar => ?_⟩, fun src v hmay hp => ?_, fun off v h8 hw => host_write_ignored hs h8 v hw,
    fun src off hmay h8 hlt hrc => read_completes hs hmay h8 hlt hrc, fun i hi src hmay => secMboxIn_completes hs hmay hi,
    fun o h8 hlt hcnt => hostCounterRead_completes hs h8 hlt hcnt, fun vec v hv => ?_, fun off v h4 => ?_⟩
  · obtain ⟨hwrite, hread⟩ := badAccess_completes hs ha hbad v
    exact ⟨hwrite, hread, mgmt_bad_ignored hs ha hbad v⟩
  · exact core_barred_completes hs ha hp (State.coreBars_eq_some hbar) v (State.coreRefused_spec ..)
  · exact ⟨hifEvten_completes hs hmay hp v, hifEvt_completes hs hmay hp v, fun c i hc hi => cluTcmp_completes hs hmay hp v hc hi⟩
  · exact ⟨fun k hk => bar2Entry_completes hs v hv hk, bar2Mask_completes hs v hv⟩
  · obtain ⟨hbar, hconf⟩ := functionRead_completes (off := off) hs h4
    exact ⟨hbar, fun h => ⟨hconf h, confWrite_completes hs h4 h v⟩⟩

end Sys2Proof.Machine
end
